-- ==== Sys2Proof/Word.lean ====
section
/-! DEFINITION. The words of the LF-640: a byte of a frame, a character of the backbone, a card token. -/

namespace Sys2Proof

/-- A data byte of a frame (spec/08 R149). -/
abbrev Byte := BitVec 8

/-- A nine-bit character of the backbone: the marker above the eight bits of its value (spec/08 section 8.1). -/
abbrev Character := BitVec 9

/-- A card token: 56 bits (spec/00_scope.md, Units). -/
abbrev Token := BitVec 56

end Sys2Proof
end

