-- ==== Sys2Proof/Syntax.lean ====
section
/-! DEFINITION. The commands of the LF-640: one constructor for each row of spec/opcode_table.json, with the row's
operands. A request row carries the source node of the request frame (spec/08 R159) and the request's arguments as
numbers (R160 gives their widths; WellFormed.lean states them). A link row carries its port. -/

namespace Sys2Proof

/-- The two link ports (spec/08). -/
inductive Port where
  | line
  | office
  deriving DecidableEq, Repr

/-- Where the Frame Switch delivers a frame (spec/08 R155); `transit` is the transit buffer toward the other port. -/
inductive Destination where
  | tapQueue
  | management
  | clock
  | transit
  deriving DecidableEq, Repr

/-- The responses that can wait for room in the response queue (spec/09 R164): the response of the request in hand and
the three completion responses. -/
inductive Waiter where
  | requestInHand
  | tariffCopy
  | dayChange
  | poolAudit
  deriving DecidableEq, Repr

/-- The argument of SETTING_WRITE: a group with one value for each of its settings, in the order of spec/09 section
9.2, or a group byte that names no group (R166). -/
inductive SettingValues where
  | link (nodeAddress pauseLimit : Nat)
  | timing (sweepPeriod beaconLimit verdictLife futureTolerance : Nat)
  | journey (maxDuration passbackWindow breakWindow orphanHold shortageLevel : Nat)
  | other (group : Nat)
  deriving DecidableEq, Repr

/-- The commands, one for each row of spec/opcode_table.json. -/
inductive Instr where
  /-- POWER_ON (R177). -/
  | powerOn
  /-- FULL_RESET: ENGINE_RESET naming FULL, from node `src` (R164, R177). -/
  | fullReset (src : Nat)
  /-- WARM_RESET: ENGINE_RESET naming WARM, from node `src` (R164, R177). -/
  | warmReset (src : Nat)
  /-- SETTING_WRITE (R166). -/
  | settingWrite (src : Nat) (values : SettingValues)
  /-- SETTING_READ (R167). -/
  | settingRead (src group : Nat)
  /-- TABLE_SEEK (R32). -/
  | tableSeek (src table index : Nat)
  /-- TABLE_WRITE: the count and the bytes of the entries, in the entry layout of the cursor's table (R33, R160). -/
  | tableWrite (src count : Nat) (entries : List Byte)
  /-- TABLE_READ: the count and the bank byte, `none` when the request names no bank (R34, R35, R160). -/
  | tableRead (src count : Nat) (bank : Option Nat)
  /-- TARIFF_CHECK (R37). -/
  | tariffCheck (src : Nat)
  /-- TARIFF_COMMIT (R38, R39). -/
  | tariffCommit (src : Nat)
  /-- TARIFF_COPY (R42). -/
  | tariffCopy (src : Nat)
  /-- TARIFF_COPY_COMPLETION (R42). -/
  | tariffCopyCompletion
  /-- DENY_ADD: the count byte and the tokens carried (R44). -/
  | denyAdd (src count : Nat) (tokens : List Token)
  /-- DENY_REMOVE: the count byte and the tokens carried (R45). -/
  | denyRemove (src count : Nat) (tokens : List Token)
  /-- SERVICE_START (R175). -/
  | serviceStart (src : Nat)
  /-- SERVICE_STOP (R176). -/
  | serviceStop (src : Nat)
  /-- DAY_CHANGE: the new day number and the day type byte (R143, R144). -/
  | dayChange (src day dayType : Nat)
  /-- JOURNEY_QUERY (R64, R171). -/
  | journeyQuery (src : Nat) (token : Token)
  /-- POOL_AUDIT (R68). -/
  | poolAudit (src : Nat)
  /-- AUDIT_CHAIN_WALK (R69): over at most `slots` slots of the chain, or to its end (R68). -/
  | auditChainWalk (slots : Option Nat := none)
  /-- AUDIT_SLOT_EXAMINATION (R70). -/
  | auditSlotExamination
  /-- AUDIT_SLOT_TEST: `passes` says whether the slot reads back the test record (R71). -/
  | auditSlotTest (passes : Bool)
  /-- AUDIT_ORDER_REBUILD (R72): at most `steps` of its steps, or to its end (R68). -/
  | auditOrderRebuild (steps : Option Nat := none)
  /-- POOL_AUDIT_COMPLETION (R72). -/
  | poolAuditCompletion
  /-- STATUS_READ (R170). -/
  | statusRead (src : Nat) (clear : Bool)
  /-- RESPONSE_QUEUE_JOIN: which waiting response takes the freed place (R163, R164). -/
  | responseQueueJoin (waiter : Waiter)
  /-- TAP_TAKE (R75): the tap is handled over at most `steps` steps, the rest waiting for the next TAP_TAKE while requests
  may be taken (R62), or to its end. -/
  | tapTake (steps : Option Nat := none)
  /-- RECORD_APPEND (R100). -/
  | recordAppend
  /-- SWEEP_TIMER_EXPIRY (R136). -/
  | sweepTimerExpiry
  /-- AGE_PASS_EXAMINATION (R138). -/
  | agePassExamination
  /-- FORCED_PASS_EXAMINATION (R141). -/
  | forcedPassExamination
  /-- DAY_CHANGE_WALK_EXAMINATION (R145). -/
  | dayChangeWalkExamination
  /-- DAY_CHANGE_COMPLETION (R146). -/
  | dayChangeCompletion
  /-- WALK_RECORD_APPEND (R139). -/
  | walkRecordAppend
  /-- SERVICE_TIME_TICK: one decisecond passes; `disturbed` lists the slots whose contents were disturbed in it
  (R130, R48). -/
  | serviceTimeTick (disturbed : List Nat)
  /-- CLOCK_HOLD (R131). -/
  | clockHold
  /-- BEACON: the day number and time of day it carries (R132). -/
  | beacon (day time : Nat)
  /-- BEACON_WATCHDOG_EXPIRY (R133). -/
  | beaconWatchdogExpiry
  /-- FRAME_START (R152). -/
  | frameStart (port : Port)
  /-- FRAME_END (R151). -/
  | frameEnd (port : Port)
  /-- ABORT (R149). -/
  | abort (port : Port)
  /-- LINE_ERROR: a character out of place (R149). -/
  | lineError (port : Port) (char : Character)
  /-- PAUSE (R157). -/
  | pause (port : Port)
  /-- RESUME (R157). -/
  | resume (port : Port)
  /-- PAUSE_LIMIT_EXPIRY (R157). -/
  | pauseLimitExpiry (port : Port)
  /-- STATUS_ENTRY_JOIN (R152). -/
  | statusEntryJoin (port : Port)
  /-- SWITCH_ENTRY (R153). -/
  | switchEntry (port : Port)
  /-- FRAME_DELIVERY: which waiting delivery of the head frame is taken (R155). -/
  | frameDelivery (port : Port) (destination : Destination)
  /-- EGRESS_GRANT (R158). -/
  | egressGrant (port : Port)
  /-- DATA_BYTE (R151). -/
  | dataByte (port : Port) (byte : Byte)
  /-- END_SENT (R158). -/
  | endSent (port : Port)
  /-- COPY_ENTRY (R42). -/
  | copyEntry
  /-- MALFORMED_REQUEST: a request payload as carried (R162). -/
  | malformedRequest (src : Nat) (payload : List Byte)
  /-- ENGINE_RESET: an ENGINE_RESET whose reset kind names neither WARM nor FULL (R164). -/
  | engineReset (src kind : Nat)
  deriving DecidableEq, Repr

end Sys2Proof
end

