-- ==== Sys2Proof/Decode.lean ====
section
/-! DEFINITION. Decoding a command from a word. The rows of spec/opcode_table.json give no bits, so no word spells a
command (log 23: DESIGN CHOICE). -/

namespace Sys2Proof

/-- The command that a word of `nbits` bits spells by the table: none, since no row gives bits (log 23). -/
def decodeTableWord (_nbits _w : Nat) : Option Instr := none

end Sys2Proof
end

