-- ==== Sys2Proof/Config.lean ====
section
/-! DEFINITION. The sizes the LF-640 fixes, and the free values: what the spec leaves open, as constants without a
body, so that nothing in Lean can say which value they have. -/

namespace Sys2Proof.Config

/-- Slots of the Journey Table (spec/03 R48). -/
abbrev slotCount : Nat := 12288
/-- Bucket heads of the Journey Table (spec/03 R53). -/
abbrev bucketCount : Nat := 4096
/-- Most orphans on the orphan order (spec/03 R57). -/
abbrev orphanOrderLimit : Nat := 512
/-- How far above the shortage level the free count must rise for shortage to clear (spec/03 R60). -/
abbrev shortageMargin : Nat := 128
/-- Cap accounts (spec/06 R117). -/
abbrev accountCount : Nat := 8192
/-- Account buckets (spec/06 R118). -/
abbrev accountBucketCount : Nat := 2048
/-- Most tokens on the deny list (spec/02 R44). -/
abbrev denyCapacity : Nat := 4096
/-- Most taps in the Tap Queue (spec/04 R74). -/
abbrev tapQueueCapacity : Nat := 128
/-- Most verdicts in the verdict queue (spec/04 R82). -/
abbrev verdictQueueCapacity : Nat := 32
/-- Most records in the journey record queue (spec/04 R100). -/
abbrev recordQueueCapacity : Nat := 256
/-- The record queue length at which the stall mark is set (spec/04 R76). -/
abbrev stallSetLevel : Nat := 240
/-- The record queue length at which a removal clears the stall mark (spec/04 R76). -/
abbrev stallClearLevel : Nat := 192
/-- Most responses in the response queue (spec/09 R163). -/
abbrev responseQueueCapacity : Nat := 4
/-- Frames a transit buffer holds (spec/08). -/
abbrev transitCapacity : Nat := 16
/-- Frame places of a receive buffer (spec/08 R152). -/
abbrev receivePlaces : Nat := 64
/-- Entries of a frame status queue (spec/08 R152). -/
abbrev statusQueueCapacity : Nat := 16
/-- Data bytes of a frame that a port stores (spec/08 R151). -/
abbrev storedBytes : Nat := 246
/-- Greatest payload length (spec/08 R151). -/
abbrev maxPayload : Nat := 240
/-- Places held at which a port sends PAUSE (spec/08 R156). -/
abbrev pauseLevel : Nat := 48
/-- Places held at which a port sends RESUME (spec/08 R156). -/
abbrev resumeLevel : Nat := 16
/-- Passed-over count at which a source takes the grant (spec/08 R158). -/
abbrev passedOverLimit : Nat := 8
/-- The last decisecond of a service day, where the clock holds (spec/07 R131). -/
abbrev lastDecisecond : Nat := 863999
/-- Greatest value of a counter (spec/09 R168). -/
abbrev counterMax : Nat := 4294967295
/-- Greatest count of a notice (spec/09 R172). -/
abbrev noticeCountMax : Nat := 65535
/-- The least forced age in deciseconds (spec/07 R141). -/
abbrev forcedAgeFloor : Nat := 6000
/-- How far a beacon may lag behind the clock and be accepted, in deciseconds (spec/07 R132). -/
abbrev beaconLag : Nat := 20
/-- The office's node address (spec/08 R160). -/
abbrev officeNode : Nat := 127

/-! ### Free values

A reckoning is only asked of a bank that has passed the tariff check (spec/01 section 1.1), so the spec states no
result for a bank in which a lookup finds nothing. The model leaves those results free (log 11: DESIGN CHOICE). -/

/-- The peak percent where no time band in use covers the minute, by day type and minute (log 11). -/
opaque unstatedPercent : Nat → Nat → Nat
/-- The span of a line with fewer than two stations in use (log 11). -/
opaque unstatedSpan : Nat
/-- What a fare scale with no band in use adds to the boarding charge, by fare distance (log 11). -/
opaque unstatedScale : Nat → Nat
/-- The class fare in a class whose step is 0, by peak fare and payable percent (log 11). -/
opaque unstatedClassFare : Nat → Nat → Nat

end Sys2Proof.Config
end

