-- ==== Sys2Proof/Machine/State.lean ====
section
/-! DEFINITION. The state of the LF-640: every register, table, queue, mark and timer the spec names, as plain data.
Times are deciseconds unless a name says otherwise. A store indexed by number (slots, bucket heads, accounts, account
buckets) is a list of (number, value) pairs with rising numbers; an unlisted number reads as the value after reset. -/

namespace Sys2Proof.Machine

/-- Day types (spec/07). -/
inductive DayType where
  | workday
  | saturday
  | sundayHoliday
  deriving DecidableEq, Repr

/-- The engine modes (spec/10 R174). -/
inductive Mode where
  | maintenance
  | service
  deriving DecidableEq, Repr

/-- The two tariff banks (spec/02 R25). -/
inductive BankName where
  | bankA
  | bankB
  deriving DecidableEq, Repr

/-! ### Tariff Store (spec/02) -/

/-- A station table entry (R27). -/
structure StationEntry where
  inUse : Bool := false
  chainage : Nat := 0
  breakPermitted : Bool := false
  deriving DecidableEq, Repr

/-- A fare band table entry; in use when its upper limit is above 0 (R28). -/
structure FareBandEntry where
  upperLimit : Nat := 0
  rate : Nat := 0
  deriving DecidableEq, Repr

/-- A time band table entry (R29). -/
structure TimeBandEntry where
  inUse : Bool := false
  startMinute : Nat := 0
  percent : Nat := 0
  deriving DecidableEq, Repr

/-- A class table entry (R30). -/
structure ClassEntry where
  inUse : Bool := false
  payable : Nat := 0
  step : Nat := 0
  dailyCap : Nat := 0
  deriving DecidableEq, Repr

/-- The constants table entry (R31). -/
structure ConstantsEntry where
  boardingCharge : Nat := 0
  fareCeiling : Nat := 0
  sameStationFee : Nat := 0
  minimumDistance : Nat := 0
  sameStationGrace : Nat := 0
  deriving DecidableEq, Repr

/-- One table of a bank: an entry for every place of its capacity, and its length (R26). -/
structure BankTable (α : Type) where
  entries : List α
  length : Nat
  deriving DecidableEq, Repr

/-- One tariff bank (R25). -/
structure Bank where
  stations : BankTable StationEntry
  fareBands : BankTable FareBandEntry
  timeBands : BankTable TimeBandEntry
  classes : BankTable ClassEntry
  constants : BankTable ConstantsEntry
  deriving DecidableEq, Repr

/-- A bank after power-on: every entry not in use and zero, every length 0 (R47). -/
def Bank.empty : Bank where
  stations := ⟨List.replicate 64 {}, 0⟩
  fareBands := ⟨List.replicate 16 {}, 0⟩
  timeBands := ⟨List.replicate 18 {}, 0⟩
  classes := ⟨List.replicate 16 {}, 0⟩
  constants := ⟨List.replicate 1 {}, 0⟩

/-- The banks, their roles, the marks and the load cursor (spec/02 section 2.1). -/
structure TariffStore where
  bankA : Bank
  bankB : Bank
  live : BankName
  pendingSwap : Bool
  valid : Bool
  cursorTable : Nat
  cursorIndex : Nat
  deriving DecidableEq, Repr

/-! ### Journey Table (spec/03) -/

/-- The flags of records, cores and orphans (spec/08 R160, JOURNEY payload). -/
structure Flags where
  offlineEntry : Bool := false
  offlineExit : Bool := false
  clockDoubt : Bool := false
  timeClamped : Bool := false
  denied : Bool := false
  capUntracked : Bool := false
  classSubstituted : Bool := false
  damaged : Bool := false
  recovered : Bool := false
  forced : Bool := false
  deriving DecidableEq, Repr

/-- The state of a held journey; the break exit time is present only while BROKEN (R50). -/
inductive JourneyState where
  | opened
  | broken (breakExit : Nat)
  deriving DecidableEq, Repr

/-- A journey core (R50). -/
structure Core where
  token : Token
  cls : Nat
  day : Nat
  dayType : DayType
  state : JourneyState
  entryStation : Nat
  entryTime : Nat
  firstEntryTime : Nat
  entryGate : Nat
  extensions : List Nat
  flags : Flags
  next : Option Nat
  deriving DecidableEq, Repr

/-- A leg extension (R51). -/
structure Extension where
  entryStation : Nat
  entryTime : Nat
  exitStation : Nat
  exitTime : Nat
  metres : Nat
  owner : Nat
  deriving DecidableEq, Repr

/-- An orphan exit (R52, R101). -/
structure Orphan where
  token : Token
  cls : Nat
  day : Nat
  exitStation : Nat
  exitGate : Nat
  exitTime : Nat
  arrival : Nat
  flags : Flags
  next : Option Nat
  nextOrder : Option Nat
  deriving DecidableEq, Repr

/-- The record an allocated slot holds (R48). -/
inductive Content where
  | core (c : Core)
  | extension (e : Extension)
  | orphan (o : Orphan)
  deriving DecidableEq, Repr

/-- A slot that is not FREE: allocated, with its record and whether its check agrees with its contents, or
QUARANTINED, whose contents are not read (R48; log 8: DESIGN CHOICE, log 22: DESIGN CHOICE). -/
inductive Slot where
  | allocated (content : Content) (intact : Bool)
  | quarantined
  deriving DecidableEq, Repr

/-- The five kinds of the slot kind map (R48). -/
inductive Kind where
  | free
  | core
  | extension
  | orphan
  | quarantined
  deriving DecidableEq, Repr

/-- The five counts (R49). -/
structure Counts where
  free : Nat
  quarantined : Nat
  cores : Nat
  extensions : Nat
  orphans : Nat
  deriving DecidableEq, Repr

/-- The orphan order: head, tail and length (R57). -/
structure OrphanOrder where
  head : Option Nat
  tail : Option Nat
  length : Nat
  deriving DecidableEq, Repr

/-- The free list: the slots returned to its head, then the slots `fresh`, `fresh + 1`, … 12,287 never yet taken
(R55, R73; log 21: DESIGN CHOICE). -/
structure FreeList where
  returned : List Nat
  fresh : Nat
  deriving DecidableEq, Repr

/-- The Journey Table (spec/03 section 3.1). A slot not listed is FREE, a bucket not listed has head none. -/
structure JourneyTable where
  slots : List (Nat × Slot)
  heads : List (Nat × Nat)
  free : FreeList
  order : OrphanOrder
  counts : Counts
  shortage : Bool
  marks : List Nat
  deriving DecidableEq, Repr

/-! ### Cap Table (spec/06) -/

/-- A cap account that is not never used (R117). -/
structure Account where
  token : Token
  day : Nat
  cap : Nat
  spent : Nat
  journeys : Nat
  next : Option Nat
  deriving DecidableEq, Repr

/-- An account bucket into which an account was opened: its day mark and its head (R118). -/
structure CapBucket where
  mark : Nat
  head : Nat
  deriving DecidableEq, Repr

/-- The Cap Table (spec/06 section 6.1). An account not listed is never used; a bucket not listed has no head and no
mark. -/
structure CapTable where
  accounts : List (Nat × Account)
  buckets : List (Nat × CapBucket)
  hint : Nat
  deriving DecidableEq, Repr

/-! ### Taps, verdicts and journey records (spec/04) -/

/-- The fields of one TAP frame, as carried (R74, R160). -/
structure Tap where
  token : Token
  cls : Nat
  station : Nat
  gate : Nat
  direction : Nat
  day : Nat
  time : Nat
  gateDecided : Nat
  deriving DecidableEq, Repr

/-- A Tap Queue entry: the tap and its arrival stamp (R74). -/
structure TapEntry where
  tap : Tap
  stamp : Nat
  deriving DecidableEq, Repr

/-- Verdicts (R81). -/
inductive VerdictKind where
  | allow
  | allowNote
  | refuse
  | notInService
  deriving DecidableEq, Repr

/-- Reasons (R81). -/
inductive Reason where
  | none
  | denied
  | alreadyInside
  | previousSettled
  | untracked
  | journeyHeld
  | noEntryFound
  deriving DecidableEq, Repr

/-- A verdict as queued (R81). -/
structure Verdict where
  station : Nat
  gate : Nat
  token : Token
  kind : VerdictKind
  reason : Reason
  charged : Option Nat
  capRemaining : Option Nat
  deriving DecidableEq, Repr

/-- Record kinds (spec/00_scope.md, Terms; R99). -/
inductive RecordKind where
  | complete
  | incomplete
  | unmatchedExit
  | entryCancelled
  | refusal
  | entryUntracked
  deriving DecidableEq, Repr

/-- A station and the time there. -/
structure StationTime where
  station : Nat
  time : Nat
  deriving DecidableEq, Repr

/-- A leg of a journey record, its ends and metres present or absent (R99, R160). -/
structure RecordLeg where
  entry : Option StationTime
  exit : Option StationTime
  metres : Option Nat
  deriving DecidableEq, Repr

/-- Fare distance (hm), distance fare (mills) and peak percent of a record (R22). -/
structure FareBasis where
  distance : Nat
  distanceFare : Nat
  percent : Nat
  deriving DecidableEq, Repr

/-- A journey record (R99, R160). -/
structure JourneyRecord where
  kind : RecordKind
  token : Token
  cls : Nat
  day : Nat
  legs : List RecordLeg
  basis : Option FareBasis
  classFare : Nat
  charged : Nat
  capSpent : Option Nat
  flags : Flags
  deriving DecidableEq, Repr

/-! ### Settlements in hand (spec/01, spec/04) -/

/-- What is to be settled, with the legs and times the case needs (R1, R4). A leg with both ends and no metres is measured
at the reckoning (R2). -/
inductive SettlementCase where
  /-- a journey to be completed -/
  | completed (dayType : DayType) (firstEntry : Nat) (legs : List RecordLeg)
  /-- a same-station exit -/
  | sameStation (station entryTime exitTime : Nat)
  /-- a journey to be settled incomplete -/
  | incomplete (legs : List RecordLeg)
  /-- an exit to be settled unmatched -/
  | unmatched (station exitTime : Nat)
  deriving DecidableEq, Repr

/-- A settlement request to the Fare Reckoner (R1), with the flags that its record takes from the slot and the tap
(R22). -/
structure SettlementRequest where
  token : Token
  cls : Nat
  day : Nat
  flags : Flags
  case : SettlementCase
  deriving DecidableEq, Repr

/-- A request reckoned through Stages 1 to 4 and the test of R13: the record, uncapped as it stands, and the daily cap
with which it goes to the Cap Table, when it goes there. -/
structure Reckoned where
  record : JourneyRecord
  dailyCap : Option Nat
  deriving DecidableEq, Repr

/-- How a held journey is to be settled (R4, R99). -/
inductive Closing where
  /-- one leg, out where it went in, at the exit time (R94) -/
  | sameStation (exitTime : Nat)
  /-- a final exit at a station and time (R96) -/
  | final (station exitTime : Nat)
  /-- over its completed legs (R89) -/
  | completedLegs
  /-- INCOMPLETE (R87) -/
  | incomplete
  deriving DecidableEq, Repr

/-- A tap as it stands after the checks of R77 to R80 (or R111), all made when it was taken: who, where, when, the class
found, the day type held then and the flags carried. `earlier` says that its day lay below the current day, `offline`
that its gate had already decided. -/
structure TapContext where
  token : Token
  cls : Nat
  station : Nat
  gate : Nat
  day : Nat
  dayType : DayType
  time : Nat
  stamp : Nat
  earlier : Bool
  offline : Bool
  denied : Bool
  flags : Flags
  deriving DecidableEq, Repr

/-- What handling a tap gives: its verdict, if it is live and calls for one, with charged and cap remaining, and its
records in the order of their settlement (R75, R81, R100). -/
structure TapOutcome where
  verdict : VerdictKind
  reason : Reason
  charged : Option Nat
  capRemaining : Option Nat
  records : List JourneyRecord
  deriving DecidableEq, Repr

/-- Where the predecessor of a record that is to be unlinked is taken from (R54). -/
inductive Predecessor where
  /-- known from the lookup that found the record: a slot, or none at the head of the chain -/
  | known (slot : Option Nat)
  /-- found by a walk of the record's chain from its head -/
  | sought
  deriving DecidableEq, Repr

/-- The steps of a card operation, between any two of which a request may be taken (R62; log 5: DESIGN CHOICE). A record
that one step has read is not read again by a later one (log 46: DESIGN CHOICE). `own` says that the settlement is the
tap's own, whose amounts its verdict carries (R81). -/
inductive CardStep where
  /-- the lookup, with the decision that follows from what it returns (R85, R92, R113) -/
  | lookup
  /-- a journey's extensions are read and its slots released (R67) -/
  | closeJourney (slot : Nat) (core : Core) (how : Closing) (extra : Flags) (own : Bool) (before : Predecessor)
  /-- an orphan to be settled is released (R104) -/
  | closeOrphan (slot : Nat) (orphan : Orphan) (before : Predecessor)
  /-- an orphan matched is released, and the trip reckoned as the match is taken (R106, R107) -/
  | matchOrphan (slot : Nat) (orphan : Orphan) (before : Predecessor)
  /-- the reckoning, taken whole (R1), with the test of R13 -/
  | reckon (request : SettlementRequest) (own : Bool)
  /-- the Cap Table's charge, taken whole (R119) -/
  | charge (reckoned : Reckoned) (own : Bool)
  /-- a core is opened (R90, R91) -/
  | openCore
  /-- a leg extension is written for a break (R95) -/
  | holdLeg (slot : Nat) (core : Core) (before : Predecessor)
  /-- a core is rewritten, continued or held (R88, R95) -/
  | rewriteCore (slot : Nat) (core : Core)
  /-- the oldest orphan gives way when the order is full (R58) -/
  | makeRoom
  /-- an orphan is stored (R97) -/
  | storeOrphan
  /-- a stored orphan joins the orphan order (R57) -/
  | joinOrder (slot : Nat)
  deriving DecidableEq, Repr

/-- A tap in HANDLING: as taken, as checked, the steps its card operation still calls for, the next first, and its outcome
so far (R75). -/
structure Handling where
  entry : TapEntry
  context : TapContext
  steps : List CardStep
  outcome : TapOutcome
  deriving DecidableEq, Repr

/-- The states of the Journey Unit (R75). -/
inductive UnitState where
  | idle
  | handling (h : Handling)
  | appending (records : List JourneyRecord)
  deriving DecidableEq, Repr

/-! ### Service Clock and Sweep Unit (spec/07) -/

/-- The Service Clock; `day` is none while unset (section 7.1). -/
structure Clock where
  day : Option Nat
  dayType : DayType
  time : Nat
  doubt : Bool
  deriving DecidableEq, Repr

/-- Where the pool audit stands between two examinations (spec/03 R68; log 19: DESIGN CHOICE). -/
inductive AuditStep where
  /-- the first step: the bucket, and the last slot passed on its chain (R69) -/
  | chains (bucket : Nat) (passed : Option Nat)
  /-- the second step: the next slot (R70) -/
  | slots (next : Nat)
  /-- the third step: the next slot (R71) -/
  | tests (next : Nat)
  /-- the fourth step: the next marked slot to read, and the orphans read, with their arrival times, in the new order
  (R72) -/
  | gather (next : Nat) (found : List (Nat × Nat))
  /-- the fourth step: the orphans of the new order, of which the oldest beyond 512 are still to be settled (R72) -/
  | shed (orphans : List Nat)
  /-- the fourth step: the orphans still to be linked into the new order (R72) -/
  | link (orphans : List Nat)
  /-- every examination made; the last record may still wait for room -/
  | ending
  deriving DecidableEq, Repr

/-- A walk in flight with the next slot to examine; 12,288 when every slot is examined and a record still waits.
`forcing` says that a forced pass still settles by the forced age (R142). -/
inductive Walk where
  | age (next : Nat)
  | forced (next : Nat) (forcing : Bool)
  | day (next : Nat)
  | audit (step : AuditStep)
  deriving DecidableEq, Repr

/-- The day-change walk counts (R145). -/
structure DayCounts where
  incomplete : Nat := 0
  complete : Nat := 0
  unmatched : Nat := 0
  damaged : Nat := 0
  deriving DecidableEq, Repr

/-- The counts the audit response gives, but for the quarantined count at its end (spec/03 R72). -/
structure AuditCounts where
  recovered : Nat := 0
  damaged : Nat := 0
  loneReleased : Nat := 0
  restored : Nat := 0
  rebuildSettled : Nat := 0
  deriving DecidableEq, Repr

/-- The Sweep Unit (section 7.3). `waiting` are the records the walk in flight has formed and not appended; `kept` are
those of passes ended while they waited (R139). -/
structure SweepUnit where
  walk : Option Walk
  timer : Option Nat
  pendingExpiry : Bool
  forcedAge : Option Nat
  dayCounts : DayCounts
  auditCounts : AuditCounts
  waiting : List JourneyRecord
  kept : List JourneyRecord
  deriving DecidableEq, Repr

/-! ### Links (spec/08) -/

/-- A frame without its check bytes: destination, source, class and payload (R151). -/
structure Frame where
  destination : Byte
  source : Byte
  cls : Byte
  payload : List Byte
  deriving DecidableEq, Repr

/-- The outcome of a received frame (R151). -/
inductive FrameOutcome where
  | good
  | badCheck
  | overlong
  | aborted
  deriving DecidableEq, Repr

/-- A completed frame in its place of the receive buffer, with its status entry's outcome; its payload length, class
and destination are the header's (R152). -/
structure StoredFrame where
  bytes : List Byte
  outcome : FrameOutcome
  deriving DecidableEq, Repr

/-- The receive state (R149, R152): outside a frame (`synced` once a first START has come), inside a stored frame with
its bytes and how many were received, inside a frame that has no place. -/
inductive Receive where
  | outside (synced : Bool)
  | inside (bytes : List Byte) (received : Nat)
  | unstored
  deriving DecidableEq, Repr

/-- One link port (spec/08, the table at its head). The receive buffer's frames are those of `queue`, of `held` and the
one in reception. `routed` holds the deliveries of the head frame that still wait. `position` counts the characters of the
holding frame already sent, and `sent` lists every character sent, the last one last (R150; log 12: DESIGN CHOICE). -/
structure PortState where
  rx : Receive
  queue : List StoredFrame
  held : List StoredFrame
  routed : Option (List Destination)
  pauseSent : Bool
  partnerPaused : Bool
  pauseTimer : Option Nat
  holding : Option Frame
  position : Nat
  sent : List Character
  deriving DecidableEq, Repr

/-- The passed-over counts of the egress sources (R158). -/
structure PassedOver where
  response : Nat := 0
  notice : Nat := 0
  record : Nat := 0
  upTransit : Nat := 0
  verdict : Nat := 0
  downTransit : Nat := 0
  deriving DecidableEq, Repr

/-! ### Management Unit (spec/09) -/

/-- The LINK settings (section 9.2). -/
structure LinkSettings where
  nodeAddress : Nat
  pauseLimit : Nat
  deriving DecidableEq, Repr

/-- The TIMING settings (section 9.2). -/
structure TimingSettings where
  sweepPeriod : Nat
  beaconLimit : Nat
  verdictLife : Nat
  futureTolerance : Nat
  deriving DecidableEq, Repr

/-- The JOURNEY settings (section 9.2). -/
structure JourneySettings where
  maxDuration : Nat
  passbackWindow : Nat
  breakWindow : Nat
  orphanHold : Nat
  shortageLevel : Nat
  deriving DecidableEq, Repr

/-- The settings (section 9.2). -/
structure Settings where
  link : LinkSettings
  timing : TimingSettings
  journey : JourneySettings
  deriving DecidableEq, Repr

/-- The written marks of the three groups (R165). -/
structure WrittenMarks where
  link : Bool
  timing : Bool
  journey : Bool
  deriving DecidableEq, Repr

/-- The counters (R168), per-port counters once for each port. -/
structure Counters where
  tapsTaken : Nat := 0
  malformedTaps : Nat := 0
  tapsRefused : Nat := 0
  verdictsSent : Nat := 0
  staleVerdicts : Nat := 0
  complete : Nat := 0
  incomplete : Nat := 0
  unmatchedExit : Nat := 0
  entryCancelled : Nat := 0
  refusal : Nat := 0
  entryUntracked : Nat := 0
  capUntracked : Nat := 0
  badFramesLine : Nat := 0
  badFramesOffice : Nat := 0
  misplacedLine : Nat := 0
  misplacedOffice : Nat := 0
  lineErrorsLine : Nat := 0
  lineErrorsOffice : Nat := 0
  deriving DecidableEq, Repr

/-- Fault codes (R169). -/
inductive FaultCode where
  | slotCheck
  | malformedTap
  deriving DecidableEq, Repr

/-- A fault held in the fault record (R169). -/
structure FaultEntry where
  code : FaultCode
  number : Nat
  time : Nat
  deriving DecidableEq, Repr

/-- Causes of the CLOCK_DOUBT notice (R131, R133). -/
inductive DoubtCause where
  | endOfDay
  | beaconLate
  deriving DecidableEq, Repr

/-- A notice's kind with its detail (R172). -/
inductive NoticeDetail where
  | shortage (free : Nat)
  | shortageCleared (free : Nat)
  | clockDoubt (cause : DoubtCause) (time : Nat)
  | clockDispute (beaconDay beaconTime clockDay time : Nat)
  | partnerStalled (port : Port)
  | slotQuarantined (slot : Nat)
  deriving DecidableEq, Repr

/-- Notice kinds (R172). -/
inductive NoticeKind where
  | shortage
  | shortageCleared
  | clockDoubt
  | clockDispute
  | partnerStalled
  | slotQuarantined
  deriving DecidableEq, Repr

/-- An entry of the notice set (R172). -/
structure Notice where
  detail : NoticeDetail
  count : Nat
  time : Nat
  deriving DecidableEq, Repr

/-- Results (section 9.1). -/
inductive Result where
  | done
  | beyondEnd
  | badState
  | badArgument
  | tableInvalid
  | busy
  | notFound
  | listFull
  deriving DecidableEq, Repr

/-- The first failure of a tariff check: table, index and check number of R36. -/
structure CheckFailure where
  table : Nat
  index : Nat
  check : Nat
  deriving DecidableEq, Repr

/-- An entry that TABLE_READ returns (R160, entry layout). -/
inductive ReadEntry where
  | station (e : StationEntry)
  | fareBand (e : FareBandEntry)
  | timeBand (e : TimeBandEntry)
  | cls (e : ClassEntry)
  | constants (e : ConstantsEntry)
  | token (t : Token)
  deriving DecidableEq, Repr

/-- The data of the responses to the cursor, check, commit and copy requests (R160). -/
structure TariffReport where
  cursorTable : Nat
  cursorIndex : Nat
  length : Nat
  valid : Bool
  pendingSwap : Bool
  withdrawn : Bool
  live : BankName
  count : Nat
  failure : Option CheckFailure
  entries : List ReadEntry
  deriving DecidableEq, Repr

/-- What the SERVICE_START response names (R175). -/
inductive StartItem where
  | none
  | alreadyInService
  | linkNotWritten
  | timingNotWritten
  | journeyNotWritten
  | liveTariff
  | dayUnset
  deriving DecidableEq, Repr

/-- The data of the SERVICE_START response (R175, R160); the last three are absent when it is refused. -/
structure StartReport where
  item : StartItem
  failure : Option CheckFailure
  day : Nat
  dayType : DayType
  live : BankName
  deriving DecidableEq, Repr

/-- The data of the DAY_CHANGE response (R146). -/
structure DayReport where
  day : Nat
  dayType : DayType
  swapped : Bool
  live : BankName
  counts : DayCounts
  deriving DecidableEq, Repr

/-- A completed leg in a query answer: the leg, or none for a leg marked damaged (R64, R171). -/
abbrev QueryLeg := Option Extension

/-- The journey part of a query answer (R171). -/
inductive JourneyPart where
  | none
  | core (slot : Nat) (c : Core) (legs : List QueryLeg)
  | orphan (slot : Nat) (o : Orphan) (onOrder : Bool)
  deriving DecidableEq, Repr

/-- The account part of a query answer (R127): recorded cap, spent, journeys charged. -/
structure AccountPart where
  cap : Nat
  spent : Nat
  journeys : Nat
  deriving DecidableEq, Repr

/-- The data of the POOL_AUDIT response (R72). -/
structure AuditReport where
  counts : AuditCounts
  stillQuarantined : Nat
  deriving DecidableEq, Repr

/-- The data of the STATUS_READ response (R170). -/
structure StatusReport where
  mode : Mode
  clock : Clock
  counts : Counts
  pendingSwap : Bool
  written : WrittenMarks
  counters : Counters
  fault : Option FaultEntry
  deriving DecidableEq, Repr

/-- The data of a response, by its kind (R160). -/
inductive ResponseData where
  | malformed
  | setting (group : Nat) (written : Bool) (named : Nat) (held : SettingValues)
  | tariff (report : TariffReport)
  | deny (changed tokens : Nat)
  | serviceStart (report : StartReport)
  | serviceStop (before : Mode)
  | dayChange (report : Option DayReport)
  | query (journey : JourneyPart) (account : Option AccountPart)
  | poolAudit (report : Option AuditReport)
  | status (report : StatusReport)
  | engineReset (kind journeys orphans : Nat)
  deriving DecidableEq, Repr

/-- A response: the node it is sent to, the request kind as carried, the result and the data (R162, R160). -/
structure Response where
  destination : Nat
  kind : Nat
  result : Result
  data : ResponseData
  deriving DecidableEq, Repr

/-- A tariff copy in progress (R42, R43, R164): who asked, whether its start withdrew a commit, the next place to copy
(table 6 when every table is copied), and its response once formed. -/
structure CopyOperation where
  src : Nat
  withdrawn : Bool
  table : Nat
  index : Nat
  response : Option Response
  deriving DecidableEq, Repr

/-- A DAY_CHANGE in progress (R146, R164): who asked, what the response is to carry, whether its walk has ended, and its
response once formed. -/
structure DayOperation where
  src : Nat
  day : Nat
  dayType : DayType
  swapped : Bool
  live : BankName
  ended : Bool
  response : Option Response
  deriving DecidableEq, Repr

/-- A POOL_AUDIT in progress (R68, R164): who asked, the quarantined count at the end of its walk once that has ended
(R72), and its response once formed. -/
structure AuditOperation where
  src : Nat
  ended : Option Nat
  response : Option Response
  deriving DecidableEq, Repr

/-! ### The whole part -/

/-- The state of the LF-640. -/
structure State where
  /-- the commands that wait, first in first out (the model's own; log 1: DESIGN CHOICE) -/
  pending : List Instr
  mode : Mode
  clock : Clock
  /-- the beacon watchdog: time left, none when stopped (R133) -/
  watchdog : Option Nat
  tariff : TariffStore
  copy : Option CopyOperation
  /-- the deny list, ascending (R44) -/
  deny : List Token
  table : JourneyTable
  cap : CapTable
  taps : List TapEntry
  unit : UnitState
  stall : Bool
  sweep : SweepUnit
  verdicts : List Verdict
  records : List JourneyRecord
  responses : List Response
  notices : List Notice
  upTransit : List Frame
  downTransit : List Frame
  passed : PassedOver
  /-- the request in hand: its response, formed and not yet placed (R163) -/
  hand : Option Response
  dayOp : Option DayOperation
  auditOp : Option AuditOperation
  settings : Settings
  written : WrittenMarks
  counters : Counters
  fault : Option FaultEntry
  line : PortState
  office : PortState
  deriving DecidableEq, Repr

/-- Why a command could stop the machine. The spec gives every command an effect in every state, so there is no such
reason: no meaning answers with a fault, and the type has no constructor. -/
inductive Fault : Type where
  deriving DecidableEq, Repr

/-- Why the model could refuse a command. Raised by no meaning; safe, since a refusal proves nothing about a next
state. -/
inductive Refusal where
  /-- raised by exec for a command that has no meaning yet; safe -/
  | notModelled (mnemonic : String)
  deriving DecidableEq, Repr

/-- The Journey Table after either reset (R73). -/
def JourneyTable.empty : JourneyTable where
  slots := []
  heads := []
  free := ⟨[], 0⟩
  order := ⟨none, none, 0⟩
  counts := ⟨Config.slotCount, 0, 0, 0, 0⟩
  shortage := false
  marks := []

/-- The Cap Table after either reset (R129). -/
def CapTable.empty : CapTable where
  accounts := []
  buckets := []
  hint := 0

/-- The Tariff Store after power-on and a FULL reset (R47). -/
def TariffStore.empty : TariffStore where
  bankA := Bank.empty
  bankB := Bank.empty
  live := .bankA
  pendingSwap := false
  valid := false
  cursorTable := 1
  cursorIndex := 0

/-- The Sweep Unit after either reset (R148). -/
def SweepUnit.stopped : SweepUnit where
  walk := none
  timer := none
  pendingExpiry := false
  forcedAge := none
  dayCounts := {}
  auditCounts := {}
  waiting := []
  kept := []

/-- A port after either reset, having sent what `sent` lists (spec/08, R161). -/
def PortState.cleared (sent : List Character) : PortState where
  rx := .outside false
  queue := []
  held := []
  routed := none
  pauseSent := false
  partnerPaused := false
  pauseTimer := none
  holding := none
  position := 0
  sent := sent

/-- The settings after power-on and a FULL reset (section 9.2, R165). -/
def Settings.initial : Settings where
  link := { nodeAddress := 121, pauseLimit := 10 }
  timing := { sweepPeriod := 60, beaconLimit := 30, verdictLife := 20, futureTolerance := 60 }
  journey :=
    { maxDuration := 180, passbackWindow := 120, breakWindow := 45, orphanHold := 60, shortageLevel := 256 }

/-- RESUME (R160), which each port sends after power-on and after either reset (R150). -/
def resumeCharacter : Character := 0x111

/-- The part right after power-on, each port having sent its one RESUME (R177, R150; log 23: DESIGN CHOICE). -/
def State.reset : State where
  pending := []
  mode := .maintenance
  clock := { day := none, dayType := .workday, time := 0, doubt := true }
  watchdog := none
  tariff := TariffStore.empty
  copy := none
  deny := []
  table := JourneyTable.empty
  cap := CapTable.empty
  taps := []
  unit := .idle
  stall := false
  sweep := SweepUnit.stopped
  verdicts := []
  records := []
  responses := []
  notices := []
  upTransit := []
  downTransit := []
  passed := {}
  hand := none
  dayOp := none
  auditOp := none
  settings := Settings.initial
  written := { link := false, timing := false, journey := false }
  counters := {}
  fault := none
  line := PortState.cleared [resumeCharacter]
  office := PortState.cleared [resumeCharacter]

end Sys2Proof.Machine
end

