-- ==== Sys2Proof/Machine/Flags.lean ====
section
/-! DEFINITION. Flag computations: the flags of cores, orphans and records, joined and coded (spec/04 R99, spec/08
R160). -/

namespace Sys2Proof.Machine

/-- The union of two flag sets (R99). -/
def Flags.union (a b : Flags) : Flags where
  offlineEntry := a.offlineEntry || b.offlineEntry
  offlineExit := a.offlineExit || b.offlineExit
  clockDoubt := a.clockDoubt || b.clockDoubt
  timeClamped := a.timeClamped || b.timeClamped
  denied := a.denied || b.denied
  capUntracked := a.capUntracked || b.capUntracked
  classSubstituted := a.classSubstituted || b.classSubstituted
  damaged := a.damaged || b.damaged
  recovered := a.recovered || b.recovered
  forced := a.forced || b.forced

/-- A flag worth `n` when set. -/
def flagBit (b : Bool) (n : Nat) : Nat := if b then n else 0

/-- The two bytes of flags of a JOURNEY payload, as a number (R160). -/
def Flags.code (f : Flags) : Nat :=
  flagBit f.offlineEntry 1 + flagBit f.offlineExit 2 + flagBit f.clockDoubt 4 + flagBit f.timeClamped 8 +
  flagBit f.denied 16 + flagBit f.capUntracked 32 + flagBit f.classSubstituted 64 + flagBit f.damaged 128 +
  flagBit f.recovered 256 + flagBit f.forced 512

end Sys2Proof.Machine
end

