-- ==== Sys2Proof/Machine/Operands.lean ====
section
/-! DEFINITION. The layouts of spec/08 section 8.6: reading tap, beacon and request payloads, and writing verdict,
journey record, response and notice payloads; frames, their check and their characters (R150, R151, R160). -/

namespace Sys2Proof.Machine

/-! ### Numbers and tokens -/

/-- The number that bytes spell, high byte first (R160). -/
def beNat (bs : List Byte) : Nat := bs.foldl (fun n b => n * 256 + b.toNat) 0

/-- `n` in `width` bytes, high byte first (R160). -/
def beBytes : Nat → Nat → List Byte
  | 0, _ => []
  | width + 1, n => beBytes width (n / 256) ++ [BitVec.ofNat 8 n]

/-- The bytes `start` to `start + width - 1` of a payload, as a number. -/
def field (p : List Byte) (start width : Nat) : Nat := beNat ((p.drop start).take width)

/-- A card token of seven bytes (R160). -/
def tokenOf (bs : List Byte) : Token := BitVec.ofNat 56 (beNat bs)

/-- A yes or no byte. -/
def boolByte (b : Bool) : Byte := if b then 1 else 0

/-! ### Frames -/

/-- One step of the check's division: the remainder shifted by one bit with the next bit of data (R151). -/
def crcBit (r : BitVec 16) (bit : Bool) : BitVec 16 :=
  let shifted := r <<< 1
  if r.msb != bit then shifted ^^^ 0x1021 else shifted

/-- The check fed one byte, most significant bit first (R151). -/
def crcByte (r : BitVec 16) (b : Byte) : BitVec 16 :=
  [7, 6, 5, 4, 3, 2, 1, 0].foldl (fun acc i => crcBit acc (b.getLsbD i)) r

/-- The check of header and payload: the remainder of x^16 + x^12 + x^5 + 1, started with all ones (R151). -/
def frameCheck (bs : List Byte) : BitVec 16 := bs.foldl crcByte 0xFFFF

/-- The four header bytes and the payload of a frame (R151). -/
def Frame.body (f : Frame) : List Byte :=
  [f.destination, f.source, f.cls, BitVec.ofNat 8 f.payload.length] ++ f.payload

/-- A data byte as a character: marker 0 (spec/08 section 8.1). -/
def dataCharacter (b : Byte) : Character := b.zeroExtend 9

/-- The control characters START, END, PAUSE, ABORT and FILL, beside RESUME: marker 1 (R160). -/
def startCharacter : Character := 0x101
/-- END. -/
def endCharacter : Character := 0x102
/-- PAUSE. -/
def pauseCharacter : Character := 0x110
/-- ABORT. -/
def abortCharacter : Character := 0x11F
/-- FILL. -/
def fillCharacter : Character := 0x100

/-- The characters of a frame, in the order the port sends them: START, header, payload, check with the high byte
first, END (R150). -/
def Frame.characters (f : Frame) : List Character :=
  [startCharacter] ++ (f.body ++ beBytes 2 (frameCheck f.body).toNat).map dataCharacter ++ [endCharacter]

/-- The payload length in the header of a stored frame. -/
def StoredFrame.payloadLength (f : StoredFrame) : Nat := (f.bytes.getD 3 0).toNat

/-- The class in the header of a stored frame. -/
def StoredFrame.cls (f : StoredFrame) : Byte := f.bytes.getD 2 0

/-- The destination in the header of a stored frame. -/
def StoredFrame.destination (f : StoredFrame) : Nat := (f.bytes.getD 0 0).toNat

/-- The source in the header of a stored frame. -/
def StoredFrame.source (f : StoredFrame) : Nat := (f.bytes.getD 1 0).toNat

/-- The payload of a stored frame. -/
def StoredFrame.payload (f : StoredFrame) : List Byte := (f.bytes.drop 4).take f.payloadLength

/-- The frame a stored frame carries, without its check (R155). -/
def StoredFrame.frame (f : StoredFrame) : Frame where
  destination := f.bytes.getD 0 0
  source := f.bytes.getD 1 0
  cls := f.bytes.getD 2 0
  payload := f.payload

/-- The outcome of a frame at its END, from its stored bytes and the number of data bytes received (R151). -/
def judgeFrame (bytes : List Byte) (received : Nat) : FrameOutcome :=
  let payload := (bytes.getD 3 0).toNat
  if received > Config.storedBytes then .overlong
  else if received ≥ 4 ∧ payload > Config.maxPayload then .overlong
  else if received ≥ 4 ∧ received > 4 + payload + 2 then .overlong
  else if received < 6 ∨ received < 4 + payload + 2 then .badCheck
  else if (frameCheck (bytes.take (4 + payload))).toNat ≠ field bytes (4 + payload) 2 then .badCheck
  else .good

/-! ### Frame classes (R160) -/

/-- TAP. -/
def classTap : Byte := 0x21
/-- VERDICT. -/
def classVerdict : Byte := 0x22
/-- JOURNEY. -/
def classJourney : Byte := 0x31
/-- MGMT_REQ. -/
def classRequest : Byte := 0x41
/-- MGMT_RESP. -/
def classResponse : Byte := 0x42
/-- NOTICE. -/
def classNotice : Byte := 0x43
/-- BEACON. -/
def classBeacon : Byte := 0x44

/-! ### Taps and beacons -/

/-- The tap of a 17-byte TAP payload (R160). -/
def readTap (p : List Byte) : Tap where
  token := tokenOf (p.take 7)
  cls := field p 7 1
  station := field p 8 1
  gate := field p 9 1
  direction := field p 10 1
  day := field p 11 2
  time := field p 13 3
  gateDecided := field p 16 1

/-- The day number and time of a 5-byte BEACON payload (R160). -/
def readBeacon (p : List Byte) : Nat × Nat := (field p 0 2, field p 2 3)

/-! ### Requests -/

/-- A management request of good form, or one that fails the form check (R162). The form of a TABLE_WRITE also depends
on the cursor's table and is judged with it. -/
inductive Request where
  | settingWrite (values : SettingValues)
  | settingRead (group : Nat)
  | tableSeek (table index : Nat)
  | tableWrite (count : Nat) (entries : List Byte)
  | tableRead (count : Nat) (bank : Option Nat)
  | tariffCheck
  | tariffCommit
  | tariffCopy
  | denyAdd (count : Nat) (tokens : List Token)
  | denyRemove (count : Nat) (tokens : List Token)
  | serviceStart
  | serviceStop
  | dayChange (day dayType : Nat)
  | journeyQuery (token : Token)
  | poolAudit
  | statusRead (clear : Bool)
  | engineReset (kind : Nat)
  | malformed (kind : Nat)
  deriving DecidableEq, Repr

/-- The values of a SETTING_WRITE from its group byte on; none when the length does not fit the group (R160). -/
def readSettingValues (p : List Byte) : Option SettingValues :=
  match p with
  | [] => none
  | g :: v =>
    if g.toNat = 1 then
      if v.length = 2 then some (.link (field v 0 1) (field v 1 1)) else none
    else if g.toNat = 2 then
      if v.length = 6 then some (.timing (field v 0 2) (field v 2 1) (field v 3 1) (field v 4 2)) else none
    else if g.toNat = 3 then
      if v.length = 8 then
        some (.journey (field v 0 2) (field v 2 2) (field v 4 1) (field v 5 1) (field v 6 2))
      else none
    else some (.other g.toNat)

/-- The first `n` tokens of seven bytes each (R160). -/
def readTokens : Nat → List Byte → List Token
  | 0, _ => []
  | n + 1, p => tokenOf (p.take 7) :: readTokens n (p.drop 7)

/-- The count and tokens of a deny list edit, or none when the length does not fit a count of 1 to 8 (R160). -/
def readTokenList (p : List Byte) : Option (Nat × List Token) :=
  match p with
  | [] => none
  | c :: v =>
    let n := c.toNat
    if n = 0 ∨ n > 8 then some (n, [])
    else if v.length = 7 * n then some (n, readTokens n v) else none

/-- The request of arguments `a` under request kind `k`; none when the kind names no request or the length does not
fit (R160, R162). -/
def readArguments (k : Nat) (a : List Byte) : Option Request :=
  if k = 0x01 then (readSettingValues a).map .settingWrite
  else if k = 0x02 then if a.length = 1 then some (.settingRead (field a 0 1)) else none
  else if k = 0x10 then if a.length = 3 then some (.tableSeek (field a 0 1) (field a 1 2)) else none
  else if k = 0x11 then if a.length ≥ 1 then some (.tableWrite (field a 0 1) (a.drop 1)) else none
  else if k = 0x12 then
    if a.length = 1 then some (.tableRead (field a 0 1) none)
    else if a.length = 2 then some (.tableRead (field a 0 1) (some (field a 1 1))) else none
  else if k = 0x13 then if a.length = 0 then some .tariffCheck else none
  else if k = 0x14 then if a.length = 0 then some .tariffCommit else none
  else if k = 0x15 then if a.length = 0 then some .tariffCopy else none
  else if k = 0x18 then (readTokenList a).map fun x => .denyAdd x.1 x.2
  else if k = 0x19 then (readTokenList a).map fun x => .denyRemove x.1 x.2
  else if k = 0x20 then if a.length = 0 then some .serviceStart else none
  else if k = 0x21 then if a.length = 0 then some .serviceStop else none
  else if k = 0x22 then if a.length = 3 then some (.dayChange (field a 0 2) (field a 2 1)) else none
  else if k = 0x30 then if a.length = 7 then some (.journeyQuery (tokenOf a)) else none
  else if k = 0x31 then if a.length = 0 then some .poolAudit else none
  else if k = 0x40 then if a.length = 1 then some (.statusRead (field a 0 1 != 0)) else none
  else if k = 0x41 then if a.length = 1 then some (.engineReset (field a 0 1)) else none
  else none

/-- The request of a MGMT_REQ payload (R160, R162). -/
def readRequest (p : List Byte) : Request :=
  match p with
  | [] => .malformed 0
  | k :: a => (readArguments k.toNat a).getD (.malformed k.toNat)

/-! ### Table entries (R160, entry layout) -/

/-- The entry size in bytes of a table (R160). -/
def entrySize (table : Nat) : Nat :=
  if table = 1 then 5 else if table = 2 then 4 else if table = 3 then 5 else if table = 4 then 6
  else if table = 5 then 9 else 7

/-- A station table entry. -/
def readStation (p : List Byte) : StationEntry := ⟨field p 0 1 != 0, field p 1 3, field p 4 1 != 0⟩

/-- A fare band table entry. -/
def readFareBand (p : List Byte) : FareBandEntry := ⟨field p 0 2, field p 2 2⟩

/-- A time band table entry; an in-use byte other than 0 means yes, as R160 says for table 1 (log 34: DESIGN CHOICE). -/
def readTimeBand (p : List Byte) : TimeBandEntry := ⟨field p 0 1 != 0, field p 1 2, field p 3 2⟩

/-- A class table entry; an in-use byte other than 0 means yes, as R160 says for table 1 (log 34). -/
def readClass (p : List Byte) : ClassEntry := ⟨field p 0 1 != 0, field p 1 1, field p 2 1, field p 3 3⟩

/-- The constants entry. -/
def readConstants (p : List Byte) : ConstantsEntry :=
  ⟨field p 0 3, field p 3 2, field p 5 2, field p 7 1, field p 8 1⟩

/-- `n` entries of `size` bytes each, read by `f`. -/
def readEntries {α : Type} (size : Nat) (f : List Byte → α) : Nat → List Byte → List α
  | 0, _ => []
  | n + 1, p => f (p.take size) :: readEntries size f n (p.drop size)

/-- An entry as TABLE_READ returns it (R160). A yes is returned as the byte 1, whatever byte other than 0 a TABLE_WRITE
carried for it (R25, R34; log 34: DESIGN CHOICE). -/
def ReadEntry.bytes : ReadEntry → List Byte
  | .station e => [boolByte e.inUse] ++ beBytes 3 e.chainage ++ [boolByte e.breakPermitted]
  | .fareBand e => beBytes 2 e.upperLimit ++ beBytes 2 e.rate
  | .timeBand e => [boolByte e.inUse] ++ beBytes 2 e.startMinute ++ beBytes 2 e.percent
  | .cls e => [boolByte e.inUse] ++ beBytes 1 e.payable ++ beBytes 1 e.step ++ beBytes 3 e.dailyCap
  | .constants e =>
    beBytes 3 e.boardingCharge ++ beBytes 2 e.fareCeiling ++ beBytes 2 e.sameStationFee ++
      beBytes 1 e.minimumDistance ++ beBytes 1 e.sameStationGrace
  | .token t => beBytes 7 t.toNat

/-! ### Verdicts, journey records and notices (R160) -/

/-- The code of a verdict. -/
def VerdictKind.code : VerdictKind → Nat
  | .allow => 1
  | .allowNote => 2
  | .refuse => 3
  | .notInService => 4

/-- The code of a reason. -/
def Reason.code : Reason → Nat
  | .none => 0
  | .denied => 1
  | .alreadyInside => 2
  | .previousSettled => 3
  | .untracked => 4
  | .journeyHeld => 5
  | .noEntryFound => 6

/-- The payload of a VERDICT frame. -/
def Verdict.payload (v : Verdict) : List Byte :=
  beBytes 7 v.token.toNat ++ beBytes 1 v.gate ++ beBytes 1 v.kind.code ++ beBytes 1 v.reason.code ++
    beBytes 1 (flagBit v.charged.isSome 1 + flagBit v.capRemaining.isSome 2) ++
    beBytes 2 (v.charged.getD 0) ++ beBytes 2 (v.capRemaining.getD 0)

/-- The code of a record kind. -/
def RecordKind.code : RecordKind → Nat
  | .complete => 1
  | .incomplete => 2
  | .unmatchedExit => 3
  | .entryCancelled => 4
  | .refusal => 5
  | .entryUntracked => 6

/-- A leg in 12 bytes; `mark` is what else its leg presence holds. -/
def legBytes (mark : Nat) (l : RecordLeg) : List Byte :=
  beBytes 1 (flagBit l.entry.isSome 1 + flagBit l.exit.isSome 2 + flagBit l.metres.isSome 4 + mark) ++
    beBytes 1 ((l.entry.map (·.station)).getD 0) ++ beBytes 3 ((l.entry.map (·.time)).getD 0) ++
    beBytes 1 ((l.exit.map (·.station)).getD 0) ++ beBytes 3 ((l.exit.map (·.time)).getD 0) ++
    beBytes 3 (l.metres.getD 0)

/-- The payload of a JOURNEY frame. -/
def JourneyRecord.payload (r : JourneyRecord) : List Byte :=
  beBytes 1 r.kind.code ++ beBytes 7 r.token.toNat ++ beBytes 1 r.cls ++ beBytes 2 r.day ++
    beBytes 1 (flagBit r.basis.isSome 1 + flagBit r.capSpent.isSome 2) ++ beBytes 1 r.legs.length ++
    (r.legs.map (legBytes 0)).flatten ++
    beBytes 2 ((r.basis.map (·.distance)).getD 0) ++ beBytes 4 ((r.basis.map (·.distanceFare)).getD 0) ++
    beBytes 2 ((r.basis.map (·.percent)).getD 0) ++ beBytes 2 r.classFare ++ beBytes 2 r.charged ++
    beBytes 2 (r.capSpent.getD 0) ++ beBytes 2 r.flags.code

/-- The kind of a notice (R172). -/
def NoticeDetail.kind : NoticeDetail → NoticeKind
  | .shortage _ => .shortage
  | .shortageCleared _ => .shortageCleared
  | .clockDoubt _ _ => .clockDoubt
  | .clockDispute _ _ _ _ => .clockDispute
  | .partnerStalled _ => .partnerStalled
  | .slotQuarantined _ => .slotQuarantined

/-- The code of a notice kind. -/
def NoticeKind.code : NoticeKind → Nat
  | .shortage => 1
  | .shortageCleared => 2
  | .clockDoubt => 3
  | .clockDispute => 4
  | .partnerStalled => 5
  | .slotQuarantined => 6

/-- The detail fields of a notice, before the zeros that fill its ten bytes. -/
def NoticeDetail.fields : NoticeDetail → List Byte
  | .shortage n => beBytes 2 n
  | .shortageCleared n => beBytes 2 n
  | .clockDoubt .endOfDay t => beBytes 1 1 ++ beBytes 3 t
  | .clockDoubt .beaconLate t => beBytes 1 2 ++ beBytes 3 t
  | .clockDispute bd bt cd t => beBytes 2 bd ++ beBytes 3 bt ++ beBytes 2 cd ++ beBytes 3 t
  | .partnerStalled .line => beBytes 1 1
  | .partnerStalled .office => beBytes 1 2
  | .slotQuarantined n => beBytes 2 n

/-- The payload of a NOTICE frame: 16 bytes. -/
def Notice.payload (n : Notice) : List Byte :=
  beBytes 1 n.detail.kind.code ++ beBytes 2 n.count ++ beBytes 3 n.time ++
    (n.detail.fields ++ List.replicate 10 0).take 10

/-! ### Responses (R160) -/

/-- The code of a result. -/
def Result.code : Result → Nat
  | .done => 0
  | .beyondEnd => 1
  | .badState => 2
  | .badArgument => 3
  | .tableInvalid => 4
  | .busy => 5
  | .notFound => 6
  | .listFull => 7

/-- The code of a day type. -/
def DayType.code : DayType → Nat
  | .workday => 0
  | .saturday => 1
  | .sundayHoliday => 2

/-- The code of a bank name. -/
def BankName.code : BankName → Nat
  | .bankA => 0
  | .bankB => 1

/-- The code of a mode. -/
def Mode.code : Mode → Nat
  | .maintenance => 0
  | .service => 1

/-- The code of an item SERVICE_START names. -/
def StartItem.code : StartItem → Nat
  | .none => 0
  | .alreadyInService => 1
  | .linkNotWritten => 2
  | .timingNotWritten => 3
  | .journeyNotWritten => 4
  | .liveTariff => 5
  | .dayUnset => 6

/-- The values of a group in the settings layout; nothing for a byte that names no group. -/
def settingBytes : SettingValues → List Byte
  | .link n p => beBytes 1 n ++ beBytes 1 p
  | .timing s b v f => beBytes 2 s ++ beBytes 1 b ++ beBytes 1 v ++ beBytes 2 f
  | .journey m p b o l => beBytes 2 m ++ beBytes 2 p ++ beBytes 1 b ++ beBytes 1 o ++ beBytes 2 l
  | .other _ => []

/-- A first failure: table, index and check, zero for none. -/
def failureBytes (f : Option CheckFailure) : List Byte :=
  match f with
  | none => beBytes 3 0
  | some x => beBytes 1 x.table ++ beBytes 1 x.index ++ beBytes 1 x.check

/-- The data of the cursor, check, commit and copy responses. -/
def TariffReport.bytes (r : TariffReport) : List Byte :=
  beBytes 1 r.cursorTable ++ beBytes 2 r.cursorIndex ++ beBytes 2 r.length ++
    beBytes 1 (flagBit r.valid 1 + flagBit r.pendingSwap 2 + flagBit r.withdrawn 4) ++
    beBytes 1 r.live.code ++ beBytes 1 r.count ++ failureBytes r.failure ++
    (r.entries.map ReadEntry.bytes).flatten

/-- The counters in the order of R168, per-port counters Line Port first, four bytes each. -/
def Counters.bytes (c : Counters) : List Byte :=
  ([c.tapsTaken, c.malformedTaps, c.tapsRefused, c.verdictsSent, c.staleVerdicts, c.complete, c.incomplete,
    c.unmatchedExit, c.entryCancelled, c.refusal, c.entryUntracked, c.capUntracked, c.badFramesLine,
    c.badFramesOffice, c.misplacedLine, c.misplacedOffice, c.lineErrorsLine, c.lineErrorsOffice].map
    (beBytes 4)).flatten

/-- The fault record: code, number and time, zero for NONE. -/
def faultBytes (f : Option FaultEntry) : List Byte :=
  match f with
  | none => beBytes 6 0
  | some x =>
    (match x.code with
      | .slotCheck => beBytes 1 1
      | .malformedTap => beBytes 1 2) ++ beBytes 2 x.number ++ beBytes 3 x.time

/-- The allocated count: the slots of kind CORE, EXTENSION and ORPHAN (R49). -/
def Counts.allocated (c : Counts) : Nat := c.cores + c.extensions + c.orphans

/-- The data of a STATUS_READ response. -/
def StatusReport.bytes (r : StatusReport) : List Byte :=
  beBytes 1 r.mode.code ++ beBytes 2 (r.clock.day.getD 0) ++ beBytes 1 r.clock.dayType.code ++
    beBytes 3 r.clock.time ++ [boolByte r.clock.doubt] ++ beBytes 2 r.counts.free ++
    beBytes 2 r.counts.allocated ++ beBytes 2 r.counts.quarantined ++ beBytes 2 r.counts.cores ++
    beBytes 2 r.counts.orphans ++ [boolByte r.pendingSwap] ++
    beBytes 1 (flagBit r.written.link 1 + flagBit r.written.timing 2 + flagBit r.written.journey 4) ++
    r.counters.bytes ++ faultBytes r.fault

/-- A completed leg of a record, from its extension. -/
def Extension.leg (e : Extension) : RecordLeg where
  entry := some ⟨e.entryStation, e.entryTime⟩
  exit := some ⟨e.exitStation, e.exitTime⟩
  metres := some e.metres

/-- A completed leg of a query answer in 12 bytes, bit 3 of its leg presence set when it is damaged. -/
def queryLegBytes (l : QueryLeg) : List Byte :=
  match l with
  | some e => legBytes 0 e.leg
  | none => legBytes 8 ⟨none, none, none⟩

/-- The journey part of a query answer. -/
def JourneyPart.bytes : JourneyPart → List Byte
  | .none => beBytes 1 0
  | .core slot c legs =>
    beBytes 1 1 ++ beBytes 2 slot ++ beBytes 1 c.cls ++ beBytes 2 c.day ++ beBytes 1 c.dayType.code ++
      (match c.state with
        | .opened => beBytes 1 1
        | .broken _ => beBytes 1 2) ++
      beBytes 1 c.entryStation ++ beBytes 3 c.entryTime ++ beBytes 3 c.firstEntryTime ++
      beBytes 1 c.entryGate ++
      (match c.state with
        | .opened => beBytes 3 0
        | .broken t => beBytes 3 t) ++
      beBytes 1 legs.length ++ (legs.map queryLegBytes).flatten ++ beBytes 2 c.flags.code
  | .orphan slot o onOrder =>
    beBytes 1 2 ++ beBytes 2 slot ++ beBytes 1 o.cls ++ beBytes 2 o.day ++ beBytes 1 o.exitStation ++
      beBytes 1 o.exitGate ++ beBytes 3 o.exitTime ++ beBytes 3 o.arrival ++ [boolByte onOrder] ++
      beBytes 2 o.flags.code

/-- The account part of a query answer. -/
def accountBytes (a : Option AccountPart) : List Byte :=
  match a with
  | none => beBytes 6 0
  | some x => beBytes 1 1 ++ beBytes 2 x.cap ++ beBytes 2 x.spent ++ beBytes 1 x.journeys

/-- The data of a DAY_CHANGE response; zero when the request was refused. -/
def dayReportBytes (r : Option DayReport) : List Byte :=
  match r with
  | none => beBytes 13 0
  | some x =>
    beBytes 2 x.day ++ beBytes 1 x.dayType.code ++ [boolByte x.swapped] ++ beBytes 1 x.live.code ++
      beBytes 2 x.counts.incomplete ++ beBytes 2 x.counts.complete ++ beBytes 2 x.counts.unmatched ++
      beBytes 2 x.counts.damaged

/-- The data of a POOL_AUDIT response; zero when the request was refused. -/
def auditReportBytes (r : Option AuditReport) : List Byte :=
  match r with
  | none => beBytes 12 0
  | some x =>
    beBytes 2 x.counts.recovered ++ beBytes 2 x.counts.damaged ++ beBytes 2 x.counts.loneReleased ++
      beBytes 2 x.counts.restored ++ beBytes 2 x.stillQuarantined ++ beBytes 2 x.counts.rebuildSettled

/-- The data of a response. -/
def ResponseData.bytes : ResponseData → List Byte
  | .malformed => []
  | .setting g w n held => beBytes 1 g ++ [boolByte w] ++ beBytes 1 n ++ settingBytes held
  | .tariff r => r.bytes
  | .deny c n => beBytes 1 c ++ beBytes 2 n
  | .serviceStart r =>
    beBytes 1 r.item.code ++ failureBytes r.failure ++ beBytes 2 r.day ++ beBytes 1 r.dayType.code ++
      beBytes 1 r.live.code
  | .serviceStop m => beBytes 1 m.code
  | .dayChange r => dayReportBytes r
  | .query j a => j.bytes ++ accountBytes a
  | .poolAudit r => auditReportBytes r
  | .status r => r.bytes
  | .engineReset k j o => beBytes 1 k ++ beBytes 2 j ++ beBytes 2 o

/-- The payload of a MGMT_RESP frame. -/
def Response.payload (r : Response) : List Byte :=
  beBytes 1 r.kind ++ beBytes 1 r.result.code ++ r.data.bytes

end Sys2Proof.Machine
end

