-- ==== Sys2Proof/Machine/Sparse.lean ====
section
/-! DEFINITION. Stores indexed by number, held as lists of (number, value) pairs whose numbers strictly rise: reading,
writing and removing one entry (log 21: DESIGN CHOICE). -/

namespace Sys2Proof.Machine

/-- The value listed at number `k`. -/
def sparseGet {α : Type} : List (Nat × α) → Nat → Option α
  | [], _ => none
  | (j, v) :: rest, k => if j = k then some v else if k < j then none else sparseGet rest k

/-- The store with `v` listed at number `k`. -/
def sparsePut {α : Type} : List (Nat × α) → Nat → α → List (Nat × α)
  | [], k, v => [(k, v)]
  | (j, w) :: rest, k, v =>
    if j = k then (k, v) :: rest else if k < j then (k, v) :: (j, w) :: rest else (j, w) :: sparsePut rest k v

/-- The store with nothing listed at number `k`. -/
def sparseErase {α : Type} : List (Nat × α) → Nat → List (Nat × α)
  | [], _ => []
  | (j, w) :: rest, k =>
    if j = k then rest else if k < j then (j, w) :: rest else (j, w) :: sparseErase rest k

/-- The canonical form: numbers strictly rising. -/
def sparseWf {α : Type} : List (Nat × α) → Bool
  | [] => true
  | [_] => true
  | (j, _) :: (k, w) :: rest => decide (j < k) && sparseWf ((k, w) :: rest)

end Sys2Proof.Machine
end

