-- ==== Sys2Proof/Machine/Ops.lean ====
section
/-! DEFINITION. The named operations the blocks share: settings in deciseconds, counters, the fault record, notices, the
journey record queue and its stall mark, the verdict queue, the response queue, and the two ports. -/

namespace Sys2Proof.Machine

/-! ### Reading the clock and the settings -/

/-- The current day number; 0 stands for unset, as STATUS_READ codes it (R160; log 26: DEDUCED). -/
def State.today (s : State) : Nat := s.clock.day.getD 0

/-- The maximum journey duration in deciseconds (R105). -/
def State.maxDuration (s : State) : Nat := s.settings.journey.maxDuration * 600

/-- The passback window in deciseconds (R86). -/
def State.passbackWindow (s : State) : Nat := s.settings.journey.passbackWindow * 10

/-- The break window in deciseconds (R88). -/
def State.breakWindow (s : State) : Nat := s.settings.journey.breakWindow * 600

/-- The orphan hold in deciseconds (R103). -/
def State.orphanHold (s : State) : Nat := s.settings.journey.orphanHold * 600

/-- The future tolerance in deciseconds (R79). -/
def State.futureTolerance (s : State) : Nat := s.settings.timing.futureTolerance * 10

/-- The sweep period in deciseconds (R136). -/
def State.sweepPeriod (s : State) : Nat := s.settings.timing.sweepPeriod * 10

/-- The beacon limit in deciseconds (R133). -/
def State.beaconLimit (s : State) : Nat := s.settings.timing.beaconLimit * 10

/-- The pause limit in deciseconds (R157). -/
def State.pauseLimit (s : State) : Nat := s.settings.link.pauseLimit * 10

/-- The age of something that began at `since`: the service time less that time, or the service time itself when that
time lies above it (R103, R138). -/
def State.ageSince (s : State) (since : Nat) : Nat :=
  if since > s.clock.time then s.clock.time else s.clock.time - since

/-- The CLOCK_DOUBT flag as it stands (R134). -/
def State.doubtFlag (s : State) : Flags := { clockDoubt := s.clock.doubt }

/-! ### Banks by role (R25) -/

/-- The bank of a name. -/
def TariffStore.bank (t : TariffStore) : BankName → Bank
  | .bankA => t.bankA
  | .bankB => t.bankB

/-- The other bank. -/
def BankName.other : BankName → BankName
  | .bankA => .bankB
  | .bankB => .bankA

/-- The live bank. -/
def TariffStore.liveBank (t : TariffStore) : Bank := t.bank t.live

/-- The staging bank. -/
def TariffStore.staging (t : TariffStore) : Bank := t.bank t.live.other

/-- The store with the staging bank replaced. -/
def TariffStore.setStaging (t : TariffStore) (b : Bank) : TariffStore :=
  match t.live with
  | .bankA => { t with bankB := b }
  | .bankB => { t with bankA := b }

/-- A role swap: the two names are exchanged, and pending swap and the staging validity mark are cleared
(R25, R38, R41). -/
def TariffStore.swapRoles (t : TariffStore) : TariffStore :=
  { t with live := t.live.other, pendingSwap := false, valid := false }

/-! ### Counters, fault record, notices -/

/-- A counter raised by one, staying at its greatest value (R168). -/
def raised (n : Nat) : Nat := if n < Config.counterMax then n + 1 else n

/-- The counter of records of a kind, raised (R168). -/
def Counters.countRecord (c : Counters) : RecordKind → Counters
  | .complete => { c with complete := raised c.complete }
  | .incomplete => { c with incomplete := raised c.incomplete }
  | .unmatchedExit => { c with unmatchedExit := raised c.unmatchedExit }
  | .entryCancelled => { c with entryCancelled := raised c.entryCancelled }
  | .refusal => { c with refusal := raised c.refusal }
  | .entryUntracked => { c with entryUntracked := raised c.entryUntracked }

/-- The counter of bad frames of a port, raised (R168). -/
def Counters.badFrame (c : Counters) : Port → Counters
  | .line => { c with badFramesLine := raised c.badFramesLine }
  | .office => { c with badFramesOffice := raised c.badFramesOffice }

/-- The counter of misplaced frames of a port, raised (R168). -/
def Counters.misplaced (c : Counters) : Port → Counters
  | .line => { c with misplacedLine := raised c.misplacedLine }
  | .office => { c with misplacedOffice := raised c.misplacedOffice }

/-- The counter of line errors of a port, raised (R168). -/
def Counters.lineError (c : Counters) : Port → Counters
  | .line => { c with lineErrorsLine := raised c.lineErrorsLine }
  | .office => { c with lineErrorsOffice := raised c.lineErrorsOffice }

/-- The notice set after a raising: a kind with an entry has its count raised, its detail and time replaced and its
entry moved to the tail; another kind is appended with count 1 (R172). -/
def raiseIn (ns : List Notice) (d : NoticeDetail) (time : Nat) : List Notice :=
  match ns.find? fun n => n.detail.kind = d.kind with
  | none => ns ++ [⟨d, 1, time⟩]
  | some n =>
    ns.filter (fun n => n.detail.kind ≠ d.kind) ++
      [⟨d, if n.count < Config.noticeCountMax then n.count + 1 else n.count, time⟩]

/-- The Management Unit raises a notice (R172). -/
def State.raise (s : State) (d : NoticeDetail) : State := { s with notices := raiseIn s.notices d s.clock.time }

/-- A fault is written, replacing the one held (R169). -/
def State.writeFault (s : State) (code : FaultCode) (number : Nat) : State :=
  { s with fault := some ⟨code, number, s.clock.time⟩ }

/-! ### Journey record queue (R76, R100) -/

/-- Whether the journey record queue has room. -/
def State.recordRoom (s : State) : Bool := s.records.length < Config.recordQueueCapacity

/-- A record is appended: its counter rises, and the stall mark is set when the queue comes to 240 records or more
(R76, R100). -/
def State.appendRecord (s : State) (r : JourneyRecord) : State :=
  { s with
    records := s.records ++ [r]
    counters := s.counters.countRecord r.kind
    stall := s.stall || decide (s.records.length + 1 ≥ Config.stallSetLevel) }

/-- Records are appended in order while there is room; answers those that found none. -/
def appendWhileRoom : List JourneyRecord → State → List JourneyRecord × State
  | [], s => ([], s)
  | r :: rs, s => if s.recordRoom then appendWhileRoom rs (s.appendRecord r) else (r :: rs, s)

/-! ### Verdict queue (R82) -/

/-- A verdict formed now from a tap stamped at `stamp` is offered: it is dropped and counted stale when it is older than
the verdict life, when the service time lies below the stamp, or when the queue is full; else it joins the tail. -/
def State.offerVerdict (s : State) (stamp : Nat) (v : Verdict) : State :=
  if s.clock.time < stamp ∨ s.clock.time - stamp > s.settings.timing.verdictLife ∨
      s.verdicts.length ≥ Config.verdictQueueCapacity then
    { s with counters := { s.counters with staleVerdicts := raised s.counters.staleVerdicts } }
  else { s with verdicts := s.verdicts ++ [v] }

/-! ### The card operation (R62) -/

/-- Whether no card operation is in progress: only then may a slot examination or a query be taken (R62). The model holds a
card operation to be in progress for as long as a tap is in HANDLING: before its lookup too, after its last change too, and
for a tap-in of an earlier day, which makes no lookup (R112; log 38: DESIGN CHOICE). -/
def State.tableFree (s : State) : Bool :=
  match s.unit with
  | .handling _ => false
  | _ => true

/-! ### Response queue (R162 to R164) -/

/-- Whether the response queue has room. -/
def State.responseRoom (s : State) : Bool := s.responses.length < Config.responseQueueCapacity

/-- The response of the request in hand is formed: it joins the tail of the response queue, or is held in hand until
there is room (R162, R163). -/
def State.respond (s : State) (r : Response) : State :=
  if s.responseRoom then { s with responses := s.responses ++ [r] } else { s with hand := some r }

/-! ### Ports -/

/-- The state of a port. -/
def State.port (s : State) : Port → PortState
  | .line => s.line
  | .office => s.office

/-- The state with a port replaced. -/
def State.setPort (s : State) (p : Port) (ps : PortState) : State :=
  match p with
  | .line => { s with line := ps }
  | .office => { s with office := ps }

/-- The places of the receive buffer that are held: by the frames of the status queue, by completed frames whose entry
waits, and by a stored frame in reception (R152). -/
def PortState.places (ps : PortState) : Nat :=
  ps.queue.length + ps.held.length + (match ps.rx with | .inside _ _ => 1 | _ => 0)

/-- The transit buffer that a port's frames go into: up-transit from the Line Port, down-transit from the Office Port
(R154). -/
def State.transit (s : State) : Port → List Frame
  | .line => s.upTransit
  | .office => s.downTransit

/-- A frame joins the tail of the transit buffer of port `p` (R155). -/
def State.pushTransit (s : State) (p : Port) (f : Frame) : State :=
  match p with
  | .line => { s with upTransit := s.upTransit ++ [f] }
  | .office => { s with downTransit := s.downTransit ++ [f] }

end Sys2Proof.Machine
end

