-- ==== Sys2Proof/Machine/Reckoner.lean ====
section
/-! DEFINITION. The Fare Reckoner (spec/01): Stages 1 to 4 and the special fares, as functions of one tariff bank.
Where a bank that passes the tariff check always gives an answer, a bank that does not leaves it to a free value of
Config (log 11: DESIGN CHOICE). -/

namespace Sys2Proof.Machine

/-- The class by which a rider is priced: its number, its entry and whether class 0 was substituted (R3). -/
structure ClassFound where
  cls : Nat
  entry : ClassEntry
  substituted : Bool
  deriving DecidableEq, Repr

/-- The class lookup (R3). -/
def classLookup (b : Bank) (n : Nat) : ClassFound :=
  let e := b.classes.entries.getD n {}
  if n ≤ 15 ∧ e.inUse = true then ⟨n, e, false⟩ else ⟨0, b.classes.entries.getD 0 {}, true⟩

/-- The CLASS_SUBSTITUTED flag of a lookup (R3). -/
def ClassFound.flags (c : ClassFound) : Flags := { classSubstituted := c.substituted }

/-- The station table entry of a station number; a number outside the table reads as not in use (R27). -/
def stationEntry (b : Bank) (station : Nat) : StationEntry :=
  if station = 0 then {} else b.stations.entries.getD (station - 1) {}

/-- Whether a station is in use. -/
def stationInUse (b : Bank) (station : Nat) : Bool := (stationEntry b station).inUse

/-- Whether a break is permitted at a station; no at a station not in use (R27, R95). -/
def breakPermittedAt (b : Bank) (station : Nat) : Bool :=
  (stationEntry b station).inUse && (stationEntry b station).breakPermitted

/-- The chainages of the stations in use. -/
def chainages (b : Bank) : List Nat := (b.stations.entries.filter (·.inUse)).map (·.chainage)

/-- The absolute difference of two chainages. -/
def distanceBetween (a c : Nat) : Nat := if a ≤ c then c - a else a - c

/-- The greatest of a list of numbers, 0 for none. -/
def greatest (ns : List Nat) : Nat := ns.foldl max 0

/-- The greatest distance between `start` and any of the chainages given. -/
def farthestFrom (start : Nat) (cs : List Nat) : Nat := greatest (cs.map (distanceBetween start))

/-- The span of the line: the greatest distance between any two stations in use (R5). -/
def lineSpan (b : Bank) : Nat :=
  let cs := chainages b
  if cs.length < 2 then Config.unstatedSpan else greatest (cs.map fun c => farthestFrom c cs)

/-- The length of a leg in metres: the span of the line when either station is not in use, else the absolute
difference of the chainages (R5; log 29: DEDUCED). -/
def legMetres (b : Bank) (entry exit : Nat) : Nat :=
  if stationInUse b entry && stationInUse b exit then
    distanceBetween (stationEntry b entry).chainage (stationEntry b exit).chainage
  else lineSpan b

/-- The distance an exit without entry is priced by (R20). -/
def unmatchedMetres (b : Bank) (exit : Nat) : Nat :=
  if stationInUse b exit then farthestFrom (stationEntry b exit).chainage (chainages b) else lineSpan b

/-- The constants of a bank (R31). -/
def constantsOf (b : Bank) : ConstantsEntry := b.constants.entries.getD 0 {}

/-- Metres in hectometres, rounded up, raised to the minimum fare distance (R6). -/
def fareDistance (b : Bank) (metres : Nat) : Nat := max ((metres + 99) / 100) (constantsOf b).minimumDistance

/-- The fare bands in use, in index order (R28). -/
def bandsInUse (b : Bank) : List FareBandEntry := b.fareBands.entries.filter fun e => e.upperLimit > 0

/-- What the bands above the lower edge `edge` add for a fare distance `fd`; the last band's rate also serves the
hectometres beyond its upper limit (R7, R8). -/
def bandCharges (fd : Nat) : Nat → List FareBandEntry → Nat
  | _, [] => 0
  | edge, [e] => e.rate * (min fd e.upperLimit - edge) + e.rate * (fd - e.upperLimit)
  | edge, e :: rest => e.rate * (min fd e.upperLimit - edge) + bandCharges fd e.upperLimit rest

/-- The distance fare in mills (R7, R8). -/
def distanceFare (b : Bank) (fd : Nat) : Nat :=
  (constantsOf b).boardingCharge +
    (if bandsInUse b = [] then Config.unstatedScale fd else bandCharges fd 0 (bandsInUse b))

/-- The six time band entries of a day type (R29). -/
def dayBands (b : Bank) (d : DayType) : List TimeBandEntry := (b.timeBands.entries.drop (d.code * 6)).take 6

/-- The percent of the time band in force at a minute: the last entry in use that starts at or before it (R9). -/
def peakPercent (b : Bank) (d : DayType) (minute : Nat) : Nat :=
  match ((dayBands b d).filter fun e => e.inUse && decide (e.startMinute ≤ minute)).getLast? with
  | some e => e.percent
  | none => Config.unstatedPercent d.code minute

/-- The fare ceiling in mills. -/
def ceilingMills (b : Bank) : Nat := (constantsOf b).fareCeiling * 10

/-- The peak fare in mills, rounded to the nearest mill and clamped to the ceiling (R10, R11). -/
def peakFare (b : Bank) (df percent : Nat) : Nat := min ((df * percent + 50) / 100) (ceilingMills b)

/-- The class fare in cents: the payable part of the fare, rounded down to the class's step (R12). -/
def classFare (e : ClassEntry) (mills : Nat) : Nat :=
  if e.step = 0 then Config.unstatedClassFare mills e.payable
  else mills * e.payable / (1000 * e.step) * e.step

/-- The penalty fare: the class fare of the whole ceiling (R19). -/
def penaltyFare (b : Bank) (e : ClassEntry) : Nat := classFare e (ceilingMills b)

/-- Stages 2 to 4 on a fare distance: the basis the record carries and the class fare (R7 to R12). -/
def staged (b : Bank) (d : DayType) (minute fd : Nat) (e : ClassEntry) : FareBasis × Nat :=
  let df := distanceFare b fd
  let p := peakPercent b d minute
  (⟨fd, df, p⟩, classFare e (peakFare b df p))

end Sys2Proof.Machine
end

