-- ==== Sys2Proof/Machine/Cap.lean ====
section
/-! DEFINITION. The Cap Table (spec/06) and Stage 5, the cap cut (R13 to R15). -/

namespace Sys2Proof.Machine

/-- The bucket of a card token: its five groups of twelve bits combined by exclusive-or (R53). -/
def bucketOf (t : Token) : Nat :=
  (t.extractLsb' 0 12 ^^^ t.extractLsb' 12 12 ^^^ t.extractLsb' 24 12 ^^^ t.extractLsb' 36 12 ^^^
    t.extractLsb' 48 12).toNat

/-- The account bucket of a card token (R118). -/
def accountBucketOf (t : Token) : Nat := bucketOf t % Config.accountBucketCount

/-- The answers of the Cap Table to a charge (R119). -/
inductive ChargeAnswer where
  | charged (amount cap spent : Nat)
  | noAccount
  | staleDay
  deriving DecidableEq, Repr

/-- The walk of an account chain for a token, over at most `fuel` accounts (R120). -/
def accountWalk (c : CapTable) (token : Token) : Nat → Option Nat → Option (Nat × Account)
  | 0, _ => none
  | _ + 1, none => none
  | fuel + 1, some n =>
    match sparseGet c.accounts n with
    | none => none
    | some a => if a.token = token then some (n, a) else accountWalk c token fuel a.next

/-- The head of an account bucket's chain of the current day; a bucket whose day mark is another day's is empty
(R118, R120). -/
def CapTable.currentHead (c : CapTable) (today bucket : Nat) : Option Nat :=
  match sparseGet c.buckets bucket with
  | none => none
  | some b => if b.mark = today then some b.head else none

/-- The card's current account, if it has one (R120). -/
def accountLookup (c : CapTable) (today : Nat) (token : Token) : Option (Nat × Account) :=
  accountWalk c token Config.accountCount (c.currentHead today (accountBucketOf token))

/-- Whether an account is free: never used, or of another day (R117). -/
def accountFree (c : CapTable) (today n : Nat) : Bool :=
  match sparseGet c.accounts n with
  | none => true
  | some a => a.day != today

/-- The first free account from `n` upward, wrapping after 8,191, among `fuel` accounts (R121). -/
def findFree (c : CapTable) (today : Nat) : Nat → Nat → Option Nat
  | 0, _ => none
  | fuel + 1, n =>
    if accountFree c today n then some n
    else findFree c today fuel (if n + 1 < Config.accountCount then n + 1 else 0)

/-- An opening: the free account found is written whole, linked at the head of its bucket, and the hint moves past it
(R121); none when every account is current (R122). -/
def openAccount (c : CapTable) (today : Nat) (token : Token) (cap : Nat) : Option (Nat × Account × CapTable) :=
  match findFree c today Config.accountCount c.hint with
  | none => none
  | some n =>
    let bucket := accountBucketOf token
    let account : Account :=
      { token := token, day := today, cap := cap, spent := 0, journeys := 0, next := c.currentHead today bucket }
    some (n, account,
      { accounts := sparsePut c.accounts n account
        buckets := sparsePut c.buckets bucket { mark := today, head := n }
        hint := if n + 1 < Config.accountCount then n + 1 else 0 })

/-- The cut on account `n`: the amount charged is the lesser of the fare and what is left under the recorded cap
(R123). -/
def cutAccount (c : CapTable) (n : Nat) (a : Account) (fare : Nat) : ChargeAnswer × CapTable :=
  let amount := min fare (a.cap - a.spent)
  let spent := a.spent + amount
  (.charged amount a.cap spent,
    { c with accounts := sparsePut c.accounts n
              { a with spent := spent, journeys := if a.journeys < 255 then a.journeys + 1 else a.journeys } })

/-- A charge request, taken whole: lookup, any opening, and the cut (R119 to R123). -/
def State.charge (s : State) (token : Token) (day dailyCap fare : Nat) : ChargeAnswer × State :=
  if day ≠ s.today then (.staleDay, s)
  else
    match accountLookup s.cap s.today token with
    | some (n, a) =>
      let r := cutAccount s.cap n a fare
      (r.1, { s with cap := r.2 })
    | none =>
      match openAccount s.cap s.today token dailyCap with
      | some (n, a, c) =>
        let r := cutAccount c n a fare
        (r.1, { s with cap := r.2 })
      | none =>
        (.noAccount, { s with counters := { s.counters with capUntracked := raised s.counters.capUntracked } })

/-! ### Stage 5 (R13 to R15) -/

/-- A record settled, with the recorded cap of the account it charged, when it charged one (R22). -/
structure Settled where
  record : JourneyRecord
  recordedCap : Option Nat
  deriving DecidableEq, Repr

/-- What is left under the cap after a settlement that charged an account (R81). -/
def Settled.capRemaining (x : Settled) : Option Nat :=
  match x.recordedCap, x.record.capSpent with
  | some cap, some spent => some (cap - spent)
  | _, _ => none

/-- A record of a capped class that is charged its class fare outside every account (R15). -/
def JourneyRecord.uncapped (r : JourneyRecord) : JourneyRecord :=
  { r with flags := r.flags.union { capUntracked := true } }

/-- The test of R13 on a COMPLETE record, with the day number as it is current when the test is made: a class without a
cap stays outside Stage 5, a record of an earlier day is uncapped, and one of the current day goes to the Cap Table
(R13, R15, R125). -/
def State.testCap (s : State) (dailyCap : Nat) (r : JourneyRecord) : Reckoned :=
  if dailyCap = 0 then ⟨r, none⟩
  else if r.day ≠ s.today then ⟨r.uncapped, none⟩
  else ⟨r, some dailyCap⟩

/-- The charge of a record that goes to the Cap Table: the amount its account was cut by, or its class fare uncapped when
no account can be had or the day has changed since the test (R14, R15, R119). -/
def State.chargeRecord (s : State) (x : Reckoned) : Settled × State :=
  match x.dailyCap with
  | none => (⟨x.record, none⟩, s)
  | some dailyCap =>
    match s.charge x.record.token x.record.day dailyCap x.record.classFare with
    | (.charged amount cap spent, s') =>
      (⟨{ x.record with charged := amount, capSpent := some spent }, some cap⟩, s')
    | (.noAccount, s') => (⟨x.record.uncapped, none⟩, s')
    | (.staleDay, s') => (⟨x.record.uncapped, none⟩, s')

/-- Stage 5 on a COMPLETE record, nothing being taken between the test and the charge (R13 to R15). -/
def State.capStage (s : State) (dailyCap : Nat) (r : JourneyRecord) : Settled × State :=
  s.chargeRecord (s.testCap dailyCap r)

/-- What a DAY_CHANGE does to the Cap Table: nothing when the new day lies above the old one or the old was unset,
a clear when it lies below (R128, R144). -/
def CapTable.afterDayChange (c : CapTable) (old : Option Nat) (new : Nat) : CapTable :=
  match old with
  | none => c
  | some d => if new < d then CapTable.empty else c

/-- The account part of a query answer (R127). -/
def State.accountPart (s : State) (token : Token) : Option AccountPart :=
  (accountLookup s.cap s.today token).map fun x => ⟨x.2.cap, x.2.spent, x.2.journeys⟩

end Sys2Proof.Machine
end

