-- ==== Sys2Proof/Machine/Table.lean ====
section
/-! DEFINITION. The Journey Table (spec/03): reading and writing slots, quarantine, the bucket chains, the free list,
the orphan order, shortage, and what a declaration or a clearing of shortage asks of the Sweep Unit (spec/07 R140,
R142). A chain or order link that leads to a slot that is FREE or of another kind than the link allows is handled as a
link to a QUARANTINED slot (log 10: DESIGN CHOICE). -/

namespace Sys2Proof.Machine

/-! ### Slots and counts -/

/-- What a slot holds; none when it is FREE. -/
def State.slot (s : State) (n : Nat) : Option Slot := sparseGet s.table.slots n

/-- The kind of a record (R48). -/
def Content.kind : Content → Kind
  | .core _ => .core
  | .extension _ => .extension
  | .orphan _ => .orphan

/-- The kind of a slot that is not FREE (R48). -/
def Slot.kind : Slot → Kind
  | .quarantined => .quarantined
  | .allocated c _ => c.kind

/-- The kind map of a slot (R48). -/
def State.kind (s : State) (n : Nat) : Kind :=
  match s.slot n with
  | none => .free
  | some x => x.kind

/-- One slot fewer of a kind. -/
def Counts.lower (c : Counts) : Kind → Counts
  | .free => { c with free := c.free - 1 }
  | .core => { c with cores := c.cores - 1 }
  | .extension => { c with extensions := c.extensions - 1 }
  | .orphan => { c with orphans := c.orphans - 1 }
  | .quarantined => { c with quarantined := c.quarantined - 1 }

/-- One slot more of a kind. -/
def Counts.lift (c : Counts) : Kind → Counts
  | .free => { c with free := c.free + 1 }
  | .core => { c with cores := c.cores + 1 }
  | .extension => { c with extensions := c.extensions + 1 }
  | .orphan => { c with orphans := c.orphans + 1 }
  | .quarantined => { c with quarantined := c.quarantined + 1 }

/-- A slot changes kind: the counts of the two kinds move together (R49). -/
def Counts.move (c : Counts) (before after : Kind) : Counts := (c.lower before).lift after

/-- A record written whole into a slot of its kind, with a fresh check; a slot of another kind holds no such record to be
rewritten, and is left as it is (R48; log 37: DESIGN CHOICE). -/
def State.rewrite (s : State) (n : Nat) (c : Content) : State :=
  if s.kind n = c.kind then
    { s with table := { s.table with slots := sparsePut s.table.slots n (.allocated c true) } }
  else s

/-- A slot whose read failed is quarantined, with its notice and its fault (R65). -/
def State.quarantine (s : State) (n : Nat) : State :=
  (({ s with
      table := { s.table with
        slots := sparsePut s.table.slots n .quarantined
        counts := s.table.counts.move (s.kind n) .quarantined } }).raise (.slotQuarantined n)).writeFault
    .slotCheck n

/-- A read of a slot: the record when the slot is allocated and its check agrees; a disagreeing check quarantines the
slot; a FREE or QUARANTINED slot is not read (R48, R65). -/
def State.readSlot (s : State) (n : Nat) : Option Content × State :=
  match s.slot n with
  | some (.allocated c true) => (some c, s)
  | some (.allocated _ false) => (none, s.quarantine n)
  | some .quarantined => (none, s)
  | none => (none, s)

/-! ### Bucket chains (R54, R66) -/

/-- The head of a bucket. -/
def State.bucketHead (s : State) (b : Nat) : Option Nat := sparseGet s.table.heads b

/-- The head of a bucket set, or made none. -/
def State.setBucketHead (s : State) (b : Nat) (h : Option Nat) : State :=
  { s with table := { s.table with
      heads := match h with
        | none => sparseErase s.table.heads b
        | some n => sparsePut s.table.heads b n } }

/-- A record with another next-in-bucket; an extension has none. -/
def Content.withNext : Content → Option Nat → Content
  | .core c, n => .core { c with next := n }
  | .extension e, _ => .extension e
  | .orphan o, n => .orphan { o with next := n }

/-- The token and next-in-bucket of a record on a chain; none for an extension, which is on no chain. -/
def Content.link : Content → Option (Token × Option Nat)
  | .core c => some (c.token, c.next)
  | .extension _ => none
  | .orphan o => some (o.token, o.next)

/-- The next-in-bucket of a slot rewritten, with a fresh check. The operation at hand has read the slot; it is not read
again, also when it has been disturbed since (R48; log 46: DESIGN CHOICE). -/
def State.setNext (s : State) (n : Nat) (next : Option Nat) : State :=
  match s.slot n with
  | some (.allocated c _) => s.rewrite n (c.withNext next)
  | _ => s

/-- The link of a chain after `prev` (the head when there is none) made to lead to `next` (R54). -/
def State.setChainLink (s : State) (b : Nat) (prev next : Option Nat) : State :=
  match prev with
  | none => s.setBucketHead b next
  | some p => s.setNext p next

/-- A record that a lookup returns, with the slot it lies in and that of its predecessor on the chain, none at the head
(R54). -/
structure Found where
  prev : Option Nat
  slot : Nat
  content : Content
  deriving DecidableEq, Repr

/-- The walk of a chain for a token, over at most `fuel` slots: the first record whose token is equal. A failed or
QUARANTINED slot cuts the chain there (R54, R66). -/
def chainLookup (b : Nat) (token : Token) : Nat → Option Nat → Option Nat → State → Option Found × State
  | 0, _, _, s => (none, s)
  | _ + 1, _, none, s => (none, s)
  | fuel + 1, prev, some n, s =>
    match s.readSlot n with
    | (none, s') => (none, s'.setChainLink b prev none)
    | (some c, s') =>
      match c.link with
      | none => (none, s'.setChainLink b prev none)
      | some (t, next) => if t = token then (some ⟨prev, n, c⟩, s') else chainLookup b token fuel (some n) next s'

/-- The lookup of a token (R54). -/
def State.lookup (s : State) (token : Token) : Option Found × State :=
  chainLookup (bucketOf token) token (Config.slotCount + 1) none (s.bucketHead (bucketOf token)) s

/-- The next-in-bucket of a slot that the operation at hand has read, with no second read (log 46: DESIGN CHOICE). -/
def State.nextOf (s : State) (n : Nat) : Option Nat :=
  match s.slot n with
  | some (.allocated c _) => (c.link.map (·.2)).getD none
  | _ => none

/-- The walk of a chain that unlinks `target`, over at most `fuel` slots; a chain that ends without meeting it is left
as it is, and a failed or QUARANTINED slot cuts it (R54, R66). -/
def chainUnlink (b target : Nat) : Nat → Option Nat → Option Nat → State → State
  | 0, _, _, s => s
  | _ + 1, _, none, s => s
  | fuel + 1, prev, some n, s =>
    if n = target then s.setChainLink b prev (s.nextOf target)
    else
      match s.readSlot n with
      | (none, s') => s'.setChainLink b prev none
      | (some c, s') =>
        match c.link with
        | none => s'.setChainLink b prev none
        | some (_, next) => chainUnlink b target fuel (some n) next s'

/-- A record is unlinked from the chain of its token's bucket: a card operation knows its predecessor from the lookup that
found it, and reads no slot; else the chain is walked from its head (R54). -/
def State.unlink (s : State) (target : Nat) (token : Token) (before : Predecessor := .sought) : State :=
  match before with
  | .known prev => s.setChainLink (bucketOf token) prev (s.nextOf target)
  | .sought => chainUnlink (bucketOf token) target (Config.slotCount + 1) none (s.bucketHead (bucketOf token)) s

/-! ### The orphan order (R57, R66) -/

/-- The orphan order replaced. -/
def State.setOrder (s : State) (o : OrphanOrder) : State := { s with table := { s.table with order := o } }

/-- The next-in-orphan-order of a slot rewritten, with a fresh check; the slot is not read again (R48; log 46: DESIGN
CHOICE). -/
def State.setNextOrder (s : State) (n : Nat) (next : Option Nat) : State :=
  match s.slot n with
  | some (.allocated (.orphan o) _) => s.rewrite n (.orphan { o with nextOrder := next })
  | _ => s

/-- The order cut after `prev`, the last of `count` orphans that stay on it (R66). -/
def State.cutOrder (s : State) (prev : Option Nat) (count : Nat) : State :=
  match prev with
  | none => s.setOrder ⟨none, none, 0⟩
  | some p => (s.setNextOrder p none).setOrder { s.table.order with tail := some p, length := count }

/-- The walk of the orphan order from its head, over at most `fuel` slots, until it meets `target` or passes the tail:
whether it met it, and the orphan before it. A failed or QUARANTINED slot cuts the order there (R57, R66). -/
def orderWalk (target : Option Nat) :
    Nat → Option Nat → Nat → Option Nat → State → Bool × Option Nat × State
  | 0, prev, _, _, s => (false, prev, s)
  | _ + 1, prev, _, none, s => (false, prev, s)
  | fuel + 1, prev, count, some n, s =>
    if target = some n then (true, prev, s)
    else
      match s.readSlot n with
      | (some (.orphan o), s') =>
        if s'.table.order.tail = some n then (false, some n, s')
        else orderWalk target fuel (some n) (count + 1) o.nextOrder s'
      | (_, s') => (false, prev, s'.cutOrder prev count)

/-- The walk of the whole order, or up to an orphan. -/
def State.walkOrder (s : State) (target : Option Nat) : Bool × Option Nat × State :=
  orderWalk target (Config.slotCount + 1) none 0 s.table.order.head s

/-- The next-in-orphan-order of a slot that the operation at hand has read, with no second read (log 46: DESIGN
CHOICE). -/
def State.nextOrderOf (s : State) (n : Nat) : Option Nat :=
  match s.slot n with
  | some (.allocated (.orphan o) _) => o.nextOrder
  | _ => none

/-- An orphan is removed from the order; one that the walk does not meet was not on it, and the order is left as the
walk left it (R57). -/
def State.removeFromOrder (s : State) (n : Nat) : State :=
  match s.walkOrder (some n) with
  | (false, _, s') => s'
  | (true, prev, s') =>
    let o := s'.table.order
    let tail := if o.tail = some n then prev else o.tail
    match prev with
    | none => s'.setOrder ⟨s'.nextOrderOf n, tail, o.length - 1⟩
    | some p => (s'.setNextOrder p (s'.nextOrderOf n)).setOrder ⟨o.head, tail, o.length - 1⟩

/-- An orphan already written is named as the only one of the order, or appended after `tail`, which has just been read
and passed (R57). -/
def State.linkAtTail (s : State) (n : Nat) : Option Nat → State
  | none => s.setOrder ⟨some n, some n, 1⟩
  | some t =>
    (s.setNextOrder t (some n)).setOrder { s.table.order with tail := some n, length := s.table.order.length + 1 }

/-- A newly stored orphan is appended at the tail. A tail that fails on reading, or is QUARANTINED, is met by a walk
from the head, which cuts the order before it (R57, R66). -/
def State.appendToOrder (s : State) (n : Nat) : State :=
  match s.table.order.tail with
  | none => s.linkAtTail n none
  | some t =>
    match s.readSlot t with
    | (some (.orphan _), s') => s'.linkAtTail n (some t)
    | (_, s') =>
      let s'' := (s'.walkOrder none).2.2
      s''.linkAtTail n s''.table.order.tail

/-! ### Starting a pass, and shortage (R59, R60, R136, R140, R142) -/

/-- An age pass starts at slot 0 and clears pending expiry (R136). -/
def State.startAge (s : State) : State :=
  { s with sweep := { s.sweep with walk := some (.age 0), pendingExpiry := false } }

/-- A forced pass starts at slot 0 and clears pending expiry (R136, R140). -/
def State.startForced (s : State) : State :=
  { s with sweep := { s.sweep with walk := some (.forced 0 true), pendingExpiry := false } }

/-- The forced age a sequence starts with: half the maximum journey duration (R140). -/
def State.firstForcedAge (s : State) : Nat := s.maxDuration / 2

/-- What a declaration of shortage asks of the Sweep Unit: in SERVICE, with no sequence running, the forced age becomes
half the maximum journey duration, and a forced pass starts at once when no walk is in flight (R140). -/
def State.startSequence (s : State) : State :=
  if s.mode = .service ∧ s.sweep.forcedAge = none then
    let s' := { s with sweep := { s.sweep with forcedAge := some s.firstForcedAge } }
    if s.sweep.walk = none then s'.startForced else s'
  else s

/-- After an allocation: shortage is declared when the free count is at or below the shortage level and the mark is
clear (R59). -/
def State.judgeShortage (s : State) : State :=
  if s.table.shortage = false ∧ s.table.counts.free ≤ s.settings.journey.shortageLevel then
    (({ s with table := { s.table with shortage := true } }).raise
      (.shortage s.table.counts.free)).startSequence
  else s

/-- A forced pass judges by the age criteria alone once shortage has cleared (R142). -/
def Walk.unforced : Walk → Walk
  | .forced n _ => .forced n false
  | w => w

/-- After a release: shortage is cleared when the mark is set and the free count has come to the shortage level plus
128; no forced pass follows, and one in flight settles nothing more by the forced age (R60, R142). -/
def State.judgeCleared (s : State) : State :=
  if s.table.shortage = true ∧
      s.table.counts.free ≥ s.settings.journey.shortageLevel + Config.shortageMargin then
    ({ s with
        table := { s.table with shortage := false }
        sweep := { s.sweep with forcedAge := none, walk := s.sweep.walk.map Walk.unforced } }).raise
      (.shortageCleared s.table.counts.free)
  else s

/-! ### The free list (R55, R56) -/

/-- The free list in full, head first (R55). -/
def FreeList.toList (f : FreeList) : List Nat :=
  f.returned ++ (List.range' f.fresh (Config.slotCount - f.fresh))

/-- The slot at the head of the free list, and the list without it. -/
def FreeList.take (f : FreeList) : Option (Nat × FreeList) :=
  match f.returned with
  | n :: rest => some (n, { f with returned := rest })
  | [] => if f.fresh < Config.slotCount then some (f.fresh, ⟨[], f.fresh + 1⟩) else none

/-- A slot put at the head of the free list. -/
def FreeList.give (f : FreeList) (n : Nat) : FreeList :=
  if f.returned = [] ∧ n + 1 = f.fresh then ⟨[], n⟩ else { f with returned := n :: f.returned }

/-- An allocation: the record is written into the slot at the head of the free list, and shortage is judged; NO_SLOT
(none) when the list is empty, and nothing changes (R55, R56, R59). -/
def State.allocate (s : State) (c : Content) : Option Nat × State :=
  match s.table.free.take with
  | none => (none, s)
  | some (n, f) =>
    (some n, ({ s with table := { s.table with
        free := f
        slots := sparsePut s.table.slots n (.allocated c true)
        counts := s.table.counts.move .free c.kind } }).judgeShortage)

/-- An allocation of a core or orphan, linked at the head of its bucket's chain (R54). -/
def State.allocateLinked (s : State) (token : Token) (c : Content) : Option Nat × State :=
  let b := bucketOf token
  match s.allocate (c.withNext (s.bucketHead b)) with
  | (none, s') => (none, s')
  | (some n, s') => (some n, s'.setBucketHead b (some n))

/-- The release of a slot: it becomes FREE, its number goes to the head of the free list, and the clearing of shortage
is judged; a slot that is FREE is not released (R48, R55, R60; log 37). -/
def State.releaseSlot (s : State) (n : Nat) : State :=
  if s.kind n = .free then s
  else
    ({ s with table := { s.table with
        slots := sparseErase s.table.slots n
        free := s.table.free.give n
        counts := s.table.counts.move (s.kind n) .free } }).judgeCleared

/-- A journey released whole: its core, unlinked from its chain, then those of its extensions that passed, in leg order
(R55, R67). -/
def State.releaseJourney (s : State) (n : Nat) (token : Token) (extensions : List Nat)
    (before : Predecessor := .sought) : State :=
  extensions.foldl State.releaseSlot ((s.unlink n token before).releaseSlot n)

/-- An orphan released: unlinked from its chain and removed from the orphan order (R55, R104). -/
def State.releaseOrphan (s : State) (n : Nat) (token : Token) (before : Predecessor := .sought) : State :=
  ((s.unlink n token before).removeFromOrder n).releaseSlot n

/-! ### Extension lists (R51, R67) -/

/-- The read of one extension: none when it fails or is QUARANTINED. -/
def State.readExtension (s : State) (n : Nat) : Option Extension × State :=
  match s.readSlot n with
  | (some (.extension e), s') => (some e, s')
  | (_, s') => (none, s')

/-- The read of a core's extension list, in leg order (R67). -/
def readExtensions : List Nat → State → List (Nat × Option Extension) × State
  | [], s => ([], s)
  | n :: rest, s =>
    let r := s.readExtension n
    let q := readExtensions rest r.2
    ((n, r.1) :: q.1, q.2)

/-- The slots of the extensions that passed. -/
def passedSlots (es : List (Nat × Option Extension)) : List Nat :=
  es.filterMap fun x => x.2.map fun _ => x.1

/-- The legs of the extensions that passed, in leg order. -/
def passedLegs (es : List (Nat × Option Extension)) : List RecordLeg :=
  es.filterMap fun x => x.2.map Extension.leg

/-- Whether an extension failed or is QUARANTINED. -/
def anyDamaged (es : List (Nat × Option Extension)) : Bool := es.any fun x => x.2.isNone

end Sys2Proof.Machine
end

