-- ==== Sys2Proof/Machine/Settle.lean ====
section
/-! DEFINITION. Settlement: the reckoning of each settlement case against the live bank, Stage 5, and the release of what
was held (spec/01 R1 to R22, spec/03 R67, spec/04 R99, spec/05 R104, R106). -/

namespace Sys2Proof.Machine

/-! ### The reckoning (spec/01) -/

/-- A leg with both ends and no metres yet is measured; any other keeps what it has (R2, R5). -/
def RecordLeg.measured (b : Bank) (l : RecordLeg) : RecordLeg :=
  match l with
  | ⟨some entry, some exit, none⟩ => { l with metres := some (legMetres b entry.station exit.station) }
  | _ => l

/-- The metres of a record's legs together (R6). -/
def legsMetres (ls : List RecordLeg) : Nat := (ls.map fun l => l.metres.getD 0).sum

/-- The record of a request, of a kind, with its legs, basis and class fare, charged the class fare: its class as found,
CLOCK_DOUBT as it stands and CLASS_SUBSTITUTED as the lookup gives (R3, R22, R99). -/
def SettlementRequest.record (q : SettlementRequest) (doubt : Flags) (found : ClassFound) (kind : RecordKind)
    (legs : List RecordLeg) (basis : Option FareBasis) (fare : Nat) : JourneyRecord :=
  { kind := kind, token := q.token, cls := found.cls, day := q.day, legs := legs, basis := basis
    classFare := fare, charged := fare, capSpent := none
    flags := (q.flags.union doubt).union found.flags }

/-- A reckoning, taken whole against the live bank: Stages 1 to 4 and the test of R13 for a journey to be completed, the
special fares for the others (R1, R6 to R13, R17 to R21). -/
def State.reckon (s : State) (q : SettlementRequest) : Reckoned :=
  let b := s.tariff.liveBank
  let found := classLookup b q.cls
  let record := q.record s.doubtFlag found
  match q.case with
  | .completed dayType firstEntry legs =>
    let legs := legs.map (RecordLeg.measured b)
    let fare := staged b dayType (firstEntry / 600) (fareDistance b (legsMetres legs)) found.entry
    s.testCap found.entry.dailyCap (record .complete legs (some fare.1) fare.2)
  | .sameStation station entryTime exitTime =>
    let legs : List RecordLeg := [⟨some ⟨station, entryTime⟩, some ⟨station, exitTime⟩, some 0⟩]
    if exitTime - entryTime ≤ (constantsOf b).sameStationGrace * 600 then
      ⟨record .entryCancelled legs none 0, none⟩
    else
      s.testCap found.entry.dailyCap
        (record .complete legs (some ⟨0, 0, 100⟩) (constantsOf b).sameStationFee)
  | .incomplete legs =>
    ⟨record .incomplete legs (some ⟨0, ceilingMills b, 100⟩) (penaltyFare b found.entry), none⟩
  | .unmatched station exitTime =>
    let metres := unmatchedMetres b station
    let fare := staged b s.clock.dayType (exitTime / 600) (fareDistance b metres) found.entry
    ⟨record .unmatchedExit [⟨none, some ⟨station, exitTime⟩, some metres⟩] (some fare.1) fare.2, none⟩

/-- A settlement with nothing taken between its reckoning and its charge, as a slot examination makes it (R63). -/
def State.settle (s : State) (q : SettlementRequest) : Settled × State := s.chargeRecord (s.reckon q)

/-! ### What was held (R55, R67, R104) -/

/-- The current leg of a core with exit and metres absent (R99; log 13: DEDUCED). -/
def Core.openLeg (c : Core) : RecordLeg := ⟨some ⟨c.entryStation, c.entryTime⟩, none, none⟩

/-- The current leg of a core as a final exit ends it, to be measured at the reckoning (R96). -/
def Core.lastLeg (c : Core) (station exitTime : Nat) : RecordLeg :=
  ⟨some ⟨c.entryStation, c.entryTime⟩, some ⟨station, exitTime⟩, none⟩

/-- The case of a held journey's settlement, over the legs its extensions hold (R89, R94, R96, R99). -/
def Core.settlementCase (c : Core) (done : List RecordLeg) : Closing → SettlementCase
  | .sameStation exitTime => .sameStation c.entryStation c.entryTime exitTime
  | .final station exitTime => .completed c.dayType c.firstEntryTime (done ++ [c.lastLeg station exitTime])
  | .completedLegs => .completed c.dayType c.firstEntryTime done
  | .incomplete => .incomplete (done ++ [c.openLeg])

/-- The request that settles a held journey, from its core and what its extension list read: a damaged extension turns
any settlement into the DAMAGED INCOMPLETE one (R67, R98). -/
def Core.request (c : Core) (es : List (Nat × Option Extension)) (how : Closing) (flags : Flags) : SettlementRequest :=
  { token := c.token, cls := c.cls, day := c.day
    flags := if anyDamaged es then flags.union { damaged := true } else flags
    case := c.settlementCase (passedLegs es) (if anyDamaged es then .incomplete else how) }

/-- A held journey leaves the table: its extension list is read, its core and the extensions that passed are released, and
its settlement is asked for (R55, R67). `extra` are the flags the settlement adds to the core's. -/
def State.closeJourney (s : State) (n : Nat) (c : Core) (how : Closing) (extra : Flags)
    (before : Predecessor := .sought) : SettlementRequest × State :=
  let es := readExtensions c.extensions s
  (c.request es.1 how (c.flags.union extra), es.2.releaseJourney n c.token (passedSlots es.1) before)

/-- A held journey is settled whole (R67, R98, R139). -/
def State.settleCore (s : State) (n : Nat) (c : Core) (how : Closing) (extra : Flags)
    (before : Predecessor := .sought) : Settled × State :=
  let r := s.closeJourney n c how extra before
  r.2.settle r.1

/-- The request that settles an orphan, whose flags the settlement adds `extra` to (R104). -/
def Orphan.request (o : Orphan) (extra : Flags) : SettlementRequest :=
  { token := o.token, cls := o.cls, day := o.day, flags := o.flags.union extra
    case := .unmatched o.exitStation o.exitTime }

/-- An orphan is settled whole as UNMATCHED_EXIT: released, and priced (R104). -/
def State.settleOrphan (s : State) (n : Nat) (o : Orphan) (extra : Flags)
    (before : Predecessor := .sought) : JourneyRecord × State :=
  let s' := s.releaseOrphan n o.token before
  ((s'.reckon (o.request extra)).record, s')

/-- How the day-change walk settles a core: INCOMPLETE when OPEN, over its completed legs when BROKEN (R145). -/
def Core.dayClosing (c : Core) : Closing :=
  match c.state with
  | .opened => .incomplete
  | .broken _ => .completedLegs

end Sys2Proof.Machine
end

