-- ==== Sys2Proof/Machine/Taps.lean ====
section
/-! DEFINITION. The Journey Unit (spec/04, spec/05): taking a tap, its checks, the steps of its card operation, its verdict
and its records: TAP_TAKE and RECORD_APPEND. -/

namespace Sys2Proof.Machine

/-- An outcome whose verdict carries no amounts. -/
def plainOutcome (v : VerdictKind) (r : Reason) (records : List JourneyRecord) : TapOutcome :=
  ⟨v, r, none, none, records⟩

/-! ### The checks of a tap as it is taken (spec/04 section 4.3, spec/05 R111) -/

/-- The form check (R77). -/
def Tap.wellFormed (t : Tap) : Bool :=
  1 ≤ t.station && t.station ≤ 64 && 1 ≤ t.gate && t.gate ≤ 64 && t.direction ≤ 1 &&
    t.time ≤ Config.lastDecisecond && 1 ≤ t.day && t.day ≤ 65535 && t.gateDecided ≤ 1

/-- The day and time checks of a tap that is not of an earlier day: day, time, and whether TIME_CLAMPED (R79). -/
def State.clampTap (s : State) (t : Tap) : Nat × Nat × Bool :=
  if t.day > s.today then (s.today, s.clock.time, true)
  else if t.time > s.clock.time + s.futureTolerance then (t.day, s.clock.time, true)
  else (t.day, t.time, false)

/-- The lookups of R80, and the flags a tap carries: OFFLINE as OFFLINE_ENTRY on a tap-in and OFFLINE_EXIT on a
tap-out, DENIED for an offline tap-in and for every tap-out (log 14: DEDUCED). -/
def State.tapContext (s : State) (e : TapEntry) (day time : Nat) (clamped : Bool) : TapContext :=
  let f := classLookup s.tariff.liveBank e.tap.cls
  let offline := e.tap.gateDecided == 1
  let out := e.tap.direction == 1
  let denied := s.deny.contains e.tap.token
  { token := e.tap.token, cls := f.cls, station := e.tap.station, gate := e.tap.gate, day := day
    dayType := s.clock.dayType, time := time, stamp := e.stamp, earlier := decide (e.tap.day < s.today)
    offline := offline, denied := denied
    flags :=
      { offlineEntry := offline && !out, offlineExit := offline && out, timeClamped := clamped
        denied := denied && (offline || out), clockDoubt := s.clock.doubt
        classSubstituted := f.substituted } }

/-- A tap as the day check and the time check leave it; neither moves a tap of an earlier day (R79, R111). -/
def State.checkedTap (s : State) (e : TapEntry) : TapContext :=
  if e.tap.day < s.today then s.tapContext e e.tap.day e.tap.time false
  else
    let c := s.clampTap e.tap
    s.tapContext e c.1 c.2.1 c.2.2

/-- The record of the tap-in itself: REFUSAL or ENTRY_UNTRACKED (R84, R86, R91, R99). -/
def State.tapRecord (s : State) (x : TapContext) (k : RecordKind) : JourneyRecord :=
  { kind := k, token := x.token, cls := x.cls, day := x.day
    legs := [⟨some ⟨x.station, x.time⟩, none, none⟩], basis := none, classFare := 0, charged := 0
    capSpent := none, flags := x.flags.union s.doubtFlag }

/-! ### What a tap writes and asks for -/

/-- The core a tap-in opens, of the day and day type held when the tap was taken (R90). -/
def TapContext.core (x : TapContext) : Core :=
  { token := x.token, cls := x.cls, day := x.day, dayType := x.dayType, state := .opened
    entryStation := x.station, entryTime := x.time, firstEntryTime := x.time, entryGate := x.gate
    extensions := [], flags := x.flags, next := none }

/-- The orphan a tap-out stores (R97, R101). -/
def TapContext.orphan (x : TapContext) : Orphan :=
  { token := x.token, cls := x.cls, day := x.day, exitStation := x.station, exitGate := x.gate
    exitTime := x.time, arrival := x.stamp, flags := x.flags, next := none, nextOrder := none }

/-- The request that settles a tap by itself (R61, R97, R112, R113). -/
def TapContext.request (x : TapContext) (case : SettlementCase) : SettlementRequest :=
  { token := x.token, cls := x.cls, day := x.day, flags := x.flags, case := case }

/-- A tap-out settled at once as UNMATCHED_EXIT (R61, R113). -/
def TapContext.unmatched (x : TapContext) : SettlementRequest := x.request (.unmatched x.station x.time)

/-- A tap-in of an earlier day settled at once as INCOMPLETE (R112). -/
def TapContext.incomplete (x : TapContext) : SettlementRequest :=
  x.request (.incomplete [⟨some ⟨x.station, x.time⟩, none, none⟩])

/-- Whether a tap-in matches an orphan: the orphan is of the current day, and its exit lies at or after the tap-in and
within the maximum journey duration of it (R105). -/
def State.matchesOrphan (s : State) (x : TapContext) (o : Orphan) : Bool :=
  o.day = s.today && x.time ≤ o.exitTime && o.exitTime - x.time ≤ s.maxDuration

/-- The trip of a tap-in and the orphan it matches, of the day that was current at the test of R105, with the day type as
the match is taken. The tap-in gives OFFLINE_ENTRY, TIME_CLAMPED, DENIED and CLASS_SUBSTITUTED; clock doubt is judged at the
reckoning of the match (R106, R107). -/
def State.matchRequest (s : State) (x : TapContext) (o : Orphan) : SettlementRequest :=
  { token := x.token, cls := x.cls, day := o.day, flags := { x.flags with clockDoubt := false }.union o.flags
    case :=
      if o.exitStation = x.station then .sameStation x.station x.time o.exitTime
      else
        .completed s.clock.dayType x.time
          [⟨some ⟨x.station, x.time⟩, some ⟨o.exitStation, o.exitTime⟩, none⟩] }

/-- The core of a continued journey (R88). -/
def Core.continued (c : Core) (x : TapContext) : Core :=
  { c with
    state := .opened, entryStation := x.station, entryTime := x.time
    flags := c.flags.union
      { offlineEntry := x.offline, timeClamped := x.flags.timeClamped, denied := x.flags.denied
        clockDoubt := x.flags.clockDoubt } }

/-- The exit time of the leg a tap-out ends: its time, or the leg's entry time when that lies later (R93). -/
def TapContext.exitTime (x : TapContext) (c : Core) : Nat := max x.time c.entryTime

/-- Whether the exit time was taken from the entry (R93). -/
def TapContext.exitClamped (x : TapContext) (c : Core) : Bool := x.time < c.entryTime

/-- The flags of a tap-out that a journey it ends takes into its record (R93, R99). -/
def TapContext.exitFlags (x : TapContext) (c : Core) : Flags :=
  { offlineExit := x.offline, timeClamped := x.flags.timeClamped || x.exitClamped c, denied := x.flags.denied }

/-- A tap-out ends an OPEN journey by a same-station exit or a final exit (R94, R96). -/
def TapContext.ending (x : TapContext) (before : Predecessor) (n : Nat) (c : Core) : CardStep :=
  .closeJourney n c
    (if c.extensions = [] ∧ x.station = c.entryStation then .sameStation (x.exitTime c)
      else .final x.station (x.exitTime c))
    (x.exitFlags c) true before

/-- The core of a journey held at a break (R95). -/
def Core.heldAt (c : Core) (x : TapContext) (extension : Nat) : Core :=
  { c with
    state := .broken (x.exitTime c), extensions := c.extensions ++ [extension]
    flags := c.flags.union
      { timeClamped := x.flags.timeClamped || x.exitClamped c, denied := x.flags.denied
        clockDoubt := x.flags.clockDoubt } }

/-- The leg extension a break hold writes (R95). -/
def TapContext.extension (x : TapContext) (b : Bank) (n : Nat) (c : Core) : Extension :=
  { entryStation := c.entryStation, entryTime := c.entryTime, exitStation := x.station
    exitTime := x.exitTime c, metres := legMetres b c.entryStation x.station, owner := n }

/-! ### The outcome and the steps to come -/

/-- The verdict decided, without amounts. -/
def Handling.answer (h : Handling) (v : VerdictKind) (r : Reason) : Handling :=
  { h with outcome := { h.outcome with verdict := v, reason := r } }

/-- Steps to make before those that wait already. -/
def Handling.push (h : Handling) (steps : List CardStep) : Handling := { h with steps := steps ++ h.steps }

/-- A record settled, after those settled before it (R100). -/
def Handling.add (h : Handling) (r : JourneyRecord) : Handling :=
  { h with outcome := { h.outcome with records := h.outcome.records ++ [r] } }

/-- A settlement made; the tap's own gives its verdict charged, and cap remaining when an account was charged (R81). -/
def Handling.settled (h : Handling) (x : Settled) (own : Bool) : Handling :=
  if own then
    { h with outcome :=
      { h.outcome with
        charged := some x.record.charged, capRemaining := x.capRemaining
        records := h.outcome.records ++ [x.record] } }
  else h.add x.record

/-! ### The decision after a lookup -/

/-- A journey of another day is settled as the day-change walk settles it (R85, R113, R115). -/
def dayClose (before : Predecessor) (n : Nat) (c : Core) : CardStep := .closeJourney n c c.dayClosing {} false before

/-- A tap-in that finds a core of the current day (R86 to R89). -/
def State.decideTapInCore (s : State) (h : Handling) (before : Predecessor) (n : Nat) (c : Core) : Handling :=
  let x := h.context
  match c.state with
  | .opened =>
    if x.station = c.entryStation ∧ x.time - c.entryTime ≤ s.passbackWindow then
      (h.answer .refuse .alreadyInside).add (s.tapRecord x .refusal)
    else (h.answer .allowNote .previousSettled).push [.closeJourney n c .incomplete {} false before, .openCore]
  | .broken exitTime =>
    if x.time - exitTime ≤ s.breakWindow then
      (h.answer .allow .none).push [.rewriteCore n (c.continued x)]
    else (h.answer .allow .none).push [.closeJourney n c .completedLegs {} false before, .openCore]

/-- What a current-day tap-in goes on to, by what its lookup returns (R85 to R91, R105 to R108). -/
def State.decideTapIn (s : State) (h : Handling) : Option Found → Handling
  | some ⟨p, n, .orphan o⟩ =>
    let h := h.answer .allow .none
    if s.matchesOrphan h.context o then h.push [.matchOrphan n o (.known p)]
    else h.push [.closeOrphan n o (.known p), .openCore]
  | some ⟨p, n, .core c⟩ =>
    if c.day = s.today then s.decideTapInCore h (.known p) n c
    else (h.answer .allow .none).push [dayClose (.known p) n c, .openCore]
  | some ⟨_, _, .extension _⟩ => (h.answer .allow .none).push [.openCore]
  | none => (h.answer .allow .none).push [.openCore]

/-- A current-day tap-out that finds an OPEN core of the current day: same-station exit, break hold, or final exit, tried
in that order (R92, R94 to R96). -/
def State.decideExit (s : State) (h : Handling) (before : Predecessor) (n : Nat) (c : Core) : Handling :=
  let x := h.context
  let h := h.answer .allow .none
  if ¬(c.extensions = [] ∧ x.station = c.entryStation) ∧
      breakPermittedAt s.tariff.liveBank x.station = true ∧ c.extensions.length < 2 then
    h.push [.holdLeg n c before]
  else h.push [x.ending before n c]

/-- What a current-day tap-out goes on to, by what its lookup returns; one that finds no journey stores an orphan, the
oldest giving way first when the order is full (R92, R97, R102, R115). -/
def State.decideTapOut (s : State) (h : Handling) : Option Found → Handling
  | some ⟨p, n, .core c⟩ =>
    if c.day = s.today then
      match c.state with
      | .opened => s.decideExit h (.known p) n c
      | .broken _ =>
        (h.answer .allow .noEntryFound).push
          [.closeJourney n c .completedLegs {} false (.known p), .makeRoom, .storeOrphan]
    else (h.answer .allow .noEntryFound).push [dayClose (.known p) n c, .makeRoom, .storeOrphan]
  | some ⟨p, n, .orphan o⟩ =>
    (h.answer .allow .noEntryFound).push [.closeOrphan n o (.known p), .makeRoom, .storeOrphan]
  | some ⟨_, _, .extension _⟩ => (h.answer .allow .noEntryFound).push [.makeRoom, .storeOrphan]
  | none => (h.answer .allow .noEntryFound).push [.makeRoom, .storeOrphan]

/-- What a tap-out of an earlier day goes on to, by what its lookup returns (R113, R114). -/
def State.decideEarlierTapOut (s : State) (h : Handling) : Option Found → Handling
  | some ⟨p, n, .core c⟩ =>
    let x := h.context
    if c.day = s.today then (h.answer .allow .noEntryFound).push [.reckon x.unmatched false]
    else if c.day = x.day ∧ c.state = .opened then (h.answer .allow .none).push [x.ending (.known p) n c]
    else (h.answer .allow .noEntryFound).push [dayClose (.known p) n c, .reckon x.unmatched false]
  | some ⟨_, _, .orphan _⟩ => (h.answer .allow .noEntryFound).push [.reckon h.context.unmatched false]
  | some ⟨_, _, .extension _⟩ => (h.answer .allow .noEntryFound).push [.reckon h.context.unmatched false]
  | none => (h.answer .allow .noEntryFound).push [.reckon h.context.unmatched false]

/-- What a tap goes on to after its lookup. -/
def State.afterLookup (s : State) (h : Handling) (found : Option Found) : Handling :=
  if h.entry.tap.direction = 1 then
    if h.context.earlier then s.decideEarlierTapOut h found else s.decideTapOut h found
  else s.decideTapIn h found

/-! ### The steps of a card operation (R62) -/

/-- The tap-in opens its journey, or is untracked when no slot can be had (R90, R91). -/
def State.openCore (s : State) (h : Handling) : Handling × State :=
  let r := s.allocateLinked h.context.token (.core h.context.core)
  match r.1 with
  | some _ => (h, r.2)
  | none => ((h.answer .allowNote .untracked).add (r.2.tapRecord h.context .entryUntracked), r.2)

/-- The leg of a break is written into an extension and the core is to be rewritten; with no slot the exit is final
(R95, R61). -/
def State.holdLeg (s : State) (h : Handling) (before : Predecessor) (n : Nat) (c : Core) : Handling × State :=
  let x := h.context
  let r := s.allocate (.extension (x.extension s.tariff.liveBank n c))
  match r.1 with
  | some e =>
    ({ h with outcome := { h.outcome with reason := .journeyHeld, charged := some 0 } }.push
      [.rewriteCore n (c.heldAt x e)], r.2)
  | none => (h.push [x.ending before n c], r.2)

/-- With 512 orphans on the order the oldest is to be settled; no lookup has found it, so its predecessor on its chain is
sought (log 39: DEDUCED). A head that fails on reading cuts the order to nothing, and
no orphan is settled (R58, R66). -/
def State.makeRoom (s : State) (h : Handling) : Handling × State :=
  if s.table.order.length < Config.orphanOrderLimit then (h, s)
  else
    match s.table.order.head with
    | none => (h, s)
    | some n =>
      match s.readSlot n with
      | (some (.orphan o), s') => (h.push [.closeOrphan n o .sought], s')
      | (_, s') => (h, s'.cutOrder none 0)

/-- The tap-out's orphan is stored, to join the order; with no slot the tap-out is settled at once (R97, R61). -/
def State.storeOrphan (s : State) (h : Handling) : Handling × State :=
  let r := s.allocateLinked h.context.token (.orphan h.context.orphan)
  match r.1 with
  | some n => (h.push [.joinOrder n], r.2)
  | none => (h.push [.reckon h.context.unmatched false], r.2)

/-- A reckoning ends its settlement, unless the record goes on to the Cap Table (R13). -/
def State.reckonStep (s : State) (h : Handling) (q : SettlementRequest) (own : Bool) : Handling :=
  let r := s.reckon q
  match r.dailyCap with
  | none => h.settled ⟨r.record, none⟩ own
  | some _ => h.push [.charge r own]

/-- One step of a card operation, with the steps after it left in `h` (R62). -/
def State.cardStep (s : State) (h : Handling) : CardStep → Handling × State
  | .lookup =>
    let r := s.lookup h.context.token
    (r.2.afterLookup h r.1, r.2)
  | .closeJourney n c how extra own before =>
    let r := s.closeJourney n c how extra before
    (h.push [.reckon r.1 own], r.2)
  | .closeOrphan n o before => (h.push [.reckon (o.request {}) false], s.releaseOrphan n o.token before)
  | .matchOrphan n o before =>
    let s' := s.releaseOrphan n o.token before
    (s'.reckonStep h (s'.matchRequest h.context o) true, s')
  | .reckon q own => (s.reckonStep h q own, s)
  | .charge r own =>
    let x := s.chargeRecord r
    (h.settled x.1 own, x.2)
  | .openCore => s.openCore h
  | .holdLeg n c before => s.holdLeg h before n c
  | .rewriteCore n c => (h, s.rewrite n (.core c))
  | .makeRoom => s.makeRoom h
  | .storeOrphan => s.storeOrphan h
  | .joinOrder n => (h, s.appendToOrder n)

/-- A bound on the steps that a step and those it calls for take. -/
def CardStep.most : CardStep → Nat
  | .lookup => 11
  | .closeJourney _ _ _ _ _ _ => 3
  | .closeOrphan _ _ _ => 3
  | .matchOrphan _ _ _ => 2
  | .reckon _ _ => 2
  | .charge _ _ => 1
  | .openCore => 1
  | .holdLeg _ _ _ => 4
  | .rewriteCore _ _ => 1
  | .makeRoom => 4
  | .storeOrphan => 3
  | .joinOrder _ => 1

/-- A bound on the steps in which a tap in HANDLING is handled to its end. -/
def Handling.most (h : Handling) : Nat := (h.steps.map CardStep.most).sum

/-! ### Handling a tap -/

/-- The verdict of an outcome, addressed to the tap's station (R81). -/
def TapOutcome.toVerdict (o : TapOutcome) (t : Tap) : Verdict :=
  ⟨t.station, t.gate, t.token, o.verdict, o.reason, o.charged, o.capRemaining⟩

/-- The end of a tap's handling: a live tap's verdict is offered, then the records are appended; the unit is IDLE again,
or APPENDING when a record waits for room (R75, R82, R83, R100). -/
def State.finishTap (s : State) (e : TapEntry) (o : TapOutcome) : State :=
  let s' := if e.tap.gateDecided = 0 then s.offerVerdict e.stamp (o.toVerdict e.tap) else s
  let r := appendWhileRoom o.records s'
  { r.2 with unit := if r.1 = [] then .idle else .appending r.1 }

/-- A tap in SERVICE enters HANDLING with its checks made: refused when denied and live, settled at once when it is a
tap-in of an earlier day, else to make its card operation (R79, R80, R84, R111, R112). -/
def State.beginHandling (s : State) (e : TapEntry) : Handling :=
  let x := s.checkedTap e
  let h : Handling := { entry := e, context := x, steps := [], outcome := plainOutcome .allow .none [] }
  if e.tap.direction ≠ 1 ∧ x.denied = true ∧ x.offline = false then
    (h.answer .refuse .denied).add (s.tapRecord x .refusal)
  else if e.tap.direction ≠ 1 ∧ x.earlier = true then
    (h.answer .allowNote .untracked).push [.reckon x.incomplete false]
  else h.push [.lookup]

/-- At most so many steps of a card operation, from the tap as it stands in HANDLING. -/
def runCard : Nat → Handling → State → Handling × State
  | 0, h, s => (h, s)
  | n + 1, h, s =>
    match h.steps with
    | [] => (h, s)
    | step :: rest =>
      let r := s.cardStep { h with steps := rest } step
      runCard n r.1 r.2

/-- A tap is handled over at most `steps` steps: it rests in HANDLING while any is left, and is else finished
(R62, R75). -/
def State.handle (s : State) (h : Handling) (steps : Option Nat) : State :=
  let r := runCard (steps.getD h.most) h s
  if r.1.steps = [] then r.2.finishTap r.1.entry r.1.outcome else { r.2 with unit := .handling r.1 }

/-- A tap just taken: the form check, the mode check as the mode stands now, and in SERVICE its handling (R77, R78). -/
def State.takeTap (s : State) (e : TapEntry) (steps : Option Nat) : State :=
  if e.tap.wellFormed = false then
    { s with counters := { s.counters with malformedTaps := raised s.counters.malformedTaps } }.writeFault
      .malformedTap e.tap.station
  else
    match s.mode with
    | .maintenance =>
      { s with counters := { s.counters with tapsRefused := raised s.counters.tapsRefused } }.finishTap e
        (plainOutcome .notInService .none [])
    | .service => s.handle (s.beginHandling e) steps

/-- The state with its head tap taken from the queue and counted (R75). -/
def State.tapTaken (s : State) (rest : List TapEntry) : State :=
  { s with taps := rest, counters := { s.counters with tapsTaken := raised s.counters.tapsTaken } }

/-- TAP_TAKE (R75): in IDLE, with the queue not empty and the stall mark clear, the head tap is taken, counted, checked and
handled; a tap held in HANDLING is handled further, whatever the mode has become (R78, R176). Else no tap is taken
(log 2: DESIGN CHOICE, log 5). -/
def execTapTake (s : State) (steps : Option Nat := none) : Host.Outcome State Fault Refusal :=
  match s.unit, s.taps with
  | .handling h, _ => .next (s.handle h steps)
  | .idle, e :: rest => if s.stall then .next s else .next ((s.tapTaken rest).takeTap e steps)
  | _, _ => .next s

/-- RECORD_APPEND (R100): a Journey Unit in APPENDING appends its first waiting record when the queue has room, and is
IDLE again when none is left (log 2). -/
def execRecordAppend (s : State) : Host.Outcome State Fault Refusal :=
  match s.unit with
  | .appending (r :: rest) =>
    if s.recordRoom then
      .next { s.appendRecord r with unit := if rest = [] then .idle else .appending rest }
    else .next s
  | _ => .next s

end Sys2Proof.Machine
end

