-- ==== Sys2Proof/Machine/Sweep.lean ====
section
/-! DEFINITION. The Sweep Unit (spec/07 sections 7.3 to 7.6): the sweep timer, the age pass, the forced pass, the
day-change walk, the append of their records, and what follows a walk. -/

namespace Sys2Proof.Machine

/-! ### The end of a walk (R137, R141) -/

/-- The forced age after a forced pass that ends with shortage still declared: none after a pass at the floor, else
halved and not below the floor (R141). -/
def halvedForcedAge (age : Nat) : Option Nat :=
  if age = Config.forcedAgeFloor then none else some (max (age / 2) Config.forcedAgeFloor)

/-- No walk follows, and the forced age is none (R137). -/
def State.noWalk (s : State) : State := { s with sweep := { s.sweep with walk := none, forcedAge := none } }

/-- What follows a walk that has ended, from the mode, the shortage mark, the forced age and pending expiry (R137). -/
def State.afterWalk (s : State) : State :=
  match s.mode with
  | .maintenance => { s with sweep := { s.sweep with walk := none, forcedAge := none, pendingExpiry := false } }
  | .service =>
    if s.table.shortage = true ∧ s.sweep.forcedAge ≠ none then s.startForced
    else if s.table.shortage = true ∧ s.sweep.pendingExpiry = true then
      { s with sweep := { s.sweep with forcedAge := some s.firstForcedAge } }.startForced
    else if s.sweep.pendingExpiry = true then
      { s with sweep := { s.sweep with forcedAge := none } }.startAge
    else s.noWalk

/-- A DAY_CHANGE whose walk has ended (R146). -/
def DayOperation.walked (d : DayOperation) : DayOperation := { d with ended := true }

/-- A POOL_AUDIT whose walk has ended with a quarantined count (R72). -/
def AuditOperation.walked (quarantined : Nat) (a : AuditOperation) : AuditOperation :=
  { a with ended := some quarantined }

/-- A walk that has examined its last slot, with no record of it waiting, ends: a forced pass of the running sequence
halves or ends the forced age (R141), a day-change walk or an audit lets its response be formed (R146, R72), an audit
clears every audit mark and holds the quarantined count for its response (R68, R72), and R137 decides what follows. -/
def State.endWalk (s : State) : Walk → State
  | .age _ => s.afterWalk
  | .forced _ forcing =>
    (if forcing && s.table.shortage then
      { s with sweep := { s.sweep with forcedAge := s.sweep.forcedAge.bind halvedForcedAge } }
    else s).afterWalk
  | .day _ => { s with dayOp := s.dayOp.map DayOperation.walked }.afterWalk
  | .audit _ =>
    { s with
      table := { s.table with marks := [] }
      auditOp := s.auditOp.map (AuditOperation.walked s.table.counts.quarantined) }.afterWalk

/-- Whether a walk has nothing left to examine. -/
def Walk.finished : Walk → Bool
  | .age n => n ≥ Config.slotCount
  | .forced n _ => n ≥ Config.slotCount
  | .day n => n ≥ Config.slotCount
  | .audit .ending => true
  | .audit _ => false

/-- The walk in flight ends when it has nothing left to examine and none of its records waits (R139). -/
def State.endIfFinished (s : State) : State :=
  match s.sweep.walk with
  | some w => if w.finished && s.sweep.waiting.isEmpty then s.endWalk w else s
  | none => s

/-- The records a walk has formed are appended in order; those that find no room wait, and so do all of them while a
record kept from an ended pass waits before them (R139). -/
def State.walkRecords (s : State) (rs : List JourneyRecord) : State :=
  if s.sweep.kept = [] ∧ s.sweep.waiting = [] then
    let r := appendWhileRoom rs s
    { r.2 with sweep := { r.2.sweep with waiting := r.1 } }
  else { s with sweep := { s.sweep with waiting := s.sweep.waiting ++ rs } }

/-- The next slot of a walk. -/
def Walk.advance : Walk → Walk
  | .age n => .age (n + 1)
  | .forced n f => .forced (n + 1) f
  | .day n => .day (n + 1)
  | w => w

/-- After the examination of a slot: the walk goes to the next slot, its records are appended or wait, and it ends if
that was its last slot and none waits (R138, R139). -/
def State.finishExamination (s : State) (rs : List JourneyRecord) : State :=
  (({ s with sweep := { s.sweep with walk := s.sweep.walk.map Walk.advance } }).walkRecords rs).endIfFinished

/-- Whether a walk may examine a slot: no record of it waits for room (R139, R68), and no card operation is in progress
(R62). -/
def State.mayExamine (s : State) : Bool := s.sweep.waiting.isEmpty && s.tableFree

/-! ### Judging a record (R138, R141, R145) -/

/-- How a pass settles a record: the closing of a core (ignored for an orphan), and whether with FORCED. -/
inductive Judgement where
  | keep
  | settle (forced : Bool)
  deriving DecidableEq, Repr

/-- A record of the current day is judged by its age against its window, and by the forced age when there is one
(R138, R141). -/
def judgeAge (age window : Nat) (forcedAge : Option Nat) : Judgement :=
  if age > window then .settle false
  else
    match forcedAge with
    | none => .keep
    | some f => if age > f then .settle true else .keep

/-- The judgement of an age pass (`forcedAge` none) or a forced pass: a record of another day is always settled, one of
the current day by its age (R138, R141, R145). -/
def State.judgeRecord (s : State) (forcedAge : Option Nat) : Content → Judgement
  | .core c =>
    if c.day ≠ s.today then .settle false
    else
      match c.state with
      | .opened => judgeAge (s.ageSince c.entryTime) s.maxDuration forcedAge
      | .broken exitTime => judgeAge (s.ageSince exitTime) s.breakWindow forcedAge
  | .orphan o =>
    if o.day ≠ s.today then .settle false else judgeAge (s.ageSince o.arrival) s.orphanHold forcedAge
  | .extension _ => .keep

/-- A walk settles the record of a slot as the day-change walk would (which is also how an age or forced pass settles it):
an OPEN core INCOMPLETE, a BROKEN core over its completed legs, an orphan UNMATCHED_EXIT (R138, R141, R145). -/
def State.walkSettle (s : State) (n : Nat) (extra : Flags) : Content → List JourneyRecord × State
  | .core c =>
    let r := s.settleCore n c c.dayClosing extra
    ([r.1.record], r.2)
  | .orphan o =>
    let r := s.settleOrphan n o extra
    ([r.1], r.2)
  | .extension _ => ([], s)

/-- An age pass or a forced pass examines a slot (R138, R141). -/
def State.examineByAge (s : State) (n : Nat) (forcedAge : Option Nat) : List JourneyRecord × State :=
  match s.readSlot n with
  | (none, s') => ([], s')
  | (some c, s') =>
    match s'.judgeRecord forcedAge c with
    | .keep => ([], s')
    | .settle forced => s'.walkSettle n { forced := forced } c

/-- AGE_PASS_EXAMINATION (R138): with an age pass in flight and none of its records waiting, its next slot is examined
(log 2: DESIGN CHOICE). -/
def execAgePassExamination (s : State) : Host.Outcome State Fault Refusal :=
  match s.sweep.walk with
  | some (.age n) =>
    if n < Config.slotCount ∧ s.mayExamine then
      let r := s.examineByAge n none
      .next (r.2.finishExamination r.1)
    else .next s
  | _ => .next s

/-- FORCED_PASS_EXAMINATION (R141, R142): the same for a forced pass, which also settles by the forced age while shortage
is declared and its sequence runs (log 2). -/
def execForcedPassExamination (s : State) : Host.Outcome State Fault Refusal :=
  match s.sweep.walk with
  | some (.forced n forcing) =>
    if n < Config.slotCount ∧ s.mayExamine then
      let r := s.examineByAge n (if forcing && s.table.shortage then s.sweep.forcedAge else none)
      .next (r.2.finishExamination r.1)
    else .next s
  | _ => .next s

/-- The day-change walk's count of a record it has settled (R145). -/
def DayCounts.add (c : DayCounts) (r : JourneyRecord) : DayCounts :=
  { incomplete := c.incomplete + (if r.kind = .incomplete then 1 else 0)
    complete := c.complete + (if r.kind = .complete then 1 else 0)
    unmatched := c.unmatched + (if r.kind = .unmatchedExit then 1 else 0)
    damaged := c.damaged + (if r.flags.damaged then 1 else 0) }

/-- Whether a record is a core or orphan of another day number (R145). -/
def Content.ofOtherDay (today : Nat) : Content → Bool
  | .core c => c.day != today
  | .orphan o => o.day != today
  | .extension _ => false

/-- The day-change walk examines a slot: a core or orphan of another day is settled (R145). -/
def State.examineByDay (s : State) (n : Nat) : List JourneyRecord × State :=
  match s.readSlot n with
  | (none, s') => ([], s')
  | (some c, s') =>
    if c.ofOtherDay s'.today then s'.walkSettle n {} c else ([], s')

/-- DAY_CHANGE_WALK_EXAMINATION (R145): with a day-change walk in flight and none of its records waiting, its next slot
is examined and its settlement counted (log 2). -/
def execDayChangeWalkExamination (s : State) : Host.Outcome State Fault Refusal :=
  match s.sweep.walk with
  | some (.day n) =>
    if n < Config.slotCount ∧ s.mayExamine then
      let r := s.examineByDay n
      .next ({ r.2 with sweep := { r.2.sweep with
        dayCounts := r.1.foldl DayCounts.add r.2.sweep.dayCounts } }.finishExamination r.1)
    else .next s
  | _ => .next s

/-- WALK_RECORD_APPEND (R139): when the queue has room, the first kept record is appended, else the first waiting record
of the walk in flight; the walk ends when that was the last of its last examination (log 2, log 20: DEDUCED). -/
def execWalkRecordAppend (s : State) : Host.Outcome State Fault Refusal :=
  if s.recordRoom then
    match s.sweep.kept, s.sweep.waiting with
    | r :: rest, _ =>
      let s' := s.appendRecord r
      .next { s' with sweep := { s'.sweep with kept := rest } }
    | [], r :: rest =>
      let s' := s.appendRecord r
      .next ({ s' with sweep := { s'.sweep with waiting := rest } }.endIfFinished)
    | [], [] => .next s
  else .next s

/-! ### The sweep timer (R136) -/

/-- SWEEP_TIMER_EXPIRY (R136): the timer, run out, reloads the full period; with no walk in flight an age pass starts, or
under shortage a forced pass sequence; with a walk in flight pending expiry is set. An expiry that is not due changes
nothing (log 2, log 6: DESIGN CHOICE). -/
def execSweepTimerExpiry (s : State) : Host.Outcome State Fault Refusal :=
  if s.sweep.timer = some 0 then
    let s' := { s with sweep := { s.sweep with timer := some s.sweepPeriod } }
    match s.sweep.walk with
    | some _ => .next { s' with sweep := { s'.sweep with pendingExpiry := true } }
    | none =>
      if s.table.shortage then
        .next { s' with sweep := { s'.sweep with forcedAge := some s.firstForcedAge } }.startForced
      else .next s'.startAge
  else .next s

/-- An age or forced pass in flight is ended at once, a record it has formed being kept (R139, R144, R147). -/
def State.endPass (s : State) : State :=
  match s.sweep.walk with
  | some (.age _) =>
    { s with sweep := { s.sweep with walk := none, kept := s.sweep.kept ++ s.sweep.waiting, waiting := [] } }
  | some (.forced _ _) =>
    { s with sweep := { s.sweep with walk := none, kept := s.sweep.kept ++ s.sweep.waiting, waiting := [] } }
  | _ => s

end Sys2Proof.Machine
end

