-- ==== Sys2Proof/Machine/Audit.lean ====
section
/-! DEFINITION. The pool audit (spec/03 section 3.9): its four steps, run by the Sweep Unit as its walk of kind AUDIT. Each
examination of one slot and each link of the new order is taken whole, and the walk rests between them (R68;
log 19: DESIGN CHOICE). -/

namespace Sys2Proof.Machine

/-- A slot number put among marks kept in rising order. -/
def markIn : List Nat → Nat → List Nat
  | [], n => [n]
  | m :: rest, n => if m = n then m :: rest else if n < m then n :: m :: rest else m :: markIn rest n

/-- The audit mark of a slot set (R69). -/
def State.mark (s : State) (n : Nat) : State :=
  { s with table := { s.table with marks := markIn s.table.marks n } }

/-- The audit counts of the walk replaced. -/
def State.setAuditCounts (s : State) (c : AuditCounts) : State := { s with sweep := { s.sweep with auditCounts := c } }

/-- The first allocated slot without a mark at or above `n` (R70). -/
def State.nextUnmarked (s : State) (n : Nat) : Option Nat :=
  (s.table.slots.find? fun x =>
    decide (n ≤ x.1) && (match x.2 with | .allocated _ _ => true | .quarantined => false) &&
      !s.table.marks.contains x.1).map (·.1)

/-- The first QUARANTINED slot at or above `n` (R71). -/
def State.nextQuarantined (s : State) (n : Nat) : Option Nat :=
  (s.table.slots.find? fun x => decide (n ≤ x.1) && decide (x.2 = .quarantined)).map (·.1)

/-- The first marked orphan at or above `n` (R72). -/
def State.nextMarkedOrphan (s : State) (n : Nat) : Option Nat :=
  s.table.marks.find? fun m => decide (n ≤ m) && decide (s.kind m = .orphan)

/-! ### Where the audit goes on -/

/-- Where the reading of the marked orphans stands when it has come to slot `n`: the next of them, or the settlement of
those that find no room (R72). -/
def State.gatherFrom (s : State) (n : Nat) (found : List (Nat × Nat)) : AuditStep :=
  match s.nextMarkedOrphan n with
  | some m => .gather m found
  | none => .shed (found.map (·.1))

/-- Where the third step stands when it has come to slot `n`: the next QUARANTINED slot, or the fourth step. The slot to
test next is fixed here, as the test before it ends: one below it that a query quarantines after that is not tested by
this audit (R64, R71; log 41: DESIGN CHOICE). -/
def State.testsFrom (s : State) (n : Nat) : AuditStep :=
  match s.nextQuarantined n with
  | some m => .tests m
  | none => s.gatherFrom 0 []

/-- Where the second step stands when it has come to slot `n`: the next unmarked slot, or the third step. -/
def State.slotsFrom (s : State) (n : Nat) : AuditStep :=
  match s.nextUnmarked n with
  | some m => .slots m
  | none => s.testsFrom 0

/-- The slot that a bucket's chain leads to after `passed`, or at its head when none was passed. A last slot passed that a
query has quarantined since leads to none, and the walk goes on to the next bucket; where a query has cut the chain above
the last slot passed, the walk goes on from that slot, and marks what it reaches (R64, R66; log 42: DESIGN CHOICE). One
that has been disturbed since is not read again: its link is the one it was read with (R48, R69; log 46: DESIGN CHOICE). -/
def State.chainLink (s : State) (b : Nat) (passed : Option Nat) : Option Nat :=
  match passed with
  | none => s.bucketHead b
  | some p => s.nextOf p

/-- Where the first step stands when it has passed a slot of a bucket's chain: on that chain while it leads on, else at
the next bucket, or in the second step after bucket 4,095 (R69). -/
def State.chainsFrom (s : State) (b : Nat) (passed : Option Nat) : AuditStep :=
  match s.chainLink b passed with
  | some _ => .chains b passed
  | none => if b + 1 < Config.bucketCount then .chains (b + 1) none else s.slotsFrom 0

/-- The audit goes on to a step. -/
def State.setAuditStep (s : State) (a : AuditStep) : State := { s with sweep := { s.sweep with walk := some (.audit a) } }

/-! ### The first step (R69) -/

/-- A slot on a bucket's chain is examined: a reachable record is marked, with the extensions of a core, and passed; a core
with a damaged extension is settled DAMAGED and not marked; a failed or QUARANTINED slot cuts the chain after the last
one passed, which is rewritten without a second read (log 46: DESIGN CHOICE). When the walk that unlinks a settled core
meets a slot passed that has been disturbed since, it cuts the chain there; the slots marked keep their marks, and the
bucket's walk ends (R54, R66; log 42: DESIGN CHOICE). The records, the last slot passed and the state (R66, R69). -/
def State.auditChainSlot (s : State) (b : Nat) (passed : Option Nat) (n : Nat) :
    List JourneyRecord × Option Nat × State :=
  match s.readSlot n with
  | (some (.core c), s') =>
    let es := readExtensions c.extensions s'
    if anyDamaged es.1 then
      let r := es.2.settleCore n c .incomplete {}
      ([r.1.record], passed,
        r.2.setAuditCounts { r.2.sweep.auditCounts with damaged := r.2.sweep.auditCounts.damaged + 1 })
    else ([], some n, c.extensions.foldl State.mark (es.2.mark n))
  | (some (.orphan _), s') => ([], some n, s'.mark n)
  | (_, s') => ([], passed, s'.setChainLink b passed none)

/-- The walk of a bucket's chain goes on by one slot, or to the next bucket where the chain has ended (R68, R69). -/
def State.auditChainStep (s : State) (b : Nat) (passed : Option Nat) : State :=
  match s.chainLink b passed with
  | none => s.setAuditStep (s.chainsFrom b passed)
  | some n =>
    let r := s.auditChainSlot b passed n
    (r.2.2.setAuditStep (r.2.2.chainsFrom b r.2.1)).walkRecords r.1

/-- At most so many slots of one bucket's chain, no further than a record that waits for room (R68, R69). -/
def runChain (b : Nat) : Nat → State → State
  | 0, s => s
  | k + 1, s =>
    match s.sweep.walk with
    | some (.audit (.chains a passed)) =>
      if a = b ∧ s.sweep.waiting = [] then runChain b k (s.auditChainStep b passed) else s
    | _ => s

/-- AUDIT_CHAIN_WALK (R69): the chain of the bucket in hand is walked over at most `slots` slots, or to its end; after
bucket 4,095 the second step begins (log 2: DESIGN CHOICE, log 19). -/
def execAuditChainWalk (s : State) (slots : Option Nat := none) : Host.Outcome State Fault Refusal :=
  match s.sweep.walk with
  | some (.audit (.chains b _)) =>
    if s.tableFree then .next (runChain b (slots.getD (Config.slotCount + 1)) s) else .next s
  | _ => .next s

/-! ### The second step (R70) -/

/-- Whether an extension's owner is a core that reads and names it; a core that fails on reading is quarantined
(R70). -/
def State.ownedBy (s : State) (n owner : Nat) : Bool × State :=
  if s.kind owner = .core then
    match s.readSlot owner with
    | (some (.core c), s') => (c.extensions.contains n, s')
    | (_, s') => (false, s')
  else (false, s)

/-- The counts after the settlement of a record of the second step (R72). -/
def AuditCounts.recover (c : AuditCounts) (r : JourneyRecord) : AuditCounts :=
  { c with recovered := c.recovered + 1, damaged := c.damaged + (if r.flags.damaged then 1 else 0) }

/-- The examination of one unmarked allocated slot (R70). -/
def State.auditSlot (s : State) (n : Nat) : List JourneyRecord × State :=
  match s.readSlot n with
  | (none, s') => ([], s')
  | (some (.core c), s') =>
    let r := s'.settleCore n c .incomplete { recovered := true }
    ([r.1.record], r.2.setAuditCounts (r.2.sweep.auditCounts.recover r.1.record))
  | (some (.orphan o), s') =>
    let r := s'.settleOrphan n o { recovered := true }
    ([r.1], r.2.setAuditCounts (r.2.sweep.auditCounts.recover r.1))
  | (some (.extension e), s') =>
    match s'.ownedBy n e.owner with
    | (true, s'') => ([], s'')
    | (false, s'') =>
      let r := s''.releaseSlot n
      ([], r.setAuditCounts { r.sweep.auditCounts with loneReleased := r.sweep.auditCounts.loneReleased + 1 })

/-- AUDIT_SLOT_EXAMINATION (R70): the next unmarked allocated slot is examined (log 2). -/
def execAuditSlotExamination (s : State) : Host.Outcome State Fault Refusal :=
  match s.sweep.walk with
  | some (.audit (.slots n)) =>
    if s.mayExamine then
      match s.nextUnmarked n with
      | none => .next (s.setAuditStep (s.testsFrom 0))
      | some m =>
        let r := s.auditSlot m
        .next ((r.2.setAuditStep (r.2.slotsFrom (m + 1))).walkRecords r.1)
    else .next s
  | _ => .next s

/-! ### The third step (R71) -/

/-- AUDIT_SLOT_TEST (R71): the next QUARANTINED slot is tested; one that passes is released to the head of the free list
(log 2, log 9: DESIGN CHOICE). -/
def execAuditSlotTest (passes : Bool) (s : State) : Host.Outcome State Fault Refusal :=
  match s.sweep.walk with
  | some (.audit (.tests n)) =>
    if s.mayExamine then
      match s.nextQuarantined n with
      | none => .next (s.setAuditStep (s.gatherFrom 0 []))
      | some m =>
        let s' :=
          if passes then
            let r := s.releaseSlot m
            r.setAuditCounts { r.sweep.auditCounts with restored := r.sweep.auditCounts.restored + 1 }
          else s
        .next (s'.setAuditStep (s'.testsFrom (m + 1)))
    else .next s
  | _ => .next s

/-! ### The fourth step (R72) -/

/-- An orphan's slot and arrival time put into a list by arrival time, after those of equal arrival (R72). -/
def insertByArrival (x : Nat × Nat) : List (Nat × Nat) → List (Nat × Nat)
  | [] => [x]
  | y :: rest => if x.2 < y.2 then x :: y :: rest else y :: insertByArrival x rest

/-- A marked orphan is read for the new order; one whose read fails is not of it (R72). -/
def State.gatherOrphan (s : State) (n : Nat) (found : List (Nat × Nat)) : List (Nat × Nat) × State :=
  match s.readSlot n with
  | (some (.orphan o), s') => (insertByArrival (n, o.arrival) found, s')
  | (_, s') => (found, s')

/-- An orphan for which the new order has no room is settled without RECOVERED, and counted; one that no longer reads is
passed over (R72; log 45: DESIGN CHOICE). -/
def State.shedOrphan (s : State) (n : Nat) : List JourneyRecord × State :=
  match s.readSlot n with
  | (some (.orphan o), s') =>
    let r := s'.settleOrphan n o {}
    ([r.1], r.2.setAuditCounts
      { r.2.sweep.auditCounts with rebuildSettled := r.2.sweep.auditCounts.rebuildSettled + 1 })
  | (_, s') => ([], s')

/-- An orphan is linked at the tail of the new order; one that no longer reads is passed over (R57, R72; log 45: DESIGN
CHOICE). -/
def State.linkOrphan (s : State) (n : Nat) : State :=
  match s.readSlot n with
  | (some (.orphan _), s') => (s'.setNextOrder n none).appendToOrder n
  | (_, s') => s'

/-- One step of the rebuild: a marked orphan read; with more than 512 of them the oldest settled; with 512 or fewer the old
order gone; one orphan linked; with none left, the end of the audit (R68, R72). An orphan read for the new order that a
query quarantines after that still counts towards the 512, and is passed over when its turn comes to be settled or linked
(log 45: DESIGN CHOICE). -/
def State.rebuildStep (s : State) : AuditStep → State
  | .gather n found =>
    match s.nextMarkedOrphan n with
    | none => s.setAuditStep (s.gatherFrom n found)
    | some m =>
      let r := s.gatherOrphan m found
      r.2.setAuditStep (r.2.gatherFrom (m + 1) r.1)
  | .shed ns =>
    match ns with
    | n :: rest =>
      if ns.length ≤ Config.orphanOrderLimit then (s.setOrder ⟨none, none, 0⟩).setAuditStep (.link ns)
      else
        let r := s.shedOrphan n
        (r.2.setAuditStep (.shed rest)).walkRecords r.1
    | [] => (s.setOrder ⟨none, none, 0⟩).setAuditStep (.link [])
  | .link (n :: rest) => (s.linkOrphan n).setAuditStep (.link rest)
  | .link [] => (s.setAuditStep .ending).endIfFinished
  | .chains _ _ => s
  | .slots _ => s
  | .tests _ => s
  | .ending => s

/-- Whether a step of the audit belongs to the rebuild. -/
def AuditStep.rebuilds : AuditStep → Bool
  | .gather _ _ => true
  | .shed _ => true
  | .link _ => true
  | _ => false

/-- At most so many steps of the rebuild, no further than a record that waits for room (R68, R72). -/
def runRebuild : Nat → State → State
  | 0, s => s
  | k + 1, s =>
    match s.sweep.walk with
    | some (.audit a) => if a.rebuilds = true ∧ s.sweep.waiting = [] then runRebuild k (s.rebuildStep a) else s
    | _ => s

/-- A bound on the steps that are left of the rebuild. -/
def State.rebuildMost (s : State) : Nat :=
  match s.sweep.walk with
  | some (.audit (.gather _ found)) => 2 * (s.table.marks.length + found.length) + 3
  | some (.audit (.shed ns)) => 2 * ns.length + 3
  | some (.audit (.link ns)) => ns.length + 1
  | _ => 0

/-- AUDIT_ORDER_REBUILD (R72): the marked orphans are sorted by arrival; the oldest beyond 512 are settled without
RECOVERED, and the rest form the new order, which replaces the old one whole; the audit then ends. It is taken over at
most `steps` steps, or to its end (log 2, log 19). -/
def execAuditOrderRebuild (s : State) (steps : Option Nat := none) : Host.Outcome State Fault Refusal :=
  if s.tableFree then .next (runRebuild (steps.getD s.rebuildMost) s) else .next s

end Sys2Proof.Machine
end

