-- ==== Sys2Proof/Machine/ClockUnit.lean ====
section
/-! DEFINITION. The Service Clock (spec/07 sections 7.1 and 7.2): counting, the hold, beacons, the watchdog; and the
passing of time for every timer (log 6: DESIGN CHOICE). -/

namespace Sys2Proof.Machine

/-- A timer after one decisecond: a running one counts down to 0, where its expiry is due (log 6). -/
def countDown (t : Option Nat) : Option Nat := t.map fun n => n - 1

/-- One decisecond passes for every running timer: the watchdog, the sweep timer and the two pause limit timers
(R133, R136, R157). -/
def State.elapse (s : State) : State :=
  { s with
    watchdog := countDown s.watchdog
    sweep := { s.sweep with timer := countDown s.sweep.timer }
    line := { s.line with pauseTimer := countDown s.line.pauseTimer }
    office := { s.office with pauseTimer := countDown s.office.pauseTimer } }

/-- The service time counts forward by one decisecond while the day is set; reaching 863,999 it holds, with doubt set and
the CLOCK_DOUBT notice raised (R130, R131). -/
def State.countTime (s : State) : State :=
  match s.clock.day with
  | none => s
  | some _ =>
    if s.clock.time + 1 < Config.lastDecisecond then
      { s with clock := { s.clock with time := s.clock.time + 1 } }
    else if s.clock.time + 1 = Config.lastDecisecond then
      { s with clock := { s.clock with time := Config.lastDecisecond, doubt := true } }.raise
        (.clockDoubt .endOfDay Config.lastDecisecond)
    else s

/-- The contents of an allocated slot are disturbed: its check no longer agrees (R48; log 8: DESIGN CHOICE). -/
def State.disturb (s : State) (n : Nat) : State :=
  match s.slot n with
  | some (.allocated c _) =>
    { s with table := { s.table with slots := sparsePut s.table.slots n (.allocated c false) } }
  | _ => s

/-- SERVICE_TIME_TICK (R130): one decisecond passes, in which the slots of `disturbed` are disturbed. -/
def execServiceTimeTick (disturbed : List Nat) (s : State) : Host.Outcome State Fault Refusal :=
  .next (disturbed.foldl State.disturb s).elapse.countTime

/-- CLOCK_HOLD (R131): the decisecond passes in which the counting service time reaches 863,999; at any other time the
event is not due and nothing changes (log 2: DESIGN CHOICE, log 7: DEDUCED). -/
def execClockHold (s : State) : Host.Outcome State Fault Refusal :=
  if s.clock.day ≠ none ∧ s.clock.time + 1 = Config.lastDecisecond then .next s.elapse.countTime else .next s

/-- What a beacon is to the clock (R132). -/
inductive BeaconOutcome where
  | ignored
  | disputed
  | advances
  | confirms
  deriving DecidableEq, Repr

/-- The judgement of a beacon against the clock, by the table of R132, first line that applies. -/
def Clock.judgeBeacon (c : Clock) (day time : Nat) : BeaconOutcome :=
  match c.day with
  | none => .ignored
  | some today =>
    if day = 0 ∨ time > Config.lastDecisecond then .disputed
    else if day ≠ today then .disputed
    else if time > c.time then .advances
    else if c.time - time ≤ Config.beaconLag then .confirms
    else .disputed

/-- An accepted beacon clears doubt and, in SERVICE, restarts the watchdog with its full period (R132, R133). -/
def State.acceptBeacon (s : State) : State :=
  { s with
    clock := { s.clock with doubt := false }
    watchdog := if s.mode = .service then some s.beaconLimit else s.watchdog }

/-- The Service Clock takes a beacon (R132). -/
def State.takeBeacon (s : State) (day time : Nat) : State :=
  match s.clock.judgeBeacon day time with
  | .ignored => s
  | .disputed => s.raise (.clockDispute day time s.today s.clock.time)
  | .advances => { s with clock := { s.clock with time := time } }.acceptBeacon
  | .confirms => s.acceptBeacon

/-- BEACON (R132). -/
def execBeacon (day time : Nat) (s : State) : Host.Outcome State Fault Refusal := .next (s.takeBeacon day time)

/-- BEACON_WATCHDOG_EXPIRY (R133): the watchdog, run out, stops; doubt is set and the CLOCK_DOUBT notice is raised. An
expiry that is not due changes nothing (log 2, log 6). -/
def execBeaconWatchdogExpiry (s : State) : Host.Outcome State Fault Refusal :=
  if s.watchdog = some 0 then
    .next ({ s with watchdog := none, clock := { s.clock with doubt := true } }.raise
      (.clockDoubt .beaconLate s.clock.time))
  else .next s

end Sys2Proof.Machine
end

