-- ==== Sys2Proof/Machine/Tariff.lean ====
section
/-! DEFINITION. The Tariff Store (spec/02): the tables of a bank by number, the tariff check, the load cursor, commit,
copy and the deny list: TABLE_SEEK, TABLE_WRITE, TABLE_READ, TARIFF_CHECK, TARIFF_COMMIT, TARIFF_COPY, COPY_ENTRY,
TARIFF_COPY_COMPLETION, DENY_ADD and DENY_REMOVE. -/

namespace Sys2Proof.Machine

/-! ### Tables by number (R25, R26) -/

/-- The capacity of a table of a bank; 0 for a number that names no table of a bank (R25). -/
def tableCapacity (table : Nat) : Nat :=
  if table = 1 then 64 else if table = 2 then 16 else if table = 3 then 18 else if table = 4 then 16
  else if table = 5 then 1 else 0

/-- The length of a table of a bank (R26). -/
def Bank.tableLength (b : Bank) (table : Nat) : Nat :=
  if table = 1 then b.stations.length else if table = 2 then b.fareBands.length
  else if table = 3 then b.timeBands.length else if table = 4 then b.classes.length
  else if table = 5 then b.constants.length else 0

/-- Entries written whole at consecutive indexes from `index`, gap entries `gap` below them first, and the length raised
(R26, R33). -/
def BankTable.write {α : Type} (t : BankTable α) (gap : α) (index : Nat) (es : List α) : BankTable α where
  entries := t.entries.take (min t.length index) ++ List.replicate (index - t.length) gap ++ es ++
    t.entries.drop (index + es.length)
  length := max t.length (index + es.length)

/-- `count` entries carried in `bytes` written into a table of a bank from `index` (R33, R160). -/
def Bank.write (b : Bank) (table index count : Nat) (bytes : List Byte) : Bank :=
  if table = 1 then { b with stations := b.stations.write {} index (readEntries 5 readStation count bytes) }
  else if table = 2 then { b with fareBands := b.fareBands.write {} index (readEntries 4 readFareBand count bytes) }
  else if table = 3 then { b with timeBands := b.timeBands.write {} index (readEntries 5 readTimeBand count bytes) }
  else if table = 4 then { b with classes := b.classes.write {} index (readEntries 6 readClass count bytes) }
  else if table = 5 then { b with constants := b.constants.write {} index (readEntries 9 readConstants count bytes) }
  else b

/-- At most `count` entries of a table from `index` upward, below its length (R34). -/
def BankTable.read {α : Type} (t : BankTable α) (index count : Nat) : List α :=
  ((t.entries.take t.length).drop index).take count

/-- The entries TABLE_READ returns from a table of a bank (R34). -/
def Bank.read (b : Bank) (table index count : Nat) : List ReadEntry :=
  if table = 1 then (b.stations.read index count).map .station
  else if table = 2 then (b.fareBands.read index count).map .fareBand
  else if table = 3 then (b.timeBands.read index count).map .timeBand
  else if table = 4 then (b.classes.read index count).map .cls
  else if table = 5 then (b.constants.read index count).map .constants
  else []

/-! ### The tariff check (R36) -/

/-- The index, counted from `i`, of the first entry that `bad` holds for. -/
def firstBad {α : Type} (bad : α → Bool) : Nat → List α → Option Nat
  | _, [] => none
  | i, e :: rest => if bad e then some i else firstBad bad (i + 1) rest

/-- STATION_RANGE. -/
def StationEntry.outOfRange (e : StationEntry) : Bool := e.inUse && decide (e.chainage > 250000)

/-- CHAINAGE_REPEATED: the first index in use whose chainage an entry in use below it has; `seen` are theirs. -/
def firstRepeated : List Nat → Nat → List StationEntry → Option Nat
  | _, _, [] => none
  | seen, i, e :: rest =>
    if e.inUse then
      if seen.contains e.chainage then some i else firstRepeated (e.chainage :: seen) (i + 1) rest
    else firstRepeated seen (i + 1) rest

/-- BAND_RANGE. -/
def FareBandEntry.outOfRange (e : FareBandEntry) : Bool :=
  decide (e.upperLimit > 0) && (decide (e.upperLimit > 7500) || decide (e.rate > 9999))

/-- LIMITS_NOT_RISING: the first entry in use whose upper limit is at or below `last`, that of the entry in use before
it (0 before the first). -/
def firstNotRising : Nat → Nat → List FareBandEntry → Option Nat
  | _, _, [] => none
  | last, i, e :: rest =>
    if e.upperLimit > 0 then
      if e.upperLimit ≤ last then some i else firstNotRising e.upperLimit (i + 1) rest
    else firstNotRising last (i + 1) rest

/-- TIME_BAND_RANGE. -/
def TimeBandEntry.outOfRange (e : TimeBandEntry) : Bool :=
  e.inUse && (decide (e.startMinute > 1439) || decide (e.percent < 50) || decide (e.percent > 300))

/-- STARTS_NOT_RISING: within a day type's six entries, the first entry in use whose start minute is at or below that of
the entry in use before it. -/
def firstStartNotRising : Option Nat → Nat → List TimeBandEntry → Option Nat
  | _, _, [] => none
  | last, i, e :: rest =>
    let before := if i % 6 = 0 then none else last
    if e.inUse then
      if (before.map fun m => decide (e.startMinute ≤ m)).getD false then some i
      else firstStartNotRising (some e.startMinute) (i + 1) rest
    else firstStartNotRising before (i + 1) rest

/-- Whether a day type has an entry in use with start minute 0. -/
def hasMinuteZero (b : Bank) (dayType : Nat) : Bool :=
  ((b.timeBands.entries.drop (dayType * 6)).take 6).any fun e => e.inUse && decide (e.startMinute = 0)

/-- NO_MINUTE_ZERO. -/
def firstWithoutMinuteZero (b : Bank) : Option Nat :=
  if !hasMinuteZero b 0 then some 0 else if !hasMinuteZero b 1 then some 6
  else if !hasMinuteZero b 2 then some 12 else none

/-- CLASS_RANGE. -/
def ClassEntry.outOfRange (e : ClassEntry) : Bool :=
  e.inUse && (decide (e.payable > 100) || !(e.step == 1 || e.step == 5 || e.step == 10) ||
    decide (e.dailyCap > 65535))

/-- CONSTANT_RANGE. -/
def ConstantsEntry.outOfRange (c : ConstantsEntry) : Bool :=
  decide (c.boardingCharge > 999999) || decide (c.fareCeiling < 100) || decide (c.fareCeiling > 65535) ||
    decide (c.sameStationFee > 65535) || decide (c.minimumDistance > 100) || decide (c.sameStationGrace > 60)

/-- A check that reports index 0 when it fails. -/
def failsAtZero (fails : Bool) : Option Nat := if fails then some 0 else none

/-- The constants entry the check reads (R31). -/
def Bank.constantsEntry (b : Bank) : ConstantsEntry := b.constants.entries.getD 0 {}

/-- The checks of a bank in the order of R36: table, check number, and the index at which the check fails. -/
def Bank.checks (b : Bank) : List (Nat × Nat × Option Nat) :=
  [(1, 1, firstBad StationEntry.outOfRange 0 b.stations.entries),
    (1, 2, failsAtZero (decide ((b.stations.entries.filter (·.inUse)).length < 2))),
    (1, 3, firstRepeated [] 0 b.stations.entries),
    (2, 4, firstBad FareBandEntry.outOfRange 0 b.fareBands.entries),
    (2, 5, failsAtZero (!b.fareBands.entries.any fun e => decide (e.upperLimit > 0))),
    (2, 6, firstNotRising 0 0 b.fareBands.entries),
    (3, 7, firstBad TimeBandEntry.outOfRange 0 b.timeBands.entries),
    (3, 8, firstStartNotRising none 0 b.timeBands.entries),
    (3, 9, firstWithoutMinuteZero b),
    (4, 10, firstBad ClassEntry.outOfRange 0 b.classes.entries),
    (4, 11, failsAtZero (!(b.classes.entries.getD 0 {}).inUse)),
    (5, 12, failsAtZero (decide (b.constants.length = 0))),
    (5, 13, failsAtZero b.constantsEntry.outOfRange),
    (5, 14, failsAtZero (decide (b.constantsEntry.sameStationFee > b.constantsEntry.fareCeiling)))]

/-- The tariff check of a bank: its first failure, none when it passes (R36). -/
def Bank.firstFailure (b : Bank) : Option CheckFailure :=
  b.checks.findSome? fun c => c.2.2.map fun i => ⟨c.1, i, c.2.1⟩

/-! ### Answers (R32 to R42, R160) -/

/-- A request acts only while no request is in hand (R155, R162; log 3: DESIGN CHOICE). -/
def State.whenFree (s : State) (act : State → State) : State := if s.hand.isSome then s else act s

/-- A request that fails the form check is answered BAD_ARGUMENT, with the kind as carried and no data (R162). -/
def State.answerMalformed (s : State) (src kind : Nat) : State := s.respond ⟨src, kind, .badArgument, .malformed⟩

/-- The length of the cursor's table in a bank, or the token count for table 8 (R160). -/
def State.cursorLength (s : State) (b : Bank) : Nat :=
  if s.tariff.cursorTable = 8 then s.deny.length else b.tableLength s.tariff.cursorTable

/-- The report of a response to a cursor, check, commit or copy request: the store as it stands, with the length given
and nothing counted, withdrawn or failed (R160). -/
def State.tariffReport (s : State) (length : Nat) : TariffReport where
  cursorTable := s.tariff.cursorTable
  cursorIndex := s.tariff.cursorIndex
  length := length
  valid := s.tariff.valid
  pendingSwap := s.tariff.pendingSwap
  withdrawn := false
  live := s.tariff.live
  count := 0
  failure := none
  entries := []

/-- The report with the staging length of the cursor's table (R160). -/
def State.stagingReport (s : State) : TariffReport := s.tariffReport (s.cursorLength s.tariff.staging)

/-- A response of result `r` with a tariff report. -/
def tariffResponse (src kind : Nat) (r : Result) (report : TariffReport) : Response := ⟨src, kind, r, .tariff report⟩

/-- The store with another cursor. -/
def TariffStore.seek (t : TariffStore) (table index : Nat) : TariffStore :=
  { t with cursorTable := table, cursorIndex := index }

/-- The store with the staging validity mark and pending swap as given. -/
def TariffStore.marks (t : TariffStore) (valid pendingSwap : Bool) : TariffStore :=
  { t with valid := valid, pendingSwap := pendingSwap }

/-! ### TABLE_SEEK (R32) -/

/-- The number of places of a table a seek may name: its capacity, 4,096 for table 8, 0 for a number that names no table
(R32). -/
def seekCapacity (table : Nat) : Nat := if table = 8 then Config.denyCapacity else tableCapacity table

/-- TABLE_SEEK (R32, R43): an index at the capacity is BAD_ARGUMENT also where the length or the token count has come to it
and the first line of R32 would take it as DONE: for table 8, index 4,096 with 4,096 tokens on the list, as in the worked
case of table 5 (log 40: DEDUCED). Every response gives the length of the table that the cursor names after the request,
in staging, or the token count (R160): the table sought when the seek is accepted, the table it stood on when it is refused
(log 16: DEDUCED). -/
def State.tableSeek (s : State) (src table index : Nat) : State :=
  if s.copy.isSome then s.respond (tariffResponse src 0x10 .busy s.stagingReport)
  else if index ≥ seekCapacity table then s.respond (tariffResponse src 0x10 .badArgument s.stagingReport)
  else
    let s' := { s with tariff := s.tariff.seek table index }
    s'.respond (tariffResponse src 0x10 (if index ≤ s'.stagingReport.length then .done else .beyondEnd) s'.stagingReport)

/-- TABLE_SEEK as a command (log 3). -/
def execTableSeek (src table index : Nat) (s : State) : Host.Outcome State Fault Refusal :=
  .next (s.whenFree fun s => s.tableSeek src table index)

/-! ### TABLE_WRITE (R33, R40) -/

/-- Whether the length of the entries of a TABLE_WRITE fits its count; any length does when the count is 0 or above 8 or
the cursor is on table 8 (R160). -/
def State.writeFormed (s : State) (count : Nat) (entries : List Byte) : Bool :=
  count == 0 || decide (count > 8) || s.tariff.cursorTable == 8 ||
    entries.length == count * entrySize s.tariff.cursorTable

/-- Whether a TABLE_WRITE is refused BAD_ARGUMENT (R33). -/
def State.writeRefused (s : State) (count : Nat) : Bool :=
  count == 0 || decide (count > 8) || s.tariff.cursorTable == 8 ||
    decide (s.tariff.cursorIndex + count > tableCapacity s.tariff.cursorTable)

/-- The store after an accepted TABLE_WRITE (R33, R40). -/
def TariffStore.written (t : TariffStore) (count : Nat) (entries : List Byte) : TariffStore :=
  ((t.setStaging (t.staging.write t.cursorTable t.cursorIndex count entries)).seek t.cursorTable
    (t.cursorIndex + count)).marks false false

/-- TABLE_WRITE (R33, R40, R43; log 15: DEDUCED). -/
def State.tableWrite (s : State) (src count : Nat) (entries : List Byte) : State :=
  if s.writeFormed count entries = false then s.answerMalformed src 0x11
  else if s.copy.isSome then s.respond (tariffResponse src 0x11 .busy s.stagingReport)
  else if s.writeRefused count then s.respond (tariffResponse src 0x11 .badArgument s.stagingReport)
  else
    let s' := { s with tariff := s.tariff.written count entries }
    s'.respond (tariffResponse src 0x11 .done
      { s'.stagingReport with withdrawn := s.tariff.pendingSwap, count := count })

/-- TABLE_WRITE as a command (log 3). -/
def execTableWrite (src count : Nat) (entries : List Byte) (s : State) : Host.Outcome State Fault Refusal :=
  .next (s.whenFree fun s => s.tableWrite src count entries)

/-! ### TABLE_READ (R34, R35) -/

/-- The bank that a bank byte chooses: staging for 0 or none, live for 1, none for any other byte (R34, R160). -/
def TariffStore.chosen (t : TariffStore) : Option Nat → Option Bank
  | none => some t.staging
  | some 0 => some t.staging
  | some 1 => some t.liveBank
  | some _ => none

/-- What a read of good arguments returns from a bank, or from the deny list when the cursor is on table 8
(R34, R35). -/
def State.readFrom (s : State) (b : Bank) (count : Nat) : List ReadEntry :=
  if s.tariff.cursorTable = 8 then ((s.deny.drop s.tariff.cursorIndex).take count).map .token
  else b.read s.tariff.cursorTable s.tariff.cursorIndex count

/-- Whether a read is of the staging bank (R34, R35, R43). -/
def State.readsStaging (s : State) (bank : Option Nat) : Bool :=
  decide (s.tariff.cursorTable ≠ 8) && bank.getD 0 == 0

/-- TABLE_READ (R34, R35, R43, R160; log 15, log 17: DEDUCED). -/
def State.tableRead (s : State) (src count : Nat) (bank : Option Nat) : State :=
  match s.tariff.chosen bank with
  | none =>
    s.respond (tariffResponse src 0x12 .badArgument
      (s.tariffReport (if s.tariff.cursorTable = 8 then s.deny.length else 0)))
  | some b =>
    if s.copy.isSome && s.readsStaging bank then
      s.respond (tariffResponse src 0x12 .busy (s.tariffReport (s.cursorLength b)))
    else if count = 0 ∨ count > 8 then
      s.respond (tariffResponse src 0x12 .badArgument (s.tariffReport (s.cursorLength b)))
    else
      let es := s.readFrom b count
      let s' := { s with tariff := s.tariff.seek s.tariff.cursorTable (s.tariff.cursorIndex + es.length) }
      s'.respond (tariffResponse src 0x12 .done
        { s'.tariffReport (s.cursorLength b) with count := es.length, entries := es })

/-- TABLE_READ as a command (log 3). -/
def execTableRead (src count : Nat) (bank : Option Nat) (s : State) : Host.Outcome State Fault Refusal :=
  .next (s.whenFree fun s => s.tableRead src count bank)

/-! ### TARIFF_CHECK and TARIFF_COMMIT (R37 to R39) -/

/-- TARIFF_CHECK (R37, R43). -/
def State.tariffCheck (s : State) (src : Nat) : State :=
  if s.copy.isSome then s.respond (tariffResponse src 0x13 .busy s.stagingReport)
  else
    match s.tariff.staging.firstFailure with
    | some f =>
      let s' := { s with tariff := s.tariff.marks false s.tariff.pendingSwap }
      s'.respond (tariffResponse src 0x13 .tableInvalid { s'.stagingReport with failure := some f })
    | none =>
      let s' := { s with tariff := s.tariff.marks true s.tariff.pendingSwap }
      s'.respond (tariffResponse src 0x13 .done s'.stagingReport)

/-- TARIFF_CHECK as a command (log 3). -/
def execTariffCheck (src : Nat) (s : State) : Host.Outcome State Fault Refusal :=
  .next (s.whenFree fun s => s.tariffCheck src)

/-- The store after a passing commit: the roles swapped in MAINTENANCE, pending swap set in SERVICE (R38, R39). -/
def TariffStore.committed (t : TariffStore) : Mode → TariffStore
  | .maintenance => t.swapRoles
  | .service => t.marks true true

/-- TARIFF_COMMIT (R38, R39, R43). -/
def State.tariffCommit (s : State) (src : Nat) : State :=
  if s.copy.isSome then s.respond (tariffResponse src 0x14 .busy s.stagingReport)
  else
    match s.tariff.staging.firstFailure with
    | some f =>
      let s' := { s with tariff := s.tariff.marks false false }
      s'.respond (tariffResponse src 0x14 .tableInvalid { s'.stagingReport with failure := some f })
    | none =>
      let s' := { s with tariff := s.tariff.committed s.mode }
      s'.respond (tariffResponse src 0x14 .done s'.stagingReport)

/-- TARIFF_COMMIT as a command (log 3). -/
def execTariffCommit (src : Nat) (s : State) : Host.Outcome State Fault Refusal :=
  .next (s.whenFree fun s => s.tariffCommit src)

/-! ### TARIFF_COPY (R42, R43, R164) -/

/-- TARIFF_COPY: with no copy in progress one starts, and the request is finished with no response (R42, R164). -/
def State.tariffCopy (s : State) (src : Nat) : State :=
  if s.copy.isSome then s.respond (tariffResponse src 0x15 .busy s.stagingReport)
  else
    { s with
      tariff := s.tariff.marks false false
      copy := some { src := src, withdrawn := s.tariff.pendingSwap, table := 1, index := 0, response := none } }

/-- TARIFF_COPY as a command (log 3). -/
def execTariffCopy (src : Nat) (s : State) : Host.Outcome State Fault Refusal :=
  .next (s.whenFree fun s => s.tariffCopy src)

/-- One entry of a table copied; with the last one the length becomes the live length, and the entries at and above it
are `blank` (R42, R43). Only the places below the live length take a step; those at and above it are made blank within the
step of the last live entry, so that no WARM reset falls among them (log 25: DESIGN CHOICE). They are blank also where the
live bank holds entries in use at or above its length, as R26 has it and not as a copy of every entry would (log 47:
DESIGN CHOICE). -/
def BankTable.copyEntry {α : Type} (staging live : BankTable α) (blank : α) (index : Nat) : BankTable α :=
  let copied := if index < live.length then staging.entries.set index (live.entries.getD index blank)
    else staging.entries
  if index + 1 < live.length then ⟨copied, staging.length⟩
  else ⟨copied.take live.length ++ List.replicate (copied.length - live.length) blank, live.length⟩

/-- One entry copied into the staging bank (R42). -/
def Bank.copyEntry (staging live : Bank) (table index : Nat) : Bank :=
  if table = 1 then { staging with stations := staging.stations.copyEntry live.stations {} index }
  else if table = 2 then { staging with fareBands := staging.fareBands.copyEntry live.fareBands {} index }
  else if table = 3 then { staging with timeBands := staging.timeBands.copyEntry live.timeBands {} index }
  else if table = 4 then { staging with classes := staging.classes.copyEntry live.classes {} index }
  else if table = 5 then { staging with constants := staging.constants.copyEntry live.constants {} index }
  else staging

/-- A copy gone on to its next place, the live table of its place having `length` entries: the next index, or the next
table. -/
def CopyOperation.advance (c : CopyOperation) (length : Nat) : CopyOperation :=
  if c.index + 1 < length then { c with index := c.index + 1 } else { c with table := c.table + 1, index := 0 }

/-- Whether a copy still has a table to copy. -/
def CopyOperation.running (c : CopyOperation) : Bool := c.table < 6

/-- COPY_ENTRY (R42): a copy in progress copies its next entry (log 2: DESIGN CHOICE, log 25). -/
def execCopyEntry (s : State) : Host.Outcome State Fault Refusal :=
  match s.copy with
  | some c =>
    if c.running then
      .next { s with
        tariff := s.tariff.setStaging (s.tariff.staging.copyEntry s.tariff.liveBank c.table c.index)
        copy := some (c.advance (s.tariff.liveBank.tableLength c.table)) }
    else .next s
  | none => .next s

/-- The store once the copy has been checked (R42). -/
def TariffStore.copied (t : TariffStore) : TariffStore :=
  match t.staging.firstFailure with
  | some _ => t
  | none => t.marks true t.pendingSwap

/-- The result of a finished copy (R42). -/
def TariffStore.copyResult (t : TariffStore) : Result :=
  match t.staging.firstFailure with
  | some _ => .tableInvalid
  | none => .done

/-- The completion response of a copy, formed from the store as it stands after the check (R42, R160). -/
def State.copyResponse (s : State) (c : CopyOperation) : Response :=
  tariffResponse c.src 0x15 s.tariff.copyResult
    { s.stagingReport with withdrawn := c.withdrawn, failure := s.tariff.staging.firstFailure }

/-- TARIFF_COPY_COMPLETION (R42, R164): with every table copied, staging is checked and the response is formed; it joins
the response queue, or is held while that has no room (log 2). -/
def execTariffCopyCompletion (s : State) : Host.Outcome State Fault Refusal :=
  match s.copy with
  | some c =>
    if c.running = false ∧ c.response = none then
      let s' := { s with tariff := s.tariff.copied }
      let r := s'.copyResponse c
      if s.responseRoom then .next { s' with responses := s'.responses ++ [r], copy := none }
      else .next { s' with copy := some { c with response := some r } }
    else .next s
  | none => .next s

/-! ### The deny list (R44, R45) -/

/-- A token put at its place in an ascending list; a token already there is left as it is (R44). -/
def insertToken (t : Token) : List Token → List Token
  | [] => [t]
  | u :: rest => if t.toNat < u.toNat then t :: u :: rest else if t = u then u :: rest else u :: insertToken t rest

/-- A deny list edit so far: the list, how many tokens it has changed, and whether one found no room. -/
structure DenyEdit where
  list : List Token
  changed : Nat
  full : Bool
  deriving DecidableEq, Repr

/-- DENY_ADD takes one token (R44). -/
def DenyEdit.add (e : DenyEdit) (t : Token) : DenyEdit :=
  if e.list.contains t then e
  else if e.list.length < Config.denyCapacity then ⟨insertToken t e.list, e.changed + 1, e.full⟩
  else { e with full := true }

/-- DENY_REMOVE takes one token (R45). -/
def DenyEdit.remove (e : DenyEdit) (t : Token) : DenyEdit :=
  if e.list.contains t then ⟨e.list.erase t, e.changed + 1, e.full⟩ else e

/-- The form and count checks of a deny list edit, and its effect when they pass (R44, R45, R160). The response to a count
of 0 or above 8 gives 0 tokens edited and the tokens that the list holds (log 44: DESIGN CHOICE). -/
def State.denyEdit (s : State) (src kind count : Nat) (tokens : List Token) (act : State → State) : State :=
  if count = 0 ∨ count > 8 then s.respond ⟨src, kind, .badArgument, .deny 0 s.deny.length⟩
  else if tokens.length ≠ count then s.answerMalformed src kind
  else act s

/-- DENY_ADD (R44). -/
def State.denyAdd (s : State) (src count : Nat) (tokens : List Token) : State :=
  s.denyEdit src 0x18 count tokens fun s =>
    let e := tokens.foldl DenyEdit.add ⟨s.deny, 0, false⟩
    { s with deny := e.list }.respond
      ⟨src, 0x18, if e.full then .listFull else .done, .deny e.changed e.list.length⟩

/-- DENY_ADD as a command (log 3). -/
def execDenyAdd (src count : Nat) (tokens : List Token) (s : State) : Host.Outcome State Fault Refusal :=
  .next (s.whenFree fun s => s.denyAdd src count tokens)

/-- DENY_REMOVE (R45). -/
def State.denyRemove (s : State) (src count : Nat) (tokens : List Token) : State :=
  s.denyEdit src 0x19 count tokens fun s =>
    let e := tokens.foldl DenyEdit.remove ⟨s.deny, 0, false⟩
    { s with deny := e.list }.respond
      ⟨src, 0x19, if e.changed = 0 then .notFound else .done, .deny e.changed e.list.length⟩

/-- DENY_REMOVE as a command (log 3). -/
def execDenyRemove (src count : Nat) (tokens : List Token) (s : State) : Host.Outcome State Fault Refusal :=
  .next (s.whenFree fun s => s.denyRemove src count tokens)

end Sys2Proof.Machine
end

