-- ==== Sys2Proof/Machine/Reset.lean ====
section
/-! DEFINITION. Resets (spec/10 R177 and the reset rule of each block): POWER_ON, FULL_RESET, WARM_RESET and
ENGINE_RESET. -/

namespace Sys2Proof.Machine

/-- A port after a reset: cleared, having ended a frame in transmission with ABORT and sent one RESUME (R150, R161;
log 12: DESIGN CHOICE). -/
def PortState.afterReset (ps : PortState) : PortState :=
  PortState.cleared (ps.sent ++ (if ps.holding.isSome then [abortCharacter] else []) ++ [resumeCharacter])

/-- The part after a FULL reset, before its response is placed (R177). -/
def State.fullReset (s : State) : State :=
  { State.reset with pending := s.pending, line := s.line.afterReset, office := s.office.afterReset }

/-- The part after a WARM reset, before its response is placed: the tariff, the deny list, the settings, the written
marks and the clock's day, type and time are kept (R177, R47, R135, R165). The staging validity mark is kept as it stands
also when a copy has set it and its completion response still waits for room, and is ended by the reset (R43, R47, R164;
log 48: DESIGN CHOICE). -/
def State.warmReset (s : State) : State :=
  { s.fullReset with
    tariff := s.tariff
    deny := s.deny
    settings := s.settings
    written := s.written
    clock := { s.clock with doubt := true } }

/-- A response of ENGINE_RESET (R164, R160). -/
def resetResponse (src : Nat) (r : Result) (kind journeys orphans : Nat) : Response :=
  ⟨src, 0x41, r, .engineReset kind journeys orphans⟩

/-- POWER_ON (R177): the part is as after power-on; the commands that wait are the model's
(log 1: DESIGN CHOICE, log 23: DESIGN CHOICE). A frame in the holding frame is lost with no ABORT, and what each port has
sent begins anew with its RESUME (R150; log 49: DESIGN CHOICE). -/
def execPowerOn (s : State) : Host.Outcome State Fault Refusal := .next { State.reset with pending := s.pending }

/-- ENGINE_RESET naming FULL: the reset, then its one response in the empty queue (R164, R177). -/
def State.takeFullReset (s : State) (src : Nat) : State :=
  { s.fullReset with responses := [resetResponse src .done 2 0 0] }

/-- FULL_RESET as a command (log 3: DESIGN CHOICE). -/
def execFullReset (src : Nat) (s : State) : Host.Outcome State Fault Refusal :=
  .next (s.whenFree fun s => s.takeFullReset src)

/-- ENGINE_RESET naming WARM: the reset, then its one response, with the counts of discarded journeys and orphans as they
stood when the reset was taken (R73, R164, R177). -/
def State.takeWarmReset (s : State) (src : Nat) : State :=
  { s.warmReset with responses := [resetResponse src .done 1 s.table.counts.cores s.table.counts.orphans] }

/-- WARM_RESET as a command (log 3). -/
def execWarmReset (src : Nat) (s : State) : Host.Outcome State Fault Refusal :=
  .next (s.whenFree fun s => s.takeWarmReset src)

/-- ENGINE_RESET by its reset kind byte; the refusal of one that names neither kind carries no reset kind and no counts,
sent as zero (R160, R164). -/
def State.engineReset (s : State) (src kind : Nat) : State :=
  if kind = 1 then s.takeWarmReset src
  else if kind = 2 then s.takeFullReset src
  else s.respond (resetResponse src .badArgument 0 0 0)

/-- ENGINE_RESET as a command: one whose reset kind names neither WARM nor FULL is answered BAD_ARGUMENT (R164;
log 3). -/
def execEngineReset (src kind : Nat) (s : State) : Host.Outcome State Fault Refusal :=
  .next (s.whenFree fun s => s.engineReset src kind)

end Sys2Proof.Machine
end

