-- ==== Sys2Proof/Machine/Management.lean ====
section
/-! DEFINITION. The Management Unit (spec/09, spec/10, spec/07 sections 7.6): settings, modes, the day change, the
journey query, the pool audit's start, status, completions and the joining of responses; and the taking of a request
from its frame (R162). -/

namespace Sys2Proof.Machine

/-! ### Settings (R165 to R167) -/

/-- The group byte of a SETTING_WRITE (R160). -/
def groupOf : SettingValues → Nat
  | .link _ _ => 1
  | .timing _ _ _ _ => 2
  | .journey _ _ _ _ _ => 3
  | .other g => g

/-- The values a group holds (R167); a group byte that names no group has none. -/
def Settings.held (x : Settings) (group : Nat) : SettingValues :=
  if group = 1 then .link x.link.nodeAddress x.link.pauseLimit
  else if group = 2 then .timing x.timing.sweepPeriod x.timing.beaconLimit x.timing.verdictLife x.timing.futureTolerance
  else if group = 3 then
    .journey x.journey.maxDuration x.journey.passbackWindow x.journey.breakWindow x.journey.orphanHold
      x.journey.shortageLevel
  else .other group

/-- The written mark of a group. -/
def WrittenMarks.mark (w : WrittenMarks) (group : Nat) : Bool :=
  if group = 1 then w.link else if group = 2 then w.timing else if group = 3 then w.journey else false

/-- Whether a value lies in a range, both ends included. -/
def within (least greatest n : Nat) : Bool := least ≤ n && n ≤ greatest

/-- The place, counted from `i`, of the first value out of range; 0 for none. -/
def firstOutside : Nat → List Bool → Nat
  | _, [] => 0
  | i, ok :: rest => if ok then firstOutside (i + 1) rest else i

/-- Which values of a group lie in their ranges, in the order of section 9.2. -/
def inRanges : SettingValues → List Bool
  | .link n p => [within 65 126 n, within 1 60 p]
  | .timing s b v f => [within 10 600 s, within 5 120 b, within 1 50 v, within 0 600 f]
  | .journey m p b o l => [within 30 480 m, within 0 600 p, within 0 90 b, within 1 120 o, within 16 1024 l]
  | .other _ => []

/-- The first setting out of range, by its place in the group counted from 1; 0 for none (R166). -/
def namedSetting (v : SettingValues) : Nat := firstOutside 1 (inRanges v)

/-- The settings with a group written (R166). -/
def Settings.write (x : Settings) : SettingValues → Settings
  | .link n p => { x with link := ⟨n, p⟩ }
  | .timing s b v f => { x with timing := ⟨s, b, v, f⟩ }
  | .journey m p b o l => { x with journey := ⟨m, p, b, o, l⟩ }
  | .other _ => x

/-- The written marks after a group is written (R165). -/
def WrittenMarks.write (w : WrittenMarks) : SettingValues → WrittenMarks
  | .link _ _ => { w with link := true }
  | .timing _ _ _ _ => { w with timing := true }
  | .journey _ _ _ _ _ => { w with journey := true }
  | .other _ => w

/-- A response to a settings request about a group (R160). -/
def State.settingResponse (s : State) (src kind : Nat) (r : Result) (group named : Nat) : Response :=
  ⟨src, kind, r, .setting group (s.written.mark group) named (s.settings.held group)⟩

/-- Whether a group byte names one of the three groups. -/
def namesGroup (group : Nat) : Bool := group == 1 || group == 2 || group == 3

/-- SETTING_WRITE (R166). -/
def State.settingWrite (s : State) (src : Nat) (v : SettingValues) : State :=
  if namesGroup (groupOf v) = false then s.respond (s.settingResponse src 0x01 .badArgument (groupOf v) 0)
  else if s.mode = .service then s.respond (s.settingResponse src 0x01 .badState (groupOf v) 0)
  else if namedSetting v ≠ 0 then s.respond (s.settingResponse src 0x01 .badArgument (groupOf v) (namedSetting v))
  else
    let s' := { s with settings := s.settings.write v, written := s.written.write v }
    s'.respond (s'.settingResponse src 0x01 .done (groupOf v) 0)

/-- SETTING_WRITE as a command (log 3: DESIGN CHOICE). -/
def execSettingWrite (src : Nat) (v : SettingValues) (s : State) : Host.Outcome State Fault Refusal :=
  .next (s.whenFree fun s => s.settingWrite src v)

/-- SETTING_READ (R167). -/
def State.settingRead (s : State) (src group : Nat) : State :=
  s.respond (s.settingResponse src 0x02 (if namesGroup group then .done else .badArgument) group 0)

/-- SETTING_READ as a command (log 3). -/
def execSettingRead (src group : Nat) (s : State) : Host.Outcome State Fault Refusal :=
  .next (s.whenFree fun s => s.settingRead src group)

/-! ### SERVICE_START and SERVICE_STOP (R147, R175, R176) -/

/-- The response to a refused SERVICE_START (R175; log 17: DEDUCED). -/
def startRefused (src : Nat) (r : Result) (item : StartItem) (failure : Option CheckFailure) : Response :=
  ⟨src, 0x20, r, .serviceStart ⟨item, failure, 0, .workday, .bankA⟩⟩

/-- The judgement of SERVICE_START, by the table of R175: the refusal that its first line gives, none when accepted. -/
def State.judgeStart (s : State) (src : Nat) : Option Response :=
  if s.mode = .service then some (startRefused src .badState .alreadyInService none)
  else if s.auditOp.isSome then some (startRefused src .busy .none none)
  else if s.written.link = false then some (startRefused src .badState .linkNotWritten none)
  else if s.written.timing = false then some (startRefused src .badState .timingNotWritten none)
  else if s.written.journey = false then some (startRefused src .badState .journeyNotWritten none)
  else
    match s.tariff.liveBank.firstFailure with
    | some f => some (startRefused src .badState .liveTariff (some f))
    | none => if s.clock.day = none then some (startRefused src .badState .dayUnset none) else none

/-- The part in SERVICE, the sweep timer and the watchdog started with their full periods (R147, R175). -/
def State.started (s : State) : State :=
  { s with
    mode := .service
    sweep := { s.sweep with timer := some s.sweepPeriod }
    watchdog := some s.beaconLimit }

/-- SERVICE_START (R175). -/
def State.serviceStart (s : State) (src : Nat) : State :=
  match s.judgeStart src with
  | some r => s.respond r
  | none =>
    s.started.respond ⟨src, 0x20, .done, .serviceStart ⟨.none, none, s.today, s.clock.dayType, s.tariff.live⟩⟩

/-- SERVICE_START as a command (log 3). -/
def execServiceStart (src : Nat) (s : State) : Host.Outcome State Fault Refusal :=
  .next (s.whenFree fun s => s.serviceStart src)

/-- The part stopped: MAINTENANCE, the timers stopped, an age or forced pass ended, pending expiry clear and no forced age
(R147, R176). -/
def State.stopped (s : State) : State :=
  let s' := s.endPass
  { s' with
    mode := .maintenance
    watchdog := none
    sweep := { s'.sweep with timer := none, pendingExpiry := false, forcedAge := none } }

/-- SERVICE_STOP (R176). -/
def State.serviceStop (s : State) (src : Nat) : State :=
  match s.mode with
  | .maintenance => s.respond ⟨src, 0x21, .done, .serviceStop .maintenance⟩
  | .service => s.stopped.respond ⟨src, 0x21, .done, .serviceStop .service⟩

/-- SERVICE_STOP as a command (log 3). -/
def execServiceStop (src : Nat) (s : State) : Host.Outcome State Fault Refusal :=
  .next (s.whenFree fun s => s.serviceStop src)

/-! ### DAY_CHANGE (R143, R144, R146) -/

/-- The day type that a day type byte names (R160). -/
def dayTypeOf (n : Nat) : Option DayType :=
  if n = 0 then some .workday else if n = 1 then some .saturday else if n = 2 then some .sundayHoliday else none

/-- Whether a DAY_CHANGE or a POOL_AUDIT is in progress, its response not yet in the queue (R143, R68, R164). -/
def State.walkBusy (s : State) : Bool := s.dayOp.isSome || s.auditOp.isSome

/-- The judgement of a DAY_CHANGE: its refusal, or the day type of an accepted one (R143). -/
def State.judgeDay (s : State) (day dayType : Nat) : Result ⊕ DayType :=
  match dayTypeOf dayType with
  | none => .inl .badArgument
  | some t =>
    if day = 0 ∨ day > 65535 then .inl .badArgument
    else if s.walkBusy then .inl .busy
    else if s.clock.day = some day then .inl .badArgument
    else .inr t

/-- The banks after the first effect of a DAY_CHANGE (R41, R144). -/
def TariffStore.dayChange (t : TariffStore) : TariffStore := if t.pendingSwap then t.swapRoles else t

/-- The effects of an accepted DAY_CHANGE, in the order of R144 (log 30: DEDUCED). The bank its response will name as live
is the one live after these effects, whatever a TARIFF_COMMIT does before the response is formed (R146; log 36: DESIGN
CHOICE). -/
def State.openDay (s : State) (src day : Nat) (dayType : DayType) : State :=
  let tariff := s.tariff.dayChange
  let s' := { s with
    tariff := tariff
    cap := s.cap.afterDayChange s.clock.day day
    clock := { day := some day, dayType := dayType, time := 0, doubt := true }
    watchdog := none }.endPass
  { s' with
    sweep := { s'.sweep with walk := some (.day 0), pendingExpiry := true, dayCounts := {} }
    dayOp := some
      { src := src, day := day, dayType := dayType, swapped := s.tariff.pendingSwap, live := tariff.live
        ended := false, response := none } }

/-- DAY_CHANGE (R143, R144): refused at once, or accepted and finished as a request with no response (R164). -/
def State.dayChange (s : State) (src day dayType : Nat) : State :=
  match s.judgeDay day dayType with
  | .inl r => s.respond ⟨src, 0x22, r, .dayChange none⟩
  | .inr t => s.openDay src day t

/-- DAY_CHANGE as a command (log 3). -/
def execDayChange (src day dayType : Nat) (s : State) : Host.Outcome State Fault Refusal :=
  .next (s.whenFree fun s => s.dayChange src day dayType)

/-- The completion response of a DAY_CHANGE (R146). -/
def State.dayResponse (s : State) (d : DayOperation) : Response :=
  ⟨d.src, 0x22, .done, .dayChange (some ⟨d.day, d.dayType, d.swapped, d.live, s.sweep.dayCounts⟩)⟩

/-- DAY_CHANGE_COMPLETION (R146, R164): the day-change walk has ended and the response is formed; it joins the response
queue, or is held while that has no room (log 2: DESIGN CHOICE). -/
def execDayChangeCompletion (s : State) : Host.Outcome State Fault Refusal :=
  match s.dayOp with
  | some d =>
    if d.ended = true ∧ d.response = none then
      if s.responseRoom then .next { s with responses := s.responses ++ [s.dayResponse d], dayOp := none }
      else .next { s with dayOp := some { d with response := some (s.dayResponse d) } }
    else .next s
  | none => .next s

/-! ### JOURNEY_QUERY (R64, R127, R171) -/

/-- The journey part of a query answer, from a lookup and the reads that go with what it returns (R64, R171). -/
def State.queryJourney (s : State) (token : Token) : JourneyPart × State :=
  match s.lookup token with
  | (some ⟨_, n, .core c⟩, s') =>
    let es := readExtensions c.extensions s'
    (.core n c (es.1.map (·.2)), es.2)
  | (some ⟨_, n, .orphan o⟩, s') =>
    let w := s'.walkOrder (some n)
    (.orphan n o w.1, w.2.2)
  | (_, s') => (.none, s')

/-- The result of a query: NOT_FOUND when the lookup returned none (R171). -/
def JourneyPart.result : JourneyPart → Result
  | .none => .notFound
  | .core _ _ _ => .done
  | .orphan _ _ _ => .done

/-- JOURNEY_QUERY (R171). -/
def State.journeyQuery (s : State) (src : Nat) (token : Token) : State :=
  let q := s.queryJourney token
  q.2.respond ⟨src, 0x30, q.1.result, .query q.1 (s.accountPart token)⟩

/-- JOURNEY_QUERY as a command: not taken within a card operation (R62; log 3). -/
def execJourneyQuery (src : Nat) (token : Token) (s : State) : Host.Outcome State Fault Refusal :=
  .next (s.whenFree fun s => if s.tableFree then s.journeyQuery src token else s)

/-! ### POOL_AUDIT (R68, R72) -/

/-- The part with an audit started at bucket 0, every audit mark clear (R68, R69). -/
def State.startAudit (s : State) (src : Nat) : State :=
  { s with
    table := { s.table with marks := [] }
    sweep := { s.sweep with walk := some (.audit (.chains 0 none)), auditCounts := {} }
    auditOp := some { src := src, ended := none, response := none } }

/-- POOL_AUDIT (R68): refused at once, or accepted and finished as a request with no response (R164). In SERVICE with a
day change in progress it is refused BAD_STATE, the mode being judged first (log 35: DESIGN CHOICE). -/
def State.poolAudit (s : State) (src : Nat) : State :=
  if s.mode = .service then s.respond ⟨src, 0x31, .badState, .poolAudit none⟩
  else if s.walkBusy then s.respond ⟨src, 0x31, .busy, .poolAudit none⟩
  else s.startAudit src

/-- POOL_AUDIT as a command (log 3). -/
def execPoolAudit (src : Nat) (s : State) : Host.Outcome State Fault Refusal :=
  .next (s.whenFree fun s => s.poolAudit src)

/-- The completion response of an audit that ended with a quarantined count (R72). -/
def State.auditResponse (s : State) (src quarantined : Nat) : Response :=
  ⟨src, 0x31, .done, .poolAudit (some ⟨s.sweep.auditCounts, quarantined⟩)⟩

/-- POOL_AUDIT_COMPLETION (R72, R164): the audit has ended and the response is formed; it joins the response queue, or is
held while that has no room (log 2). -/
def execPoolAuditCompletion (s : State) : Host.Outcome State Fault Refusal :=
  match s.auditOp with
  | some ⟨src, some quarantined, none⟩ =>
    let r := s.auditResponse src quarantined
    if s.responseRoom then .next { s with responses := s.responses ++ [r], auditOp := none }
    else .next { s with auditOp := some ⟨src, some quarantined, some r⟩ }
  | _ => .next s

/-! ### STATUS_READ (R170) -/

/-- What STATUS_READ reports (R170). -/
def State.status (s : State) : StatusReport where
  mode := s.mode
  clock := s.clock
  counts := s.table.counts
  pendingSwap := s.tariff.pendingSwap
  written := s.written
  counters := s.counters
  fault := s.fault

/-- STATUS_READ: every value is taken into the response, then the fault record and, when asked, the counters are cleared
(R169, R170). -/
def State.statusRead (s : State) (src : Nat) (clear : Bool) : State :=
  { s with counters := if clear then {} else s.counters, fault := none }.respond
    ⟨src, 0x40, .done, .status s.status⟩

/-- STATUS_READ as a command (log 3). -/
def execStatusRead (src : Nat) (clear : Bool) (s : State) : Host.Outcome State Fault Refusal :=
  .next (s.whenFree fun s => s.statusRead src clear)

/-! ### Waiting responses (R163, R164) -/

/-- The response that a waiter holds, formed and without a place. -/
def State.waitingResponse (s : State) : Waiter → Option Response
  | .requestInHand => s.hand
  | .tariffCopy => s.copy.bind CopyOperation.response
  | .dayChange => s.dayOp.bind DayOperation.response
  | .poolAudit => s.auditOp.bind AuditOperation.response

/-- The state with a waiter's request or operation finished. -/
def State.finishWaiter (s : State) : Waiter → State
  | .requestInHand => { s with hand := none }
  | .tariffCopy => { s with copy := none }
  | .dayChange => { s with dayOp := none }
  | .poolAudit => { s with auditOp := none }

/-- RESPONSE_QUEUE_JOIN (R163, R164): with room in the response queue, the response that the waiter holds joins its tail,
and its request or operation is finished (log 2, log 24: DESIGN CHOICE). -/
def execResponseQueueJoin (w : Waiter) (s : State) : Host.Outcome State Fault Refusal :=
  match s.waitingResponse w with
  | some r => if s.responseRoom then .next { s.finishWaiter w with responses := s.responses ++ [r] } else .next s
  | none => .next s

/-! ### Requests from their frames (R155, R162) -/

/-- The Management Unit takes a request from node `src` (R162). -/
def State.takeRequest (s : State) (src : Nat) : Request → State
  | .settingWrite v => s.settingWrite src v
  | .settingRead g => s.settingRead src g
  | .tableSeek t i => s.tableSeek src t i
  | .tableWrite c es => s.tableWrite src c es
  | .tableRead c b => s.tableRead src c b
  | .tariffCheck => s.tariffCheck src
  | .tariffCommit => s.tariffCommit src
  | .tariffCopy => s.tariffCopy src
  | .denyAdd c ts => s.denyAdd src c ts
  | .denyRemove c ts => s.denyRemove src c ts
  | .serviceStart => s.serviceStart src
  | .serviceStop => s.serviceStop src
  | .dayChange d t => s.dayChange src d t
  | .journeyQuery t => s.journeyQuery src t
  | .poolAudit => s.poolAudit src
  | .statusRead c => s.statusRead src c
  | .engineReset k => s.engineReset src k
  | .malformed k => s.answerMalformed src k

/-- The kind with which a request payload fails the form check, if it does (R162, R160). -/
def State.malformedKind (s : State) (payload : List Byte) : Option Nat :=
  match readRequest payload with
  | .malformed k => some k
  | .tableWrite c es => if s.writeFormed c es then none else some 0x11
  | _ => none

/-- MALFORMED_REQUEST as a command (R162): a payload that fails the form check is answered BAD_ARGUMENT; one of good form
is another command's, and nothing changes (log 2, log 3). -/
def execMalformedRequest (src : Nat) (payload : List Byte) (s : State) : Host.Outcome State Fault Refusal :=
  .next (s.whenFree fun s =>
    match s.malformedKind payload with
    | some k => s.answerMalformed src k
    | none => s)

end Sys2Proof.Machine
end

