-- ==== Sys2Proof/Machine/Links.lean ====
section
/-! DEFINITION. The link ports and the Frame Switch (spec/08): reception, flow marks, routing, delivery and egress. -/

namespace Sys2Proof.Machine

/-! ### Flow marks (R156) -/

/-- After the number of places held has risen: at 48 with the pause-sent mark clear, PAUSE is sent (R156). -/
def PortState.markRise (ps : PortState) : PortState :=
  if ps.places = Config.pauseLevel ∧ ps.pauseSent = false then
    { ps with pauseSent := true, sent := ps.sent ++ [pauseCharacter] }
  else ps

/-- After the number of places held has fallen: at 16 with the pause-sent mark set, RESUME is sent (R156). -/
def PortState.markFall (ps : PortState) : PortState :=
  if ps.places = Config.resumeLevel ∧ ps.pauseSent = true then
    { ps with pauseSent := false, sent := ps.sent ++ [resumeCharacter] }
  else ps

/-! ### Reception (R149, R151, R152) -/

/-- A stored frame ends: its status entry joins the frame status queue, or is held behind those that wait (R152). -/
def PortState.complete (ps : PortState) (f : StoredFrame) : PortState :=
  if ps.queue.length < Config.statusQueueCapacity ∧ ps.held = [] then
    { ps with rx := .outside true, queue := ps.queue ++ [f] }
  else { ps with rx := .outside true, held := ps.held ++ [f] }

/-- A line error at a port (R149). -/
def State.lineErrorAt (s : State) (p : Port) : State := { s with counters := s.counters.lineError p }

/-- A frame begins at a port that is outside a frame: it takes a place, or is not stored and counted bad (R152). -/
def State.beginFrame (s : State) (p : Port) : State :=
  let ps := s.port p
  if ps.places < Config.receivePlaces then s.setPort p ({ ps with rx := .inside [] 0 } : PortState).markRise
  else { s.setPort p { ps with rx := .unstored } with counters := s.counters.badFrame p }

/-- A frame cut short by a START or an ABORT: a stored one is completed as ABORTED (R149, R151). -/
def PortState.cutShort (ps : PortState) : PortState :=
  match ps.rx with
  | .outside _ => ps
  | .inside bytes _ => ps.complete ⟨bytes, .aborted⟩
  | .unstored => { ps with rx := .outside true }

/-- FRAME_START (R149, R152). -/
def execFrameStart (p : Port) (s : State) : Host.Outcome State Fault Refusal :=
  .next ((s.setPort p (s.port p).cutShort).beginFrame p)

/-- DATA_BYTE (R151): added to the frame in hand up to 246 bytes; outside a frame a line error, uncounted before the
first START (R149; log 27: DESIGN CHOICE). -/
def execDataByte (p : Port) (b : Byte) (s : State) : Host.Outcome State Fault Refusal :=
  match (s.port p).rx with
  | .inside bytes n =>
    .next (s.setPort p { s.port p with
      rx := .inside (if n < Config.storedBytes then bytes ++ [b] else bytes) (n + 1) })
  | .outside synced => .next (if synced then s.lineErrorAt p else s)
  | .unstored => .next s

/-- FRAME_END (R151, R152): the frame in hand is judged and completed; outside a frame a line error, uncounted before
the first START (R149; log 27). -/
def execFrameEnd (p : Port) (s : State) : Host.Outcome State Fault Refusal :=
  match (s.port p).rx with
  | .inside bytes n => .next (s.setPort p ((s.port p).complete ⟨bytes, judgeFrame bytes n⟩))
  | .outside synced => .next (if synced then s.lineErrorAt p else s)
  | .unstored => .next (s.setPort p { s.port p with rx := .outside true })

/-- ABORT (R149): the frame in hand ends as ABORTED; outside a frame a line error (log 27). -/
def execAbort (p : Port) (s : State) : Host.Outcome State Fault Refusal :=
  match (s.port p).rx with
  | .outside _ => .next (s.lineErrorAt p)
  | _ => .next (s.setPort p (s.port p).cutShort)

/-- Whether a character is out of place in a receive state (R149). -/
def Receive.outOfPlace (rx : Receive) (ch : Character) : Bool :=
  if ch.msb = false ∨ ch = endCharacter then
    match rx with
    | .outside synced => synced
    | _ => false
  else if ch = abortCharacter then
    match rx with
    | .outside _ => true
    | _ => false
  else !(ch == fillCharacter || ch == startCharacter || ch == pauseCharacter || ch == resumeCharacter)

/-- LINE_ERROR (R149): a character out of place is passed over and counted; one in place is another command's, and nothing
changes (log 2: DESIGN CHOICE, log 27). -/
def execLineError (p : Port) (ch : Character) (s : State) : Host.Outcome State Fault Refusal :=
  .next (if (s.port p).rx.outOfPlace ch then s.lineErrorAt p else s)

/-- STATUS_ENTRY_JOIN (R152): with room in the frame status queue, the first held entry joins it (log 2). -/
def execStatusEntryJoin (p : Port) (s : State) : Host.Outcome State Fault Refusal :=
  let ps := s.port p
  match ps.held with
  | f :: rest =>
    if ps.queue.length < Config.statusQueueCapacity then
      .next (s.setPort p { ps with queue := ps.queue ++ [f], held := rest })
    else .next s
  | [] => .next s

/-! ### Pause episodes (R157) -/

/-- PAUSE (R157). -/
def execPause (p : Port) (s : State) : Host.Outcome State Fault Refusal :=
  let ps := s.port p
  if ps.partnerPaused then .next s
  else .next (s.setPort p { ps with partnerPaused := true, pauseTimer := some s.pauseLimit })

/-- RESUME (R157). -/
def execResume (p : Port) (s : State) : Host.Outcome State Fault Refusal :=
  let ps := s.port p
  if ps.partnerPaused then .next (s.setPort p { ps with partnerPaused := false, pauseTimer := none }) else .next s

/-- PAUSE_LIMIT_EXPIRY (R157): the timer, run out, stops, and the notice is raised; an expiry that is not due changes
nothing (log 2, log 6: DESIGN CHOICE). -/
def execPauseLimitExpiry (p : Port) (s : State) : Host.Outcome State Fault Refusal :=
  let ps := s.port p
  if ps.pauseTimer = some 0 then
    .next ((s.setPort p { ps with pauseTimer := none }).raise (.partnerStalled p))
  else .next s

/-! ### Routing (R153, R154) -/

/-- To whom a frame is addressed (R154). -/
inductive Addressee where
  | engine
  | broadcast
  | another
  deriving DecidableEq, Repr

/-- The addressee of a destination, against the engine's node address (R154). -/
def addressee (node destination : Nat) : Addressee :=
  if destination = node then .engine else if destination = 0 then .broadcast else .another

/-- The block that takes a class at a port (R154). -/
def blockFor (p : Port) (cls : Byte) : Option Destination :=
  match p with
  | .line => if cls = classTap then some .tapQueue else none
  | .office => if cls = classRequest then some .management else if cls = classBeacon then some .clock else none

/-- Whether a class is one the engine sends; a broadcast of one is plain transit (R154). -/
def sentClass (cls : Byte) : Bool :=
  cls == classVerdict || cls == classJourney || cls == classResponse || cls == classNotice

/-- Whether the table of R154 names a class. -/
def namedClass (cls : Byte) : Bool := cls == classTap || cls == classRequest || cls == classBeacon || sentClass cls

/-- The deliveries a good frame calls for, and whether it is misplaced (R154). -/
def route (p : Port) (cls : Byte) (a : Addressee) : List Destination × Bool :=
  if namedClass cls then
    match a with
    | .another => ([.transit], false)
    | .engine => ((blockFor p cls).toList, (blockFor p cls).isNone)
    | .broadcast => ((blockFor p cls).toList ++ [.transit], (blockFor p cls).isNone && !sentClass cls)
  else ([.transit], false)

/-- The payload length a block asks of a frame (R154); none for any length. -/
def lengthFor : Destination → Option Nat
  | .tapQueue => some 17
  | .clock => some 5
  | .management => none
  | .transit => none

/-- Whether a delivery goes ahead: the payload length is the one its block asks for (R154). -/
def StoredFrame.fits (f : StoredFrame) (d : Destination) : Bool :=
  match lengthFor d with
  | none => true
  | some n => f.payloadLength == n

/-- What the counters say of a delivery that does not go ahead: a malformed tap, or a bad frame of the port (R154). -/
def Counters.countUnfit (c : Counters) (p : Port) : Destination → Counters
  | .tapQueue => { c with malformedTaps := raised c.malformedTaps }
  | _ => c.badFrame p

/-- The counters after a good frame is routed (R154). -/
def Counters.countRouting (c : Counters) (p : Port) (f : StoredFrame) (r : List Destination × Bool) : Counters :=
  (r.1.filter fun d => !f.fits d).foldl (fun c d => c.countUnfit p d) (if r.2 then c.misplaced p else c)

/-- The head frame of a port is routed: its deliveries wait to be taken (R153, R154). -/
def State.routeHead (s : State) (p : Port) (f : StoredFrame) : State :=
  let r := route p f.cls (addressee s.settings.link.nodeAddress f.destination)
  { s.setPort p { s.port p with routed := some (r.1.filter f.fits) } with
    counters := s.counters.countRouting p f r }

/-! ### Delivery (R155) -/

/-- Whether a frame carries a JOURNEY_QUERY. -/
def StoredFrame.isQuery (f : StoredFrame) : Bool :=
  match readRequest f.payload with
  | .journeyQuery _ => true
  | _ => false

/-- Whether a destination has room for a frame of port `p`: the Management Unit with no request in hand, and for a
JOURNEY_QUERY with no card operation in progress (R62, R155, R163). A JOURNEY_QUERY that comes while a tap is in HANDLING
waits as a delivery without room, its frame at the head of the status queue with every frame behind it (R153; log 43:
DESIGN CHOICE). -/
def State.hasRoom (s : State) (p : Port) (f : StoredFrame) : Destination → Bool
  | .tapQueue => s.taps.length < Config.tapQueueCapacity
  | .management => s.hand.isNone && (s.tableFree || !f.isQuery)
  | .clock => true
  | .transit => (s.transit p).length < Config.transitCapacity

/-- A destination takes a frame of port `p` (R155). -/
def State.deliver (s : State) (p : Port) (f : StoredFrame) : Destination → State
  | .tapQueue => { s with taps := s.taps ++ [⟨readTap f.payload, s.clock.time⟩] }
  | .management => s.takeRequest f.source (readRequest f.payload)
  | .clock => s.takeBeacon (readBeacon f.payload).1 (readBeacon f.payload).2
  | .transit => s.pushTransit p f.frame

/-- One waiting delivery of the head frame is made; it is not made again (R155). -/
def State.makeDelivery (s : State) (p : Port) (f : StoredFrame) (d : Destination) : State :=
  (s.setPort p { s.port p with routed := (s.port p).routed.map fun ds => ds.erase d }).deliver p f d

/-- A delivery is made if it still waits and its destination has room (R155). -/
def State.tryDelivery (s : State) (p : Port) (f : StoredFrame) (d : Destination) : State :=
  if ((s.port p).routed.getD []).contains d && s.hasRoom p f d then s.makeDelivery p f d else s

/-- The head entry and its frame leave the port: the place is freed (R153, R156). -/
def PortState.dropHead (ps : PortState) : PortState :=
  ({ ps with queue := ps.queue.tail, routed := none } : PortState).markFall

/-- The head frame leaves when every delivery its routing called for has been taken (R153). -/
def State.finishRouting (s : State) (p : Port) : State :=
  if (s.port p).routed = some [] then s.setPort p (s.port p).dropHead else s

/-- SWITCH_ENTRY (R153 to R155): the head entry of a port's frame status queue is taken; a bad one is removed and counted,
a good one is routed and delivered where there is room (log 2, log 18: DESIGN CHOICE). -/
def execSwitchEntry (p : Port) (s : State) : Host.Outcome State Fault Refusal :=
  match (s.port p).queue, (s.port p).routed with
  | f :: _, none =>
    if f.outcome = .good then
      .next ((([.tapQueue, .management, .clock, .transit] : List Destination).foldl
        (fun s d => s.tryDelivery p f d) (s.routeHead p f)).finishRouting p)
    else .next { s.setPort p (s.port p).dropHead with counters := s.counters.badFrame p }
  | _, _ => .next s

/-- FRAME_DELIVERY (R155): a waiting delivery of the head frame is taken once its destination has room (log 2,
log 18). -/
def execFrameDelivery (p : Port) (d : Destination) (s : State) : Host.Outcome State Fault Refusal :=
  match (s.port p).queue, (s.port p).routed with
  | f :: _, some _ => .next ((s.tryDelivery p f d).finishRouting p)
  | _, _ => .next s

/-! ### Egress (R158, R159) -/

/-- The sources of the two arbiters (R158). -/
inductive Source where
  | response
  | notice
  | record
  | upTransit
  | verdict
  | downTransit
  deriving DecidableEq, Repr

/-- The sources of a port, highest priority first (R158). -/
def sourcesOf : Port → List Source
  | .office => [.response, .notice, .record, .upTransit]
  | .line => [.verdict, .downTransit]

/-- Whether a source holds at least one item (R158). -/
def State.ready (s : State) : Source → Bool
  | .response => !s.responses.isEmpty
  | .notice => !s.notices.isEmpty
  | .record => !s.records.isEmpty
  | .upTransit => !s.upTransit.isEmpty
  | .verdict => !s.verdicts.isEmpty
  | .downTransit => !s.downTransit.isEmpty

/-- The passed-over count of a source. -/
def PassedOver.count (c : PassedOver) : Source → Nat
  | .response => c.response
  | .notice => c.notice
  | .record => c.record
  | .upTransit => c.upTransit
  | .verdict => c.verdict
  | .downTransit => c.downTransit

/-- The passed-over count of a source set to `n`. -/
def PassedOver.set (c : PassedOver) (n : Nat) : Source → PassedOver
  | .response => { c with response := n }
  | .notice => { c with notice := n }
  | .record => { c with record := n }
  | .upTransit => { c with upTransit := n }
  | .verdict => { c with verdict := n }
  | .downTransit => { c with downTransit := n }

/-- The source a port's arbiter grants: the highest-priority ready one that stands at 8 or more, else the
highest-priority ready one (R158). -/
def State.granted (s : State) (p : Port) : Option Source :=
  let ready := (sourcesOf p).filter s.ready
  (ready.find? fun x => s.passed.count x ≥ Config.passedOverLimit).or ready.head?

/-- The passed-over counts of a port after a grant: the granted source's is 0, that of every other ready source one more
(R158). -/
def State.passedAfter (s : State) (p : Port) (granted : Source) : PassedOver :=
  (sourcesOf p).foldl
    (fun c x => if x = granted then c.set 0 x else if s.ready x then c.set (s.passed.count x + 1) x else c) s.passed

/-- A frame the engine forms, with its node address as it stands for the source (R159). -/
def State.form (s : State) (destination : Nat) (cls : Byte) (payload : List Byte) : Frame :=
  ⟨BitVec.ofNat 8 destination, BitVec.ofNat 8 s.settings.link.nodeAddress, cls, payload⟩

/-- The oldest record leaves its queue; leaving 192 or fewer clears the stall mark (R76, R159). -/
def State.dropRecord (s : State) : State :=
  { s with records := s.records.tail, stall := s.stall && decide (s.records.tail.length > Config.stallClearLevel) }

/-- A grant removes one item from its source and forms its frame; none when the source holds nothing (R159, R173). -/
def State.takeFrom (s : State) : Source → Option (Frame × State)
  | .response => s.responses.head?.map fun r =>
    (s.form r.destination classResponse r.payload, { s with responses := s.responses.tail })
  | .notice => s.notices.head?.map fun n =>
    (s.form Config.officeNode classNotice n.payload, { s with notices := s.notices.tail })
  | .record => s.records.head?.map fun r =>
    (s.form Config.officeNode classJourney r.payload, s.dropRecord)
  | .upTransit => s.upTransit.head?.map fun f => (f, { s with upTransit := s.upTransit.tail })
  | .verdict => s.verdicts.head?.map fun v =>
    (s.form v.station classVerdict v.payload,
      { s with
        verdicts := s.verdicts.tail
        counters := { s.counters with verdictsSent := raised s.counters.verdictsSent } })
  | .downTransit => s.downTransit.head?.map fun f => (f, { s with downTransit := s.downTransit.tail })

/-- A port's holding frame filled, no character of it sent yet. -/
def State.hold (s : State) (p : Port) (f : Frame) : State :=
  s.setPort p { s.port p with holding := some f, position := 0 }

/-- EGRESS_GRANT (R158, R159): with the holding frame empty and the partner-paused mark clear, a ready source is granted
(log 2). -/
def execEgressGrant (p : Port) (s : State) : Host.Outcome State Fault Refusal :=
  if (s.port p).holding.isSome || (s.port p).partnerPaused then .next s
  else
    match (s.granted p).bind fun x => (s.takeFrom x).map fun r => (x, r) with
    | some (x, f, s') => .next ({ s' with passed := s.passedAfter p x }.hold p f)
    | none => .next s

/-- The frame in the holding frame is sent to its END: the characters left of it go out, and the holding frame is empty
again (R150, R158). -/
def PortState.sendToEnd (ps : PortState) (f : Frame) : PortState :=
  { ps with holding := none, position := 0, sent := ps.sent ++ f.characters.drop ps.position }

/-- END_SENT (R158): the frame in the holding frame has been sent to its END, and the holding frame is empty (log 2,
log 12: DESIGN CHOICE). -/
def execEndSent (p : Port) (s : State) : Host.Outcome State Fault Refusal :=
  match (s.port p).holding with
  | some f => .next (s.setPort p ((s.port p).sendToEnd f))
  | none => .next s

/-! ### The stream of characters (R150) -/

/-- A port sends its next character: the next of the frame in transmission, whose END empties the holding frame, or FILL
when there is none. A flow mark, sent when it is called for, lies between two of these (R150, R156; log 12). -/
def PortState.sendCharacter (ps : PortState) : PortState :=
  match ps.holding with
  | none => { ps with sent := ps.sent ++ [fillCharacter] }
  | some f =>
    match f.characters.drop ps.position with
    | c :: _ :: _ => { ps with position := ps.position + 1, sent := ps.sent ++ [c] }
    | _ => ps.sendToEnd f

/-- Each port sends its next character (R150; log 1: DESIGN CHOICE). -/
def State.sendCharacters (s : State) : State :=
  { s with line := s.line.sendCharacter, office := s.office.sendCharacter }

end Sys2Proof.Machine
end

