-- ==== Sys2Proof/Machine/Dispatch.lean ====
section
/-! DEFINITION. The dispatch: one arm per command, each a direct call of its meaning. -/

namespace Sys2Proof.Machine

def exec (i : Instr) (s : State) : Host.Outcome State Fault Refusal :=
  match i with
  | .powerOn => Sys2Proof.Machine.execPowerOn s
  | .fullReset src => Sys2Proof.Machine.execFullReset src s
  | .warmReset src => Sys2Proof.Machine.execWarmReset src s
  | .settingWrite src values => Sys2Proof.Machine.execSettingWrite src values s
  | .settingRead src group => Sys2Proof.Machine.execSettingRead src group s
  | .tableSeek src table index => Sys2Proof.Machine.execTableSeek src table index s
  | .tableWrite src count entries => Sys2Proof.Machine.execTableWrite src count entries s
  | .tableRead src count bank => Sys2Proof.Machine.execTableRead src count bank s
  | .tariffCheck src => Sys2Proof.Machine.execTariffCheck src s
  | .tariffCommit src => Sys2Proof.Machine.execTariffCommit src s
  | .tariffCopy src => Sys2Proof.Machine.execTariffCopy src s
  | .tariffCopyCompletion => Sys2Proof.Machine.execTariffCopyCompletion s
  | .denyAdd src count tokens => Sys2Proof.Machine.execDenyAdd src count tokens s
  | .denyRemove src count tokens => Sys2Proof.Machine.execDenyRemove src count tokens s
  | .serviceStart src => Sys2Proof.Machine.execServiceStart src s
  | .serviceStop src => Sys2Proof.Machine.execServiceStop src s
  | .dayChange src day dayType => Sys2Proof.Machine.execDayChange src day dayType s
  | .journeyQuery src token => Sys2Proof.Machine.execJourneyQuery src token s
  | .poolAudit src => Sys2Proof.Machine.execPoolAudit src s
  | .auditChainWalk slots => Sys2Proof.Machine.execAuditChainWalk s slots
  | .auditSlotExamination => Sys2Proof.Machine.execAuditSlotExamination s
  | .auditSlotTest passes => Sys2Proof.Machine.execAuditSlotTest passes s
  | .auditOrderRebuild steps => Sys2Proof.Machine.execAuditOrderRebuild s steps
  | .poolAuditCompletion => Sys2Proof.Machine.execPoolAuditCompletion s
  | .statusRead src clear => Sys2Proof.Machine.execStatusRead src clear s
  | .responseQueueJoin waiter => Sys2Proof.Machine.execResponseQueueJoin waiter s
  | .tapTake steps => Sys2Proof.Machine.execTapTake s steps
  | .recordAppend => Sys2Proof.Machine.execRecordAppend s
  | .sweepTimerExpiry => Sys2Proof.Machine.execSweepTimerExpiry s
  | .agePassExamination => Sys2Proof.Machine.execAgePassExamination s
  | .forcedPassExamination => Sys2Proof.Machine.execForcedPassExamination s
  | .dayChangeWalkExamination => Sys2Proof.Machine.execDayChangeWalkExamination s
  | .dayChangeCompletion => Sys2Proof.Machine.execDayChangeCompletion s
  | .walkRecordAppend => Sys2Proof.Machine.execWalkRecordAppend s
  | .serviceTimeTick disturbed => Sys2Proof.Machine.execServiceTimeTick disturbed s
  | .clockHold => Sys2Proof.Machine.execClockHold s
  | .beacon day time => Sys2Proof.Machine.execBeacon day time s
  | .beaconWatchdogExpiry => Sys2Proof.Machine.execBeaconWatchdogExpiry s
  | .frameStart port => Sys2Proof.Machine.execFrameStart port s
  | .frameEnd port => Sys2Proof.Machine.execFrameEnd port s
  | .abort port => Sys2Proof.Machine.execAbort port s
  | .lineError port char => Sys2Proof.Machine.execLineError port char s
  | .pause port => Sys2Proof.Machine.execPause port s
  | .resume port => Sys2Proof.Machine.execResume port s
  | .pauseLimitExpiry port => Sys2Proof.Machine.execPauseLimitExpiry port s
  | .statusEntryJoin port => Sys2Proof.Machine.execStatusEntryJoin port s
  | .switchEntry port => Sys2Proof.Machine.execSwitchEntry port s
  | .frameDelivery port destination => Sys2Proof.Machine.execFrameDelivery port destination s
  | .egressGrant port => Sys2Proof.Machine.execEgressGrant port s
  | .dataByte port byte => Sys2Proof.Machine.execDataByte port byte s
  | .endSent port => Sys2Proof.Machine.execEndSent port s
  | .copyEntry => Sys2Proof.Machine.execCopyEntry s
  | .malformedRequest src payload => Sys2Proof.Machine.execMalformedRequest src payload s
  | .engineReset src kind => Sys2Proof.Machine.execEngineReset src kind s

end Sys2Proof.Machine
end

