-- ==== Sys2Proof/Safety.lean ====
section
/-! DEFINITION. What a good state of the LF-640 is: the sizes and marks of its queues, the safety of its tariff, the
agreement of its mode, clock, timers and walks, and the form of its stores. Each is a promise of the spec that every
command keeps. -/

namespace Sys2Proof.Machine

/-- The counters in the order of R168. -/
def Counters.values (c : Counters) : List Nat :=
  [c.tapsTaken, c.malformedTaps, c.tapsRefused, c.verdictsSent, c.staleVerdicts, c.complete, c.incomplete,
    c.unmatchedExit, c.entryCancelled, c.refusal, c.entryUntracked, c.capUntracked, c.badFramesLine,
    c.badFramesOffice, c.misplacedLine, c.misplacedOffice, c.lineErrorsLine, c.lineErrorsOffice]

/-- A port within its sizes, its pause-sent mark as its places call for, and the characters sent of the frame in
transmission short of its END (R150, R151, R152, R156, R158). -/
structure PortState.Bounded (ps : PortState) : Prop where
  queue : ps.queue.length ≤ Config.statusQueueCapacity
  places : ps.places ≤ Config.receivePlaces
  stored : ∀ bytes n, ps.rx = .inside bytes n → bytes.length = min n Config.storedBytes
  unpaused : ps.pauseSent = false → ps.places < Config.pauseLevel
  paused : ps.pauseSent = true → Config.resumeLevel < ps.places
  noFrame : ps.holding = none → ps.position = 0
  inFrame : ∀ f, ps.holding = some f → ps.position < f.characters.length

/-- Every queue within its size, the deny list ascending, one notice per kind, the counters in range, and the stall mark
as the journey record queue calls for (R44, R74, R76, R82, R100, R155, R163, R168, R172). -/
structure State.Bounded (s : State) : Prop where
  taps : s.taps.length ≤ Config.tapQueueCapacity
  verdicts : s.verdicts.length ≤ Config.verdictQueueCapacity
  records : s.records.length ≤ Config.recordQueueCapacity
  responses : s.responses.length ≤ Config.responseQueueCapacity
  upTransit : s.upTransit.length ≤ Config.transitCapacity
  downTransit : s.downTransit.length ≤ Config.transitCapacity
  deny : s.deny.length ≤ Config.denyCapacity
  denyRises : s.deny.Pairwise fun a b => a.toNat < b.toNat
  notices : (s.notices.map fun n => n.detail.kind).Nodup
  noticeCounts : ∀ n ∈ s.notices, 1 ≤ n.count ∧ n.count ≤ Config.noticeCountMax
  counters : ∀ n ∈ s.counters.values, n ≤ Config.counterMax
  unstalled : s.stall = false → s.records.length < Config.stallSetLevel
  stalled : s.stall = true → Config.stallClearLevel < s.records.length
  line : s.line.Bounded
  office : s.office.Bounded

/-- The live bank passes the tariff check throughout SERVICE, pending swap stands only over a staging bank that passes,
and the staging validity mark tells the truth (R37, R39, R40, R41, R174). -/
structure State.TariffSafe (s : State) : Prop where
  live : s.mode = .service → s.tariff.liveBank.firstFailure = none
  pending : s.tariff.pendingSwap = true → s.tariff.staging.firstFailure = none ∧ s.copy = none
  valid : s.tariff.valid = true →
    s.tariff.staging.firstFailure = none ∧ ∀ c, s.copy = some c → c.running = false

/-- Every setting lies in its range (section 9.2). -/
structure Settings.InRange (x : Settings) : Prop where
  nodeAddress : 65 ≤ x.link.nodeAddress ∧ x.link.nodeAddress ≤ 126
  pauseLimit : 1 ≤ x.link.pauseLimit ∧ x.link.pauseLimit ≤ 60
  sweepPeriod : 10 ≤ x.timing.sweepPeriod ∧ x.timing.sweepPeriod ≤ 600
  beaconLimit : 5 ≤ x.timing.beaconLimit ∧ x.timing.beaconLimit ≤ 120
  verdictLife : 1 ≤ x.timing.verdictLife ∧ x.timing.verdictLife ≤ 50
  futureTolerance : x.timing.futureTolerance ≤ 600
  maxDuration : 30 ≤ x.journey.maxDuration ∧ x.journey.maxDuration ≤ 480
  passbackWindow : x.journey.passbackWindow ≤ 600
  breakWindow : x.journey.breakWindow ≤ 90
  orphanHold : 1 ≤ x.journey.orphanHold ∧ x.journey.orphanHold ≤ 120
  shortageLevel : 16 ≤ x.journey.shortageLevel ∧ x.journey.shortageLevel ≤ 1024

/-- Whether a walk is an age pass or a forced pass. -/
def Walk.isPass : Walk → Bool
  | .age _ => true
  | .forced _ _ => true
  | .day _ => false
  | .audit _ => false

/-- Whether a walk is the day-change walk. -/
def Walk.isDay : Walk → Bool
  | .day _ => true
  | _ => false

/-- Whether a walk is the pool audit. -/
def Walk.isAudit : Walk → Bool
  | .audit _ => true
  | _ => false

/-- The clock, the timers, the walk in flight and the operations in progress agree with one another and with the mode
(R68, R130, R140, R141, R143, R146, R147, R164, R174). -/
structure State.Orderly (s : State) : Prop where
  settings : s.settings.InRange
  time : s.clock.time ≤ Config.lastDecisecond
  unset : s.clock.day = none → s.clock.time = 0
  day : ∀ d, s.clock.day = some d → 1 ≤ d ∧ d ≤ 65535
  watchdog : s.mode = .maintenance → s.watchdog = none
  timer : s.mode = .maintenance → s.sweep.timer = none
  noSequence : s.mode = .maintenance → s.sweep.forcedAge = none
  noPass : s.mode = .maintenance → ∀ w, s.sweep.walk = some w → w.isPass = false
  forcedAge : ∀ f, s.sweep.forcedAge = some f → Config.forcedAgeFloor ≤ f ∧ f ≤ 144000
  auditMode : ∀ w, s.sweep.walk = some w → w.isAudit = true → s.mode = .maintenance
  auditWalk : (∃ w, s.sweep.walk = some w ∧ w.isAudit = true) ↔ ∃ a, s.auditOp = some a ∧ a.ended = none
  dayWalk : (∃ w, s.sweep.walk = some w ∧ w.isDay = true) ↔ ∃ d, s.dayOp = some d ∧ d.ended = false
  auditHeld : ∀ a, s.auditOp = some a → a.response.isSome = true → a.ended.isSome = true
  dayHeld : ∀ d, s.dayOp = some d → d.response.isSome = true → d.ended = true

/-- The Journey Unit is free to take a tap, in SERVICE, and the tap at the head of the Tap Queue passes its form check
(R75, R76, R77, R78). -/
structure State.Takes (s : State) (e : TapEntry) (rest : List TapEntry) : Prop where
  unit : s.unit = .idle
  stall : s.stall = false
  mode : s.mode = .service
  taps : s.taps = e :: rest
  formed : e.tap.wellFormed = true

/-! ### Along a chain -/

/-- The next-in-bucket of a record on a bucket's chain; none for an extension, which is on no chain (R54). -/
def Content.inBucket (c : Content) : Option (Option Nat) := c.link.map (·.2)

/-- The next-in-orphan-order of an orphan; none for any other record (R57). -/
def Content.inOrder : Content → Option (Option Nat)
  | .core _ => none
  | .extension _ => none
  | .orphan o => some o.nextOrder

/-- From a link on, the slots listed follow one another, each with an intact record, the one listed; the next-link of the
last of them, or the link itself where none is listed, leads to `stop` (R54, R57). -/
def State.Leads (s : State) (nextOf : Content → Option (Option Nat)) :
    Option Nat → List (Nat × Content) → Option Nat → Prop
  | link, [], stop => link = stop
  | link, x :: rest, stop => link = some x.1 ∧ s.slot x.1 = some (.allocated x.2 true) ∧
    ∃ next, nextOf x.2 = some next ∧ s.Leads nextOf next rest stop

/-- The accounts listed follow one another from a link on, and the last leads to `stop` (R118, R120). -/
def CapTable.Leads (c : CapTable) : Option Nat → List (Nat × Account) → Option Nat → Prop
  | link, [], stop => link = stop
  | link, x :: rest, stop => link = some x.1 ∧ sparseGet c.accounts x.1 = some x.2 ∧ c.Leads x.2.next rest stop

/-! ### The form of the stores -/

/-- How many slots of a kind there are, FREE apart. -/
def State.kindCount (s : State) (k : Kind) : Nat := (s.table.slots.filter fun x => decide (x.2.kind = k)).length

/-- The accounts that a chain visits, from its first to its last (R118). -/
def CapTable.IsChain (c : CapTable) : Option Nat → List Nat → Prop
  | none, [] => True
  | some n, m :: rest => n = m ∧ ∃ a, sparseGet c.accounts n = some a ∧ c.IsChain a.next rest
  | none, _ :: _ => False
  | some _, [] => False

/-- The Cap Table of a day: no account and no bucket mark of a later day, each bucket's chain of the day visiting exactly
the current accounts whose tokens fold to it, once each, and no token with two current accounts (R117 to R121, R128). -/
structure CapTable.Ordered (c : CapTable) (today : Nat) : Prop where
  numbers : ∀ x ∈ c.accounts, x.1 < Config.accountCount
  days : ∀ x ∈ c.accounts, x.2.day ≤ today
  marks : ∀ x ∈ c.buckets, x.2.mark ≤ today
  chains : ∀ b, ∃ ns, c.IsChain (c.currentHead today b) ns ∧ ns.Nodup ∧
    ∀ n, n ∈ ns ↔ ∃ a, sparseGet c.accounts n = some a ∧ a.day = today ∧ accountBucketOf a.token = b
  once : ∀ n m a b, sparseGet c.accounts n = some a → sparseGet c.accounts m = some b → a.day = today → b.day = today →
    a.token = b.token → n = m

/-- The stores indexed by number and the audit marks are in canonical form; the counts are the numbers of slots of each
kind and add up to 12,288; the free list holds exactly the FREE slots, each once; no account has spent above its
recorded cap, and no token has two current accounts (R48, R49, R55, R69, R117, R121, R123; log 21: DESIGN CHOICE). -/
structure State.Stored (s : State) : Prop where
  slots : sparseWf s.table.slots = true
  heads : sparseWf s.table.heads = true
  marks : s.table.marks.Pairwise fun a b => a < b
  accounts : sparseWf s.cap.accounts = true
  buckets : sparseWf s.cap.buckets = true
  hint : s.cap.hint < Config.accountCount
  spent : ∀ x ∈ s.cap.accounts, x.2.spent ≤ x.2.cap
  journeys : ∀ x ∈ s.cap.accounts, x.2.journeys ≤ 255
  numbers : ∀ x ∈ s.table.slots, x.1 < Config.slotCount
  kinds : s.table.counts.quarantined = s.kindCount .quarantined ∧ s.table.counts.cores = s.kindCount .core ∧
    s.table.counts.extensions = s.kindCount .extension ∧ s.table.counts.orphans = s.kindCount .orphan
  sum : s.table.counts.free + s.table.counts.quarantined + s.table.counts.cores + s.table.counts.extensions +
    s.table.counts.orphans = Config.slotCount
  freeOnce : s.table.free.toList.Nodup
  freeSlots : ∀ n, n ∈ s.table.free.toList ↔ n < Config.slotCount ∧ s.slot n = none
  accountsOfDay : s.cap.Ordered s.today

end Sys2Proof.Machine
end

