-- ==== Sys2Proof/Certificates/Slice0/Obligations.lean ====
section
/-! DEFINITION. The statements for the provers, from the numbered rules of spec/. Each docstring names the rules, and the
log entries where a clause rests on a choice of the model. -/

open Sys2Proof Sys2Proof.Machine

/-! ### The step, the resets and the invariants -/

/-- A step takes the command at the front of the queue and runs it with the rest of the queue left; with no command
waiting, each port sends its next character, which is the model's choice (log 1). -/
def Obligations.StepRunsFrontCommand : Prop :=
  (∀ (c : Instr) (rest : List Instr) (s : State),
    step { s with pending := c :: rest } = exec c { s with pending := rest }) ∧
  ∀ s : State, s.pending = [] →
    step s = .next { s with line := s.line.sendCharacter, office := s.office.sendCharacter }

/-- Every command answers a next state in every state: the spec gives each an effect, and none stops the part. Where a
command's occasion is absent nothing changes, which is the model's choice (log 2). -/
def Obligations.EveryCommandAnswersNext : Prop :=
  ∀ (c : Instr) (s : State), ∃ t, exec c s = .next t

/-- POWER_ON leaves every block at the values its reset rule gives (R47, R73, R129, R135, R148, R149, R161, R165, R168,
R174, R177), each port passing over what it receives until the first START and having sent one RESUME (R150). No rule
gives a value to the counts of an audit: that they are 0 is the model's choice (log 28), and so is that the commands
waiting are kept (log 1, log 23), and that a frame in transmission is lost with no ABORT and the list of what each port
has sent begins anew (log 49). -/
def Obligations.PowerOnLeavesResetValues : Prop :=
  ∀ s : State, ∃ t, exec .powerOn s = .next t ∧ t.pending = s.pending ∧
    t.mode = .maintenance ∧ t.clock = ⟨none, .workday, 0, true⟩ ∧ t.watchdog = none ∧
    t.tariff.live = .bankA ∧ t.tariff.pendingSwap = false ∧ t.tariff.valid = false ∧
    t.tariff.cursorTable = 1 ∧ t.tariff.cursorIndex = 0 ∧ t.copy = none ∧ t.deny = [] ∧
    (∀ b table, (t.tariff.bank b).tableLength table = 0) ∧
    (∀ b, ∀ e ∈ (t.tariff.bank b).stations.entries, e = ⟨false, 0, false⟩) ∧
    (∀ b, ∀ e ∈ (t.tariff.bank b).fareBands.entries, e = ⟨0, 0⟩) ∧
    (∀ b, ∀ e ∈ (t.tariff.bank b).timeBands.entries, e = ⟨false, 0, 0⟩) ∧
    (∀ b, ∀ e ∈ (t.tariff.bank b).classes.entries, e = ⟨false, 0, 0, 0⟩) ∧
    (∀ b, ∀ e ∈ (t.tariff.bank b).constants.entries, e = ⟨0, 0, 0, 0, 0⟩) ∧
    (∀ n, t.slot n = none) ∧ (∀ b, t.bucketHead b = none) ∧ t.table.counts = ⟨12288, 0, 0, 0, 0⟩ ∧
    (∀ n, n < 12288 → t.table.free.toList[n]? = some n) ∧ t.table.free.toList.length = 12288 ∧
    t.table.order = ⟨none, none, 0⟩ ∧ t.table.shortage = false ∧ t.table.marks = [] ∧
    t.cap = ⟨[], [], 0⟩ ∧ t.taps = [] ∧ t.unit = .idle ∧ t.stall = false ∧
    t.sweep.walk = none ∧ t.sweep.timer = none ∧ t.sweep.pendingExpiry = false ∧ t.sweep.forcedAge = none ∧
    t.sweep.dayCounts = ⟨0, 0, 0, 0⟩ ∧ t.sweep.auditCounts = ⟨0, 0, 0, 0, 0⟩ ∧ t.sweep.waiting = [] ∧ t.sweep.kept = [] ∧
    t.verdicts = [] ∧ t.records = [] ∧ t.responses = [] ∧ t.notices = [] ∧ t.upTransit = [] ∧ t.downTransit = [] ∧
    t.passed = ⟨0, 0, 0, 0, 0, 0⟩ ∧ t.hand = none ∧ t.dayOp = none ∧ t.auditOp = none ∧
    t.settings = ⟨⟨121, 10⟩, ⟨60, 30, 20, 60⟩, ⟨180, 120, 45, 60, 256⟩⟩ ∧ t.written = ⟨false, false, false⟩ ∧
    (∀ n ∈ t.counters.values, n = 0) ∧ t.fault = none ∧
    (∀ p, (t.port p).rx = .outside false ∧ (t.port p).position = 0 ∧ (t.port p).routed = none ∧
      (t.port p).queue = [] ∧ (t.port p).held = [] ∧ (t.port p).places = 0 ∧ (t.port p).holding = none ∧
      (t.port p).pauseSent = false ∧ (t.port p).partnerPaused = false ∧ (t.port p).pauseTimer = none ∧
      (t.port p).sent = [0x111])

/-- The state after reset meets the four invariants stated below. -/
def Obligations.ResetMeetsEveryInvariant : Prop :=
  State.reset.Bounded ∧ State.reset.TariffSafe ∧ State.reset.Orderly ∧ State.reset.Stored

/-- The three forms of ENGINE_RESET (R164, R177), taken with no request in hand. FULL: the values of power-on; a frame
in transmission ended with ABORT and one RESUME sent at each port (R150; log 12); one response in the empty queue. WARM:
the same but for the tariff, the deny list, the settings, the written marks and the clock's day, type and time, which
are kept, and the counts of journeys and orphans discarded, which the response gives (R47, R73, R135, R165). Any other
kind: BAD_ARGUMENT, its reset kind and counts, which that result does not define, sent as zero, and nothing changes
(R160, R164). That the commands waiting are kept is the model's choice (log 1), and so is that the counts of an audit
are 0 after either reset (log 28), and that a WARM reset keeps the validity mark that a copy has set whose completion
response waits (log 48). -/
def Obligations.EngineResetTakesItsKind : Prop :=
  ∀ (src : Nat) (s : State), s.hand = none →
    (let cleared := fun (ps : PortState) =>
        PortState.cleared (ps.sent ++ (if ps.holding.isSome then [0x11F] else []) ++ [0x111])
     let full := { State.reset with pending := s.pending, line := cleared s.line, office := cleared s.office }
     exec (.fullReset src) s =
       .next { full with responses := [⟨src, 0x41, .done, .engineReset 2 0 0⟩] } ∧
     exec (.warmReset src) s =
       .next { full with
         tariff := s.tariff, deny := s.deny, settings := s.settings, written := s.written
         clock := { s.clock with doubt := true }
         responses :=
           [⟨src, 0x41, .done, .engineReset 1 s.table.counts.cores s.table.counts.orphans⟩] }) ∧
    exec (.engineReset src 1) s = exec (.warmReset src) s ∧
    exec (.engineReset src 2) s = exec (.fullReset src) s ∧
    ∀ kind, kind ≠ 1 → kind ≠ 2 →
      exec (.engineReset src kind) s = .next (s.respond ⟨src, 0x41, .badArgument, .engineReset 0 0 0⟩)

/-- Every queue stays within its size, the deny list ascending, one notice of each kind, the counters in range, the
stall mark and the pause-sent marks as their queues call for (R44, R74, R76, R82, R100, R152, R155, R156, R163, R168,
R172): an invariant of every step. -/
def Obligations.QueuesStayWithinSize : Prop :=
  ∀ s t : State, s.Bounded → step s = .next t → t.Bounded

/-- The live bank passes the tariff check throughout SERVICE, and pending swap stands only over a staging bank that
passes (R37, R40, R41): an invariant of every step. -/
def Obligations.LiveTariffPassesThroughoutService : Prop :=
  ∀ s t : State, s.TariffSafe → step s = .next t → t.TariffSafe

/-- The settings lie in their ranges, the clock within its day, and the timers, the walk in flight and the operations in
progress agree with the mode and with one another (R68, R130, R140, R141, R143, R146, R147, R164, R174): an invariant of
every step. -/
def Obligations.ClockTimersAndWalksAgree : Prop :=
  ∀ s t : State, s.Orderly → step s = .next t → t.Orderly

/-- The stores stay whole. The stores indexed by number and the audit marks keep their canonical form (log 21); the
counts are the numbers of slots of each kind and add up to 12,288 (R48, R49); the free list holds exactly the FREE
slots, each once (R55); the hint names an account and no account has spent above its recorded cap (R117, R121, R123);
each account bucket's chain visits exactly the current accounts that fold to it, once each, and no token has two current
accounts (R118, R120, R121): an invariant of every step. -/
def Obligations.StoresStayCanonical : Prop :=
  ∀ s t : State, s.Stored → step s = .next t → t.Stored

/-- Neither source of the Line Port is passed over without end: the passed-over count of the verdict queue stays at 1 or
less and that of the down-transit buffer at 8 or less (R158): an invariant of every step. -/
def Obligations.LineArbiterStarvesNoSource : Prop :=
  ∀ s t : State,
    (s.passed.verdict ≤ 1 ∧ s.passed.downTransit ≤ 8 ∧ (s.passed.verdict = 1 → s.passed.downTransit = 0)) →
    step s = .next t →
    t.passed.verdict ≤ 1 ∧ t.passed.downTransit ≤ 8 ∧ (t.passed.verdict = 1 → t.passed.downTransit = 0)

/-! ### Requests in general, and the settings -/

/-- A response formed joins the tail of the response queue while it holds fewer than 4, and else is kept in hand (R162,
R163). While a request is in hand no request acts, which is the model's choice for a request command that comes then
(log 3). -/
def Obligations.ResponsesAreQueuedOrHeld : Prop :=
  (∀ (s : State) (r : Response), s.responses.length < 4 → s.respond r = { s with responses := s.responses ++ [r] }) ∧
  (∀ (s : State) (r : Response), 4 ≤ s.responses.length → s.respond r = { s with hand := some r }) ∧
  ∀ (s : State) (src : Nat), s.hand ≠ none →
    exec (.fullReset src) s = .next s ∧ exec (.warmReset src) s = .next s ∧
    (∀ kind, exec (.engineReset src kind) s = .next s) ∧ (∀ v, exec (.settingWrite src v) s = .next s) ∧
    (∀ g, exec (.settingRead src g) s = .next s) ∧ (∀ a i, exec (.tableSeek src a i) s = .next s) ∧
    (∀ n es, exec (.tableWrite src n es) s = .next s) ∧ (∀ n b, exec (.tableRead src n b) s = .next s) ∧
    exec (.tariffCheck src) s = .next s ∧ exec (.tariffCommit src) s = .next s ∧
    exec (.tariffCopy src) s = .next s ∧ (∀ n ts, exec (.denyAdd src n ts) s = .next s) ∧
    (∀ n ts, exec (.denyRemove src n ts) s = .next s) ∧ exec (.serviceStart src) s = .next s ∧
    exec (.serviceStop src) s = .next s ∧ (∀ d y, exec (.dayChange src d y) s = .next s) ∧
    (∀ k, exec (.journeyQuery src k) s = .next s) ∧ exec (.poolAudit src) s = .next s ∧
    (∀ b, exec (.statusRead src b) s = .next s) ∧ ∀ p, exec (.malformedRequest src p) s = .next s

/-- SETTING_WRITE. In MAINTENANCE with every value in its range it writes the group at once, sets its mark and answers
DONE with the values now held. It is refused in the order of R166: a group byte that names no group, then SERVICE, then
the first value out of its range, which the response names; nothing is written (R165, R166, section 9.2). The number 0
for no setting named is R160's; the zeros and values beside it in a refusal are the model's (log 17). -/
def Obligations.SettingWriteStoresOrRefuses : Prop :=
  (∀ (src : Nat) (s : State), s.hand = none → s.mode = .maintenance →
      (∀ n p, 65 ≤ n → n ≤ 126 → 1 ≤ p → p ≤ 60 →
        exec (.settingWrite src (.link n p)) s =
          .next ({ s with
            settings := { s.settings with link := ⟨n, p⟩ }
            written := { s.written with link := true } }.respond
              ⟨src, 0x01, .done, .setting 1 true 0 (.link n p)⟩)) ∧
      (∀ w b v f, 10 ≤ w → w ≤ 600 → 5 ≤ b → b ≤ 120 → 1 ≤ v → v ≤ 50 → f ≤ 600 →
        exec (.settingWrite src (.timing w b v f)) s =
          .next ({ s with
            settings := { s.settings with timing := ⟨w, b, v, f⟩ }
            written := { s.written with timing := true } }.respond
              ⟨src, 0x01, .done, .setting 2 true 0 (.timing w b v f)⟩)) ∧
      ∀ m p b o l, 30 ≤ m → m ≤ 480 → p ≤ 600 → b ≤ 90 → 1 ≤ o → o ≤ 120 → 16 ≤ l → l ≤ 1024 →
        exec (.settingWrite src (.journey m p b o l)) s =
          .next ({ s with
            settings := { s.settings with journey := ⟨m, p, b, o, l⟩ }
            written := { s.written with journey := true } }.respond
              ⟨src, 0x01, .done, .setting 3 true 0 (.journey m p b o l)⟩)) ∧
  (∀ (src : Nat) (s : State), s.hand = none →
      (∀ g, g ≠ 1 → g ≠ 2 → g ≠ 3 →
        ∃ d, exec (.settingWrite src (.other g)) s = .next (s.respond ⟨src, 0x01, .badArgument, d⟩)) ∧
      (s.mode = .service → ∀ v, (∀ g, v ≠ .other g) →
        ∃ d, exec (.settingWrite src v) s = .next (s.respond ⟨src, 0x01, .badState, d⟩)) ∧
      (s.mode = .maintenance →
        (∀ n p, ¬(65 ≤ n ∧ n ≤ 126 ∧ 1 ≤ p ∧ p ≤ 60) → ∃ w h,
          exec (.settingWrite src (.link n p)) s =
            .next (s.respond ⟨src, 0x01, .badArgument, .setting 1 w (if n < 65 ∨ 126 < n then 1 else 2) h⟩)) ∧
        (∀ x b v f, ¬(10 ≤ x ∧ x ≤ 600 ∧ 5 ≤ b ∧ b ≤ 120 ∧ 1 ≤ v ∧ v ≤ 50 ∧ f ≤ 600) → ∃ w h,
          exec (.settingWrite src (.timing x b v f)) s =
            .next (s.respond ⟨src, 0x01, .badArgument, .setting 2 w
              (if x < 10 ∨ 600 < x then 1 else if b < 5 ∨ 120 < b then 2 else if v < 1 ∨ 50 < v then 3 else 4) h⟩)) ∧
        ∀ m p b o l, ¬(30 ≤ m ∧ m ≤ 480 ∧ p ≤ 600 ∧ b ≤ 90 ∧ 1 ≤ o ∧ o ≤ 120 ∧ 16 ≤ l ∧ l ≤ 1024) → ∃ w h,
          exec (.settingWrite src (.journey m p b o l)) s =
            .next (s.respond ⟨src, 0x01, .badArgument, .setting 3 w
              (if m < 30 ∨ 480 < m then 1 else if 600 < p then 2 else if 90 < b then 3
                else if o < 1 ∨ 120 < o then 4 else 5) h⟩)))

/-- SETTING_READ answers DONE with every value of the group as held and its written mark, in either mode, and
BAD_ARGUMENT for a group other than the three; nothing changes but the response (R167). -/
def Obligations.SettingReadReportsTheGroup : Prop :=
  ∀ (src : Nat) (s : State), s.hand = none →
    exec (.settingRead src 1) s =
      .next (s.respond ⟨src, 0x02, .done, .setting 1 s.written.link 0
        (.link s.settings.link.nodeAddress s.settings.link.pauseLimit)⟩) ∧
    exec (.settingRead src 2) s =
      .next (s.respond ⟨src, 0x02, .done, .setting 2 s.written.timing 0
        (.timing s.settings.timing.sweepPeriod s.settings.timing.beaconLimit s.settings.timing.verdictLife
          s.settings.timing.futureTolerance)⟩) ∧
    exec (.settingRead src 3) s =
      .next (s.respond ⟨src, 0x02, .done, .setting 3 s.written.journey 0
        (.journey s.settings.journey.maxDuration s.settings.journey.passbackWindow s.settings.journey.breakWindow
          s.settings.journey.orphanHold s.settings.journey.shortageLevel)⟩) ∧
    ∀ g, g ≠ 1 → g ≠ 2 → g ≠ 3 →
      ∃ d, exec (.settingRead src g) s = .next (s.respond ⟨src, 0x02, .badArgument, d⟩)

/-! ### The Tariff Store and the deny list -/

/-- TABLE_SEEK. With no copy in progress a table and an index below its capacity (4,096 for the deny list) become the
cursor, DONE at or below the length or token count and BEYOND_END above it; an index at or above the capacity, and a
number that names no table, are BAD_ARGUMENT, and with a copy in progress every seek is BUSY; a refusal leaves the
cursor. Every response gives the staging length of the table that the cursor then names, or the token count (R25, R32,
R43, R160); that this is what R32 means by the table named, also in a refusal, is DEDUCED (log 16), and so is that BUSY is
judged before an index out of range and a number that names no table (log 15), and that an index both at the capacity and
at the length or token count, which two lines of R32 take, is BAD_ARGUMENT (log 40). -/
def Obligations.TableSeekMovesTheCursor : Prop :=
  ∀ (src : Nat) (s : State), s.hand = none →
    let tables :=
      [(1, 64, s.tariff.staging.stations.length), (2, 16, s.tariff.staging.fareBands.length),
        (3, 18, s.tariff.staging.timeBands.length), (4, 16, s.tariff.staging.classes.length),
        (5, 1, s.tariff.staging.constants.length), (8, 4096, s.deny.length)]
    let refused := fun (r : Result) (table index : Nat) =>
      ∃ held, (∀ capacity length, (s.tariff.cursorTable, capacity, length) ∈ tables → held = length) ∧
        exec (.tableSeek src table index) s =
          .next (s.respond ⟨src, 0x10, r, .tariff ⟨s.tariff.cursorTable, s.tariff.cursorIndex, held, s.tariff.valid,
            s.tariff.pendingSwap, false, s.tariff.live, 0, none, []⟩⟩)
    (∀ table capacity length index, (table, capacity, length) ∈ tables →
      (s.copy = none → index < capacity →
        exec (.tableSeek src table index) s =
          .next ({ s with tariff := { s.tariff with cursorTable := table, cursorIndex := index } }.respond
            ⟨src, 0x10, if index ≤ length then .done else .beyondEnd,
              .tariff ⟨table, index, length, s.tariff.valid, s.tariff.pendingSwap, false, s.tariff.live, 0, none, []⟩⟩)) ∧
      (s.copy = none → capacity ≤ index → refused .badArgument table index) ∧
      (s.copy ≠ none → refused .busy table index)) ∧
    ∀ table index, table ∉ [1, 2, 3, 4, 5, 8] →
      (s.copy = none → refused .badArgument table index) ∧ (s.copy ≠ none → refused .busy table index)

/-- TABLE_WRITE with no copy in progress and a payload of good form: 1 to 8 entries that fit the table are written into
staging from the cursor, the cursor moves past them, the marks are cleared and DONE tells of a commit withdrawn; the
live bank keeps its contents. A count of 0 or above 8, a write past the capacity and a cursor on table 8 are
BAD_ARGUMENT and change nothing. A table written holds the new entries at their indexes, gap entries between its old
length and the first of them, and every other entry as it was; its length is the greater of the old one and the index
past the last entry written (R26, R33, R40). -/
def Obligations.TableWriteStoresEntriesAndGaps : Prop :=
  (∀ (src count : Nat) (entries : List Byte) (s : State), s.hand = none → s.copy = none →
      (∀ capacity size, (s.tariff.cursorTable, capacity, size) ∈
          [(1, 64, 5), (2, 16, 4), (3, 18, 5), (4, 16, 6), (5, 1, 9)] →
        1 ≤ count → count ≤ 8 → s.tariff.cursorIndex + count ≤ capacity → entries.length = count * size →
        ∃ t, exec (.tableWrite src count entries) s =
            .next ({ s with tariff := t }.respond
              ⟨src, 0x11, .done, .tariff ⟨s.tariff.cursorTable, s.tariff.cursorIndex + count,
                t.staging.tableLength s.tariff.cursorTable, false, false, s.tariff.pendingSwap, s.tariff.live, count, none,
                []⟩⟩) ∧
          t.live = s.tariff.live ∧ t.liveBank = s.tariff.liveBank ∧ t.pendingSwap = false ∧ t.valid = false ∧
          t.cursorTable = s.tariff.cursorTable ∧ t.cursorIndex = s.tariff.cursorIndex + count ∧
          t.staging.stations = (if s.tariff.cursorTable = 1 then
            s.tariff.staging.stations.write ⟨false, 0, false⟩ s.tariff.cursorIndex
              (readEntries 5 readStation count entries) else s.tariff.staging.stations) ∧
          t.staging.fareBands = (if s.tariff.cursorTable = 2 then
            s.tariff.staging.fareBands.write ⟨0, 0⟩ s.tariff.cursorIndex
              (readEntries 4 readFareBand count entries) else s.tariff.staging.fareBands) ∧
          t.staging.timeBands = (if s.tariff.cursorTable = 3 then
            s.tariff.staging.timeBands.write ⟨false, 0, 0⟩ s.tariff.cursorIndex
              (readEntries 5 readTimeBand count entries) else s.tariff.staging.timeBands) ∧
          t.staging.classes = (if s.tariff.cursorTable = 4 then
            s.tariff.staging.classes.write ⟨false, 0, 0, 0⟩ s.tariff.cursorIndex
              (readEntries 6 readClass count entries) else s.tariff.staging.classes) ∧
          t.staging.constants = (if s.tariff.cursorTable = 5 then
            s.tariff.staging.constants.write ⟨0, 0, 0, 0, 0⟩ s.tariff.cursorIndex
              (readEntries 9 readConstants count entries) else s.tariff.staging.constants)) ∧
      (count = 0 ∨ 8 < count ∨ s.tariff.cursorTable = 8 →
        ∃ d, exec (.tableWrite src count entries) s = .next (s.respond ⟨src, 0x11, .badArgument, d⟩)) ∧
      (∀ capacity size, (s.tariff.cursorTable, capacity, size) ∈
          [(1, 64, 5), (2, 16, 4), (3, 18, 5), (4, 16, 6), (5, 1, 9)] →
        1 ≤ count → count ≤ 8 → capacity < s.tariff.cursorIndex + count → entries.length = count * size →
        ∃ d, exec (.tableWrite src count entries) s = .next (s.respond ⟨src, 0x11, .badArgument, d⟩))) ∧
  (∀ (α : Type) (t : BankTable α) (gap : α) (index : Nat) (es : List α),
      t.length ≤ t.entries.length → index + es.length ≤ t.entries.length → es ≠ [] →
      let u := t.write gap index es
      u.length = max t.length (index + es.length) ∧ u.entries.length = t.entries.length ∧
      (∀ i, i < es.length → u.entries[index + i]? = es[i]?) ∧
      (∀ i, t.length ≤ i → i < index → u.entries[i]? = some gap) ∧
      (∀ i, i < t.length → i < index → u.entries[i]? = t.entries[i]?) ∧
      ∀ i, index + es.length ≤ i → u.entries[i]? = t.entries[i]?)

/-- TABLE_READ of 1 to 8 entries: from the bank chosen, or from the deny list with the cursor on table 8, it returns the
entries from the cursor upward, at most the count and below the length, and moves the cursor past them; nothing else
changes. A read of the live bank and one of the deny list are served during a copy. A count of 0 or above 8 is
BAD_ARGUMENT (R34, R35, R43). -/
def Obligations.TableReadReturnsEntries : Prop :=
  ∀ (src count : Nat) (bank : Option Nat) (s : State), s.hand = none → 1 ≤ count → count ≤ 8 →
    (∀ table length es b, bank = none ∨ bank = some 0 ∨ bank = some 1 →
      b = (if bank = some 1 then s.tariff.liveBank else s.tariff.staging) →
      (s.copy = none ∨ bank = some 1 ∨ table = 8) →
      s.tariff.cursorTable = table →
      (table, length, es) ∈
        [(1, b.stations.length, (b.stations.entries.take b.stations.length).map ReadEntry.station),
          (2, b.fareBands.length, (b.fareBands.entries.take b.fareBands.length).map ReadEntry.fareBand),
          (3, b.timeBands.length, (b.timeBands.entries.take b.timeBands.length).map ReadEntry.timeBand),
          (4, b.classes.length, (b.classes.entries.take b.classes.length).map ReadEntry.cls),
          (5, b.constants.length, (b.constants.entries.take b.constants.length).map ReadEntry.constants),
          (8, s.deny.length, s.deny.map ReadEntry.token)] →
      let read := (es.drop s.tariff.cursorIndex).take count
      let index := s.tariff.cursorIndex + read.length
      exec (.tableRead src count bank) s =
        .next ({ s with tariff := { s.tariff with cursorIndex := index } }.respond
          ⟨src, 0x12, .done, .tariff ⟨table, index, length, s.tariff.valid, s.tariff.pendingSwap, false, s.tariff.live,
            read.length, none, read⟩⟩)) ∧
    ∀ wrong, wrong = 0 ∨ 8 < wrong → s.copy = none →
      ∃ d, exec (.tableRead src wrong bank) s = .next (s.respond ⟨src, 0x12, .badArgument, d⟩)

/-- While a copy is in progress TABLE_SEEK, TABLE_WRITE of good form, TABLE_READ of staging, TARIFF_CHECK, TARIFF_COMMIT
and a second TARIFF_COPY are answered BUSY and change nothing (R43). That BUSY is judged before the other arguments is
DEDUCED (log 15). -/
def Obligations.CopyInProgressRefusesBusy : Prop :=
  ∀ (src : Nat) (c : CopyOperation) (s : State), s.hand = none → s.copy = some c →
    let busy := fun (kind : Nat) (i : Instr) => ∃ d, exec i s = .next (s.respond ⟨src, kind, .busy, d⟩)
    (∀ table index, busy 0x10 (.tableSeek src table index)) ∧
    (∀ count es, s.tariff.cursorTable ≤ 5 → 1 ≤ count → count ≤ 8 →
      es.length = count * entrySize s.tariff.cursorTable → busy 0x11 (.tableWrite src count es)) ∧
    (∀ count, s.tariff.cursorTable ≠ 8 →
      busy 0x12 (.tableRead src count none) ∧ busy 0x12 (.tableRead src count (some 0))) ∧
    busy 0x13 (.tariffCheck src) ∧ busy 0x14 (.tariffCommit src) ∧ busy 0x15 (.tariffCopy src)

/-- TARIFF_CHECK and TARIFF_COMMIT with no copy in progress. TARIFF_CHECK makes the tariff check on staging: a pass sets
the validity mark and answers DONE, a failure clears it and answers TABLE_INVALID with the first failure; pending swap
is left (R37). TARIFF_COMMIT over a failing staging bank clears the marks and answers TABLE_INVALID with the first
failure; over a passing one the roles swap at once in MAINTENANCE, both marks clear, and in SERVICE both marks are set
and the swap waits (R38, R39). No entry of either bank moves; the bank that is not live is staging, and each table has its
own length (R25, R26). -/
def Obligations.CheckAndCommitJudgeStaging : Prop :=
  (∀ (t : TariffStore) (b : Bank),
    (t.live = .bankA → t.liveBank = t.bankA ∧ t.staging = t.bankB) ∧
    (t.live = .bankB → t.liveBank = t.bankB ∧ t.staging = t.bankA) ∧
    b.tableLength 1 = b.stations.length ∧ b.tableLength 2 = b.fareBands.length ∧
    b.tableLength 3 = b.timeBands.length ∧ b.tableLength 4 = b.classes.length ∧
    b.tableLength 5 = b.constants.length) ∧
  (∀ (src : Nat) (s : State), s.hand = none → s.copy = none →
      let length := if s.tariff.cursorTable = 8 then s.deny.length
        else s.tariff.staging.tableLength s.tariff.cursorTable
      let answer := fun (r : Result) (f : Option CheckFailure) =>
        { s with tariff := { s.tariff with valid := f.isNone } }.respond
          ⟨src, 0x13, r, .tariff ⟨s.tariff.cursorTable, s.tariff.cursorIndex, length, f.isNone, s.tariff.pendingSwap,
            false, s.tariff.live, 0, f, []⟩⟩
      (s.tariff.staging.firstFailure = none → exec (.tariffCheck src) s = .next (answer .done none)) ∧
      ∀ f, s.tariff.staging.firstFailure = some f → exec (.tariffCheck src) s = .next (answer .tableInvalid (some f))) ∧
  (∀ (src : Nat) (s : State), s.hand = none → s.copy = none →
      let answer := fun (t : TariffStore) (r : Result) (f : Option CheckFailure) =>
        { s with tariff := t }.respond
          ⟨src, 0x14, r, .tariff ⟨s.tariff.cursorTable, s.tariff.cursorIndex,
            if s.tariff.cursorTable = 8 then s.deny.length else t.staging.tableLength s.tariff.cursorTable,
            t.valid, t.pendingSwap, false, t.live, 0, f, []⟩⟩
      (∀ f, s.tariff.staging.firstFailure = some f →
        exec (.tariffCommit src) s =
          .next (answer { s.tariff with valid := false, pendingSwap := false } .tableInvalid (some f))) ∧
      (s.tariff.staging.firstFailure = none → s.mode = .maintenance →
        ∃ t, exec (.tariffCommit src) s = .next (answer t .done none) ∧ t.bankA = s.tariff.bankA ∧
          t.bankB = s.tariff.bankB ∧ t.liveBank = s.tariff.staging ∧ t.staging = s.tariff.liveBank ∧ t.valid = false ∧
          t.pendingSwap = false ∧ t.cursorTable = s.tariff.cursorTable ∧ t.cursorIndex = s.tariff.cursorIndex) ∧
      (s.tariff.staging.firstFailure = none → s.mode = .service →
        exec (.tariffCommit src) s =
          .next (answer { s.tariff with valid := true, pendingSwap := true } .done none)))

/-- TARIFF_COPY with no copy in progress starts a copy at table 1, index 0, clears both marks, notes a commit withdrawn
and places no response (R40, R42, R164); each COPY_ENTRY while it runs copies one entry of the live bank's table into
staging and goes on to the next index, or past the last entry to the next table. A staging table into which every entry
of the live one has been copied, index by index, holds the live entries, blank entries above them, and the live length;
until the last of them it keeps its length and its entries at every other index (R26, R42, R43). That only the places
below the live length take a COPY_ENTRY, a table of live length 0 taking one, is the model's choice (log 25), and so is
that the places at and above it are blank whatever the live bank holds there (log 47). -/
def Obligations.TariffCopyMakesTablesEqual : Prop :=
  ((∀ (src : Nat) (s : State), s.hand = none → s.copy = none →
      exec (.tariffCopy src) s =
        .next { s with
          tariff := { s.tariff with valid := false, pendingSwap := false }
          copy := some ⟨src, s.tariff.pendingSwap, 1, 0, none⟩ }) ∧
    ∀ (c : CopyOperation) (s : State), s.copy = some c → 1 ≤ c.table → c.table ≤ 5 →
      ∃ t, exec .copyEntry s =
          .next { s with
            tariff := t
            copy := some { c with
              table := if c.index + 1 < s.tariff.liveBank.tableLength c.table then c.table else c.table + 1
              index := if c.index + 1 < s.tariff.liveBank.tableLength c.table then c.index + 1 else 0 } } ∧
        t.liveBank = s.tariff.liveBank ∧ t.live = s.tariff.live ∧ t.valid = s.tariff.valid ∧
        t.pendingSwap = s.tariff.pendingSwap ∧ t.cursorTable = s.tariff.cursorTable ∧
        t.cursorIndex = s.tariff.cursorIndex ∧
        t.staging.stations = (if c.table = 1 then
          s.tariff.staging.stations.copyEntry s.tariff.liveBank.stations ⟨false, 0, false⟩ c.index
          else s.tariff.staging.stations) ∧
        t.staging.fareBands = (if c.table = 2 then
          s.tariff.staging.fareBands.copyEntry s.tariff.liveBank.fareBands ⟨0, 0⟩ c.index
          else s.tariff.staging.fareBands) ∧
        t.staging.timeBands = (if c.table = 3 then
          s.tariff.staging.timeBands.copyEntry s.tariff.liveBank.timeBands ⟨false, 0, 0⟩ c.index
          else s.tariff.staging.timeBands) ∧
        t.staging.classes = (if c.table = 4 then
          s.tariff.staging.classes.copyEntry s.tariff.liveBank.classes ⟨false, 0, 0, 0⟩ c.index
          else s.tariff.staging.classes) ∧
        t.staging.constants = (if c.table = 5 then
          s.tariff.staging.constants.copyEntry s.tariff.liveBank.constants ⟨0, 0, 0, 0, 0⟩ c.index
          else s.tariff.staging.constants)) ∧
  (∀ (α : Type) (staging live : BankTable α) (blank : α),
      staging.entries.length = live.entries.length → live.length ≤ live.entries.length →
      (∀ (t : BankTable α) (i : Nat), i + 1 < live.length → t.entries.length = live.entries.length →
        (t.copyEntry live blank i).length = t.length ∧ (t.copyEntry live blank i).entries[i]? = live.entries[i]? ∧
        ∀ j, j ≠ i → (t.copyEntry live blank i).entries[j]? = t.entries[j]?) ∧
      let copied := (List.range (max 1 live.length)).foldl (fun t i => t.copyEntry live blank i) staging
      copied.length = live.length ∧ copied.entries.length = live.entries.length ∧
      (∀ i, i < live.length → copied.entries[i]? = live.entries[i]?) ∧
      ∀ i, live.length ≤ i → i < live.entries.length → copied.entries[i]? = some blank)

/-- TARIFF_COPY_COMPLETION with every table copied: staging is checked, a pass sets the validity mark and answers DONE
and a failure answers TABLE_INVALID with the first failure, with the note of a commit withdrawn at the start; the
response joins the queue and the copy ends, or is held by the copy while the queue is full (R42, R164). -/
def Obligations.CopyCompletionChecksStaging : Prop :=
  ∀ (src index : Nat) (withdrawn : Bool) (s : State), s.copy = some ⟨src, withdrawn, 6, index, none⟩ →
    ∀ f, s.tariff.staging.firstFailure = f →
    let valid := if f = none then true else s.tariff.valid
    let response : Response :=
      ⟨src, 0x15, if f = none then .done else .tableInvalid, .tariff ⟨s.tariff.cursorTable, s.tariff.cursorIndex,
        if s.tariff.cursorTable = 8 then s.deny.length else s.tariff.staging.tableLength s.tariff.cursorTable,
        valid, s.tariff.pendingSwap, withdrawn, s.tariff.live, 0, f, []⟩⟩
    exec .tariffCopyCompletion s =
      .next (if s.responses.length < 4 then
        { s with tariff := { s.tariff with valid := valid }, responses := s.responses ++ [response], copy := none }
      else
        { s with
          tariff := { s.tariff with valid := valid }
          copy := some ⟨src, withdrawn, 6, index, some response⟩ })

/-- The tariff check. A bank that passes it has every entry in use in its range, at least two stations of different
chainages, rising fare bands, rising start minutes within each day type and a time band at minute 0 in each, class 0 in
use, and constants in their ranges with the same-station fee at or below the ceiling (R27 to R31). The check names the
first failure in the order of R36: the first of its fourteen checks that fails at any index, with its table, its number
and the first index at which it fails, and no failure when none fails (R36). -/
def Obligations.TariffCheckFindsTheFirstFailure : Prop :=
  ∀ b : Bank,
    (b.firstFailure = none →
      (∀ e ∈ b.stations.entries, e.inUse = true → e.chainage ≤ 250000) ∧
      2 ≤ (b.stations.entries.filter (·.inUse)).length ∧
      ((b.stations.entries.filter (·.inUse)).map (·.chainage)).Nodup ∧
      (∀ e ∈ b.fareBands.entries, 0 < e.upperLimit → e.upperLimit ≤ 7500 ∧ e.rate ≤ 9999) ∧
      (∃ e ∈ b.fareBands.entries, 0 < e.upperLimit) ∧
      ((b.fareBands.entries.filter fun e => decide (0 < e.upperLimit)).map (·.upperLimit)).Pairwise (· < ·) ∧
      (∀ e ∈ b.timeBands.entries, e.inUse = true → e.startMinute ≤ 1439 ∧ 50 ≤ e.percent ∧ e.percent ≤ 300) ∧
      (∀ d, d < 3 → (∃ e ∈ (b.timeBands.entries.drop (d * 6)).take 6, e.inUse = true ∧ e.startMinute = 0) ∧
        ((((b.timeBands.entries.drop (d * 6)).take 6).filter (·.inUse)).map (·.startMinute)).Pairwise (· < ·)) ∧
      (∀ e ∈ b.classes.entries, e.inUse = true →
        e.payable ≤ 100 ∧ (e.step = 1 ∨ e.step = 5 ∨ e.step = 10) ∧ e.dailyCap ≤ 65535) ∧
      (b.classes.entries.getD 0 ⟨false, 0, 0, 0⟩).inUse = true ∧ b.constants.length ≠ 0 ∧
      let c := b.constants.entries.getD 0 ⟨0, 0, 0, 0, 0⟩
      c.boardingCharge ≤ 999999 ∧ 100 ≤ c.fareCeiling ∧ c.fareCeiling ≤ 65535 ∧ c.sameStationFee ≤ c.fareCeiling ∧
        c.minimumDistance ≤ 100 ∧ c.sameStationGrace ≤ 60) ∧
    let c := b.constants.entries.getD 0 ⟨0, 0, 0, 0, 0⟩
    let failures : List (Nat × Nat × (Nat → Prop)) :=
      [(1, 1, fun i => ∃ e, b.stations.entries[i]? = some e ∧ e.inUse = true ∧ 250000 < e.chainage),
        (1, 2, fun i => i = 0 ∧ (b.stations.entries.filter (·.inUse)).length < 2),
        (1, 3, fun i => ∃ e j f, b.stations.entries[i]? = some e ∧ e.inUse = true ∧ j < i ∧
          b.stations.entries[j]? = some f ∧ f.inUse = true ∧ f.chainage = e.chainage),
        (2, 4, fun i => ∃ e, b.fareBands.entries[i]? = some e ∧ 0 < e.upperLimit ∧ (7500 < e.upperLimit ∨ 9999 < e.rate)),
        (2, 5, fun i => i = 0 ∧ ∀ e ∈ b.fareBands.entries, e.upperLimit = 0),
        (2, 6, fun i => ∃ e j f, b.fareBands.entries[i]? = some e ∧ 0 < e.upperLimit ∧ j < i ∧
          b.fareBands.entries[j]? = some f ∧ 0 < f.upperLimit ∧ e.upperLimit ≤ f.upperLimit ∧
          ∀ k g, j < k → k < i → b.fareBands.entries[k]? = some g → g.upperLimit = 0),
        (3, 7, fun i => ∃ e, b.timeBands.entries[i]? = some e ∧ e.inUse = true ∧
          (1439 < e.startMinute ∨ e.percent < 50 ∨ 300 < e.percent)),
        (3, 8, fun i => ∃ e j f, b.timeBands.entries[i]? = some e ∧ e.inUse = true ∧ j < i ∧ j / 6 = i / 6 ∧
          b.timeBands.entries[j]? = some f ∧ f.inUse = true ∧ e.startMinute ≤ f.startMinute ∧
          ∀ k g, j < k → k < i → b.timeBands.entries[k]? = some g → g.inUse = false),
        (3, 9, fun i => ∃ d, d < 3 ∧ i = d * 6 ∧
          ∀ e ∈ (b.timeBands.entries.drop (d * 6)).take 6, e.inUse = true → e.startMinute ≠ 0),
        (4, 10, fun i => ∃ e, b.classes.entries[i]? = some e ∧ e.inUse = true ∧
          (100 < e.payable ∨ (e.step ≠ 1 ∧ e.step ≠ 5 ∧ e.step ≠ 10) ∨ 65535 < e.dailyCap)),
        (4, 11, fun i => i = 0 ∧ (b.classes.entries.getD 0 ⟨false, 0, 0, 0⟩).inUse = false),
        (5, 12, fun i => i = 0 ∧ b.constants.length = 0),
        (5, 13, fun i => i = 0 ∧ (999999 < c.boardingCharge ∨ c.fareCeiling < 100 ∨ 65535 < c.fareCeiling ∨
          65535 < c.sameStationFee ∨ 100 < c.minimumDistance ∨ 60 < c.sameStationGrace)),
        (5, 14, fun i => i = 0 ∧ c.fareCeiling < c.sameStationFee)]
    (∀ (k table check : Nat) (fails : Nat → Prop), failures[k]? = some (table, check, fails) →
      (∀ (j : Nat) (x : Nat × Nat × (Nat → Prop)), j < k → failures[j]? = some x → ∀ i, ¬x.2.2 i) →
      ∀ i, fails i → (∀ j, j < i → ¬fails j) →
      b.firstFailure = some ⟨table, i, check⟩) ∧
    ((∀ x ∈ failures, ∀ i, ¬x.2.2 i) → b.firstFailure = none)

/-- DENY_ADD and DENY_REMOVE of 1 to 8 tokens on a list in order. Adding keeps the list strictly ascending and within
4,096, keeps its tokens and takes only tokens carried, in the order carried while there is room; the response counts
those added and the tokens after, LIST_FULL when a token found no room and else DONE (R44). Removing leaves the list
before without the tokens carried, in the same order; the response counts those removed and the tokens after, NOT_FOUND
when none was on the list and else DONE (R45). A count of 0 or above 8 is BAD_ARGUMENT and changes nothing. Mode, copy
and banks play no part and are untouched (R44, R45). -/
def Obligations.DenyListIsEditedInOrder : Prop :=
  (∀ (src count : Nat) (tokens : List Token) (s : State), s.hand = none →
      s.deny.Pairwise (fun a b => a.toNat < b.toNat) → s.deny.length ≤ 4096 →
      (1 ≤ count → count ≤ 8 → tokens.length = count →
        ∃ (deny : List Token) (full : Bool),
          exec (.denyAdd src count tokens) s =
            .next ({ s with deny := deny }.respond
              ⟨src, 0x18, if full then .listFull else .done, .deny (deny.length - s.deny.length) deny.length⟩) ∧
          deny.Pairwise (fun a b => a.toNat < b.toNat) ∧ deny.length ≤ 4096 ∧ s.deny.length ≤ deny.length ∧
          (∀ u ∈ s.deny, u ∈ deny) ∧ (∀ u ∈ deny, u ∈ s.deny ∨ u ∈ tokens) ∧
          (full = true ↔ ∃ u ∈ tokens, u ∉ deny) ∧ (full = true → deny.length = 4096) ∧
          ∀ before u after, tokens = before ++ u :: after → u ∉ deny →
            ∀ v ∈ after, v ∈ deny → v ∈ s.deny ∨ v ∈ before) ∧
      (count = 0 ∨ 8 < count →
        ∃ d, exec (.denyAdd src count tokens) s = .next (s.respond ⟨src, 0x18, .badArgument, d⟩))) ∧
  (∀ (src count : Nat) (tokens : List Token) (s : State), s.hand = none →
      s.deny.Pairwise (fun a b => a.toNat < b.toNat) →
      (1 ≤ count → count ≤ 8 → tokens.length = count →
        let deny := s.deny.filter fun u => !tokens.contains u
        exec (.denyRemove src count tokens) s =
          .next ({ s with deny := deny }.respond
            ⟨src, 0x19, if ∃ u ∈ tokens, u ∈ s.deny then .done else .notFound,
              .deny (s.deny.length - deny.length) deny.length⟩)) ∧
      (count = 0 ∨ 8 < count →
        ∃ d, exec (.denyRemove src count tokens) s = .next (s.respond ⟨src, 0x19, .badArgument, d⟩)))

/-! ### Modes, the service day, queries, status and waiting responses -/

/-- SERVICE_START, by the table of R175, its lines in order: the engine already in SERVICE, an audit in progress, the
first written mark that is clear, a live bank that fails the check, the day unset; each refusal changes nothing. Else
the mode becomes SERVICE and the sweep timer and the watchdog start with their full periods (R68, R147, R164, R175).
That an audit is in progress until its response has joined the queue, also once its walk has ended, is DEDUCED (log 31).
The fields of a refusal beside its item and failure are the model's (log 17). -/
def Obligations.ServiceStartByItsTable : Prop :=
  ∀ (src : Nat) (s : State), s.hand = none →
    let refused := fun (r : Result) (item : StartItem) (f : Option CheckFailure) =>
      ∃ d y l, exec (.serviceStart src) s = .next (s.respond ⟨src, 0x20, r, .serviceStart ⟨item, f, d, y, l⟩⟩)
    (s.mode = .service → refused .badState .alreadyInService none) ∧
    (s.mode = .maintenance → s.auditOp ≠ none → refused .busy .none none) ∧
    (s.mode = .maintenance → s.auditOp = none →
      (s.written.link = false → refused .badState .linkNotWritten none) ∧
      (s.written.link = true → s.written.timing = false → refused .badState .timingNotWritten none) ∧
      (s.written.link = true → s.written.timing = true → s.written.journey = false →
        refused .badState .journeyNotWritten none) ∧
      (s.written = ⟨true, true, true⟩ →
        (∀ f, s.tariff.liveBank.firstFailure = some f → refused .badState .liveTariff (some f)) ∧
        (s.tariff.liveBank.firstFailure = none → s.clock.day = none → refused .badState .dayUnset none) ∧
        ∀ day, s.tariff.liveBank.firstFailure = none → s.clock.day = some day →
          exec (.serviceStart src) s =
            .next ({ s with
              mode := .service
              sweep := { s.sweep with timer := some (s.settings.timing.sweepPeriod * 10) }
              watchdog := some (s.settings.timing.beaconLimit * 10) }.respond
                ⟨src, 0x20, .done, .serviceStart ⟨.none, none, day, s.clock.dayType, s.tariff.live⟩⟩)))

/-- SERVICE_STOP answers DONE with the mode before it. In MAINTENANCE nothing else changes; in SERVICE the mode becomes
MAINTENANCE, the timers stop, an age or forced pass ends with the records it has formed kept, a day-change walk runs on,
pending expiry is cleared and the forced age becomes none (R139, R147, R176). -/
def Obligations.ServiceStopEndsPasses : Prop :=
  ∀ (src : Nat) (s : State), s.hand = none →
    (s.mode = .maintenance →
      exec (.serviceStop src) s = .next (s.respond ⟨src, 0x21, .done, .serviceStop .maintenance⟩)) ∧
    (s.mode = .service →
      (∀ w n f, s.sweep.walk = some w → w = .age n ∨ w = .forced n f →
        exec (.serviceStop src) s =
          .next ({ s with
            mode := .maintenance
            watchdog := none
            sweep := { s.sweep with
              walk := none, timer := none, pendingExpiry := false, forcedAge := none
              kept := s.sweep.kept ++ s.sweep.waiting, waiting := [] } }.respond
                ⟨src, 0x21, .done, .serviceStop .service⟩)) ∧
      ((s.sweep.walk = none ∨ ∃ n, s.sweep.walk = some (.day n)) →
        exec (.serviceStop src) s =
          .next ({ s with
            mode := .maintenance
            watchdog := none
            sweep := { s.sweep with timer := none, pendingExpiry := false, forcedAge := none } }.respond
                ⟨src, 0x21, .done, .serviceStop .service⟩)))

/-- DAY_CHANGE refused, by the first line of R143 that applies: a bad day number or day type, then a day-change walk or
an audit in progress, then the current day; nothing changes. Accepted, it takes the effects of R144 in their order and
starts the walk at slot 0, with no response yet; the record that a pass it ends has formed is kept, and every other
record kept or waiting stays (R41, R128, R139, R146, R164). That pending expiry is set with no pass in flight too is
DEDUCED (log 30). -/
def Obligations.DayChangeOpensTheDay : Prop :=
  ∀ (src day dayType : Nat) (s : State), s.hand = none →
    let refused := fun (r : Result) =>
      exec (.dayChange src day dayType) s = .next (s.respond ⟨src, 0x22, r, .dayChange none⟩)
    (day = 0 ∨ 65535 < day ∨ 2 < dayType → refused .badArgument) ∧
    (1 ≤ day → day ≤ 65535 →
      ∀ y, (dayType, y) ∈ [(0, DayType.workday), (1, DayType.saturday), (2, DayType.sundayHoliday)] →
      (s.dayOp ≠ none ∨ s.auditOp ≠ none → refused .busy) ∧
      (s.dayOp = none → s.auditOp = none → s.clock.day = some day → refused .badArgument) ∧
      (s.dayOp = none → s.auditOp = none → s.clock.day ≠ some day →
        ∃ t tariff, exec (.dayChange src day dayType) s =
            .next { s with
              tariff := tariff
              cap := (if ∃ old, s.clock.day = some old ∧ day < old then ⟨[], [], 0⟩ else s.cap)
              clock := ⟨some day, y, 0, true⟩
              watchdog := none
              sweep := t
              dayOp := some ⟨src, day, y, s.tariff.pendingSwap, tariff.live, false, none⟩ } ∧
          (s.tariff.pendingSwap = false → tariff = s.tariff) ∧
          (s.tariff.pendingSwap = true → tariff.bankA = s.tariff.bankA ∧ tariff.bankB = s.tariff.bankB ∧
            tariff.liveBank = s.tariff.staging ∧ tariff.staging = s.tariff.liveBank ∧ tariff.pendingSwap = false ∧
            tariff.valid = false ∧ tariff.cursorTable = s.tariff.cursorTable ∧
            tariff.cursorIndex = s.tariff.cursorIndex) ∧
          t.walk = some (.day 0) ∧ t.pendingExpiry = true ∧ t.dayCounts = ⟨0, 0, 0, 0⟩ ∧
          t.timer = s.sweep.timer ∧ t.forcedAge = s.sweep.forcedAge ∧ t.auditCounts = s.sweep.auditCounts ∧
          ((∃ n f, s.sweep.walk = some (.age n) ∨ s.sweep.walk = some (.forced n f)) →
            t.kept = s.sweep.kept ++ s.sweep.waiting ∧ t.waiting = []) ∧
          ((∀ n f, s.sweep.walk ≠ some (.age n) ∧ s.sweep.walk ≠ some (.forced n f)) →
            t.kept = s.sweep.kept ∧ t.waiting = s.sweep.waiting)))

/-- The completions of DAY_CHANGE and POOL_AUDIT once the walk has ended: the response tells what R146 and R72 give, an
audit's with the quarantined count at its walk's end; it joins the queue and ends the operation, or is held by it while
the queue is full. RESPONSE_QUEUE_JOIN with fewer than 4 responses queued: the response that waits in hand, for a copy,
for a day change or for an audit joins the tail, and its request or operation is finished; with 4 queued, nothing moves
(R72, R146, R163, R164). That the command names which waiting response goes is the model's choice (log 24), and so is
that a day change names the bank live when its effects were made (log 36). -/
def Obligations.CompletionsAnswerOrWait : Prop :=
  (∀ (src day : Nat) (y : DayType) (swapped : Bool) (live : BankName) (s : State),
    s.dayOp = some ⟨src, day, y, swapped, live, true, none⟩ →
    let r : Response := ⟨src, 0x22, .done, .dayChange (some ⟨day, y, swapped, live, s.sweep.dayCounts⟩)⟩
    (s.responses.length < 4 →
      exec .dayChangeCompletion s = .next { s with responses := s.responses ++ [r], dayOp := none }) ∧
    (4 ≤ s.responses.length →
      exec .dayChangeCompletion s = .next { s with dayOp := some ⟨src, day, y, swapped, live, true, some r⟩ })) ∧
  (∀ (src quarantined : Nat) (s : State), s.auditOp = some ⟨src, some quarantined, none⟩ →
    let r : Response := ⟨src, 0x31, .done, .poolAudit (some ⟨s.sweep.auditCounts, quarantined⟩)⟩
    (s.responses.length < 4 →
      exec .poolAuditCompletion s = .next { s with responses := s.responses ++ [r], auditOp := none }) ∧
    (4 ≤ s.responses.length →
      exec .poolAuditCompletion s = .next { s with auditOp := some ⟨src, some quarantined, some r⟩ })) ∧
  ∀ (r : Response) (s : State),
    (s.responses.length < 4 →
      (s.hand = some r →
        exec (.responseQueueJoin .requestInHand) s =
          .next { s with responses := s.responses ++ [r], hand := none }) ∧
      (∀ c, s.copy = some c → c.response = some r →
        exec (.responseQueueJoin .tariffCopy) s = .next { s with responses := s.responses ++ [r], copy := none }) ∧
      (∀ d, s.dayOp = some d → d.response = some r →
        exec (.responseQueueJoin .dayChange) s = .next { s with responses := s.responses ++ [r], dayOp := none }) ∧
      ∀ a, s.auditOp = some a → a.response = some r →
        exec (.responseQueueJoin .poolAudit) s = .next { s with responses := s.responses ++ [r], auditOp := none }) ∧
    (4 ≤ s.responses.length → ∀ w, exec (.responseQueueJoin w) s = .next s)

/-- JOURNEY_QUERY, taken with no card operation in progress, and the lookup that it makes as every tap does: the chain of
the token's bucket is walked from its head over intact records of other tokens. Where it ends the lookup returns none, and
so it does at a slot that fails on reading, which is quarantined, or that is QUARANTINED: the chain is cut there, after the
last record passed or at its head; the query is NOT_FOUND. A record of the token, wherever it lies on the chain, is
returned with its slot and that of the record before it. The query gives a core's journey with a leg for each extension
that passes and a damaged leg for each that is QUARANTINED or fails on reading, which quarantines it; or the orphan with
whether it is on the orphan order. Every answer carries the card's account of the current day; but for a slot
quarantined and a chain cut, nothing changes except the response (R54, R57, R62, R64, R65, R66, R127, R171). -/
def Obligations.JourneyQueryAnswers : Prop :=
  ∀ (src : Nat) (token : Token) (s : State) (before : List (Nat × Content)) (stop : Option Nat), s.hand = none →
    s.tableFree = true → before.length ≤ 12288 →
    s.Leads Content.inBucket (s.bucketHead (bucketOf token)) before stop →
    (∀ x ∈ before, ∀ next, x.2.link ≠ some (token, next)) →
    let account := (accountLookup s.cap s.today token).map fun x => AccountPart.mk x.2.cap x.2.spent x.2.journeys
    let prev := before.getLast?.map (·.1)
    let absent := fun (t : State) => s.lookup token = (none, t) ∧
      exec (.journeyQuery src token) s = .next (t.respond ⟨src, 0x30, .notFound, .query .none account⟩)
    let present := fun (n : Nat) (c : Content) (part : JourneyPart) (t : State) =>
      s.lookup token = (some ⟨prev, n, c⟩, s) ∧
        exec (.journeyQuery src token) s = .next (t.respond ⟨src, 0x30, .done, .query part account⟩)
    (stop = none → absent s) ∧
    ∀ n, stop = some n →
      ((∃ d, s.slot n = some (.allocated d false)) →
        absent ((s.quarantine n).setChainLink (bucketOf token) prev none)) ∧
      (s.slot n = some .quarantined → absent (s.setChainLink (bucketOf token) prev none)) ∧
      (s.Stored → (∃ d, s.slot n = some (.allocated d false)) ∨ s.slot n = some .quarantined →
        ∃ t, absent t ∧ t.slot n = some .quarantined ∧
          (s.slot n ≠ some .quarantined → t.fault = some ⟨.slotCheck, n, s.clock.time⟩) ∧
          (before = [] → t.bucketHead (bucketOf token) = none ∧ ∀ m, m ≠ n → t.slot m = s.slot m) ∧
          ∀ y, before.getLast? = some y → t.bucketHead (bucketOf token) = s.bucketHead (bucketOf token) ∧
            t.slot y.1 = some (.allocated (y.2.withNext none) true) ∧ ∀ m, m ≠ n → m ≠ y.1 → t.slot m = s.slot m) ∧
      (∀ c : Core, s.slot n = some (.allocated (.core c) true) → c.token = token →
        (∀ legs : List (Nat × Option Extension), c.extensions = legs.map (·.1) →
          (∀ x ∈ legs, s.slot x.1 = some (match x.2 with
            | some l => .allocated (.extension l) true
            | none => .quarantined)) →
          present n (.core c) (.core n c (legs.map (·.2))) s) ∧
        ∀ e d, c.extensions = [e] → s.slot e = some (.allocated d false) →
          present n (.core c) (.core n c [none]) (s.quarantine e)) ∧
      ∀ o : Orphan, s.slot n = some (.allocated (.orphan o) true) → o.token = token →
        ∀ order : List (Nat × Orphan), order.length ≤ 512 → (order.map (·.1)).Nodup →
          s.table.order.head = order.head?.map (·.1) → s.table.order.tail = order.getLast?.map (·.1) →
          (∀ i x, order[i]? = some x → s.slot x.1 = some (.allocated (.orphan x.2) true) ∧
            x.2.nextOrder = order[i + 1]?.map (·.1)) →
          present n (.orphan o) (.orphan n o (decide (n ∈ order.map (·.1)))) s

/-- POOL_AUDIT is BAD_STATE in SERVICE and, in MAINTENANCE, BUSY while a day change or an audit is in progress, changing
nothing; else it starts at bucket 0 with every audit mark clear, and has no response yet (R68, R146, R164). That the
mode is judged before a day change in progress is the model's choice (log 35); that either operation is in progress
until its response has joined the queue is DEDUCED (log 31). -/
def Obligations.PoolAuditStarts : Prop :=
  ∀ (src : Nat) (s : State), s.hand = none →
    (s.mode = .service →
      exec (.poolAudit src) s = .next (s.respond ⟨src, 0x31, .badState, .poolAudit none⟩)) ∧
    (s.mode = .maintenance → (s.dayOp ≠ none ∨ s.auditOp ≠ none) →
      exec (.poolAudit src) s = .next (s.respond ⟨src, 0x31, .busy, .poolAudit none⟩)) ∧
    (s.mode = .maintenance → s.dayOp = none → s.auditOp = none →
      exec (.poolAudit src) s =
        .next { s with
          table := { s.table with marks := [] }
          sweep := { s.sweep with walk := some (.audit (.chains 0 none)), auditCounts := ⟨0, 0, 0, 0, 0⟩ }
          auditOp := some ⟨src, none, none⟩ })

/-- STATUS_READ takes every value into its response as it stood, then clears the fault record, and the counters when
asked (R168, R169, R170). -/
def Obligations.StatusReadReportsThenClears : Prop :=
  ∀ (src : Nat) (clear : Bool) (s : State), s.hand = none →
    ∃ u, exec (.statusRead src clear) s =
        .next ({ s with counters := u, fault := none }.respond
          ⟨src, 0x40, .done, .status ⟨s.mode, s.clock, s.table.counts, s.tariff.pendingSwap, s.written, s.counters,
            s.fault⟩⟩) ∧
      (clear = true → ∀ n ∈ u.values, n = 0) ∧ (clear = false → u = s.counters)

/-- A request payload whose kind names no request, whose length does not fit the arguments of its kind, or that is
empty, is answered BAD_ARGUMENT with the kind as carried, 0 for an empty payload, and changes nothing (R160, R162). -/
def Obligations.MalformedRequestIsAnswered : Prop :=
  ∀ (src : Nat) (s : State), s.hand = none →
    exec (.malformedRequest src []) s = .next (s.respond ⟨src, 0, .badArgument, .malformed⟩) ∧
    ∀ (kind : Byte) (arguments : List Byte),
      (kind.toNat ∉ [0x01, 0x02, 0x10, 0x11, 0x12, 0x13, 0x14, 0x15, 0x18, 0x19, 0x20, 0x21, 0x22, 0x30, 0x31, 0x40, 0x41] ∨
        (∃ length, (kind.toNat, length) ∈
            [(0x02, 1), (0x10, 3), (0x13, 0), (0x14, 0), (0x15, 0), (0x20, 0), (0x21, 0), (0x22, 3), (0x30, 7),
              (0x31, 0), (0x40, 1), (0x41, 1)] ∧ arguments.length ≠ length) ∨
        (kind.toNat ∈ [0x01, 0x11, 0x18, 0x19] ∧ arguments = []) ∨
        (kind.toNat = 0x12 ∧ arguments.length ≠ 1 ∧ arguments.length ≠ 2) ∨
        (∃ group values length, kind.toNat = 0x01 ∧ arguments = group :: values ∧
          (group.toNat, length) ∈ [(1, 2), (2, 6), (3, 8)] ∧ values.length ≠ length) ∨
        (∃ count tokens, (kind.toNat = 0x18 ∨ kind.toNat = 0x19) ∧ arguments = count :: tokens ∧
          1 ≤ count.toNat ∧ count.toNat ≤ 8 ∧ tokens.length ≠ 7 * count.toNat) ∨
        (∃ count entries size, kind.toNat = 0x11 ∧ arguments = count :: entries ∧ 1 ≤ count.toNat ∧ count.toNat ≤ 8 ∧
          (s.tariff.cursorTable, size) ∈ [(1, 5), (2, 4), (3, 5), (4, 6), (5, 9)] ∧
          entries.length ≠ count.toNat * size)) →
      exec (.malformedRequest src (kind :: arguments)) s =
        .next (s.respond ⟨src, kind.toNat, .badArgument, .malformed⟩)

/-! ### The pool audit -/

/-- AUDIT_CHAIN_WALK with no record waiting and no card operation in progress. Along a chain whose records and
extensions all pass, every record and every extension is marked and nothing else changes; after bucket 4,095 the second
step begins. One slot of a chain, after those passed: a record that passes is marked, with the extensions of a core, and
passed; one that fails is quarantined, and it or a QUARANTINED one cuts the chain after the last slot passed; a core
with a QUARANTINED extension is settled INCOMPLETE with DAMAGED, counted, not marked and not passed (R66, R67, R69).
Where the walk goes on from a slot passed that has been quarantined or disturbed since, that a cut rewrites it with no
second read, and that marks stay when the chain is cut above them, is the model's choice (log 42, log 46).
That the command takes the chain slot by slot, to its end or over so many slots as its operand says, and rests at a
record that waits, is the model's choice (R62, R68; log 19). -/
def Obligations.AuditWalksEachChain : Prop :=
  (∀ (b : Nat) (s : State), s.Stored → s.tableFree = true → s.sweep.walk = some (.audit (.chains b none)) →
    s.sweep.waiting = [] → ∀ chain : List (Nat × Content), chain.length ≤ 12288 →
    s.bucketHead b = chain.head?.map (·.1) →
    (∀ i x, chain[i]? = some x → s.slot x.1 = some (.allocated x.2 true) ∧
      ∃ token, x.2.link = some (token, chain[i + 1]?.map (·.1))) →
    (∀ x ∈ chain, ∀ c, x.2 = .core c → ∀ e ∈ c.extensions, ∃ l, s.slot e = some (.allocated (.extension l) true)) →
    ∃ marks,
      (∀ m, m ∈ marks ↔
        m ∈ s.table.marks ∨ ∃ x ∈ chain, x.1 = m ∨ ∃ c, x.2 = .core c ∧ m ∈ c.extensions) ∧
      let t := { s with table := { s.table with marks := marks } }
      exec (.auditChainWalk none) s =
        .next { t with sweep := { s.sweep with
          walk := some (.audit (if b < 4095 then .chains (b + 1) none else t.slotsFrom 0)) } }) ∧
  (∀ (b n : Nat) (passed : Option Nat) (s : State), s.Stored → s.tableFree = true →
    s.sweep.walk = some (.audit (.chains b passed)) → s.sweep.waiting = [] →
    (match passed with
      | none => s.bucketHead b
      | some p => s.nextOf p) = some n →
    let on := fun (t : State) (passed : Option Nat) => { t with sweep := { t.sweep with
      walk := some (.audit (if ((match passed with
          | none => t.bucketHead b
          | some p => t.nextOf p) : Option Nat).isSome then .chains b passed
        else if b < 4095 then .chains (b + 1) none else t.slotsFrom 0)) } }
    let one := fun (t : State) => exec (.auditChainWalk (some 1)) s = .next t
    (∀ c, s.slot n = some (.allocated c true) → c.kind ≠ .extension →
      (∀ d, c = .core d → ∀ e ∈ d.extensions, ∃ l, s.slot e = some (.allocated (.extension l) true)) →
      ∃ marks, (∀ m, m ∈ marks ↔ m ∈ s.table.marks ∨ m = n ∨ ∃ d, c = .core d ∧ m ∈ d.extensions) ∧
        one (on { s with table := { s.table with marks := marks } } (some n))) ∧
    ((∃ c, s.slot n = some (.allocated c false)) → one (on ((s.quarantine n).setChainLink b passed none) passed)) ∧
    (s.slot n = some .quarantined → one (on (s.setChainLink b passed none) passed)) ∧
    ((∃ c, s.slot n = some (.allocated c false)) ∨ s.slot n = some .quarantined →
      ∃ t, one t ∧ t.slot n = some .quarantined ∧ t.table.marks = s.table.marks ∧ t.records = s.records ∧
        (s.slot n ≠ some .quarantined → t.fault = some ⟨.slotCheck, n, s.clock.time⟩) ∧
        (∀ a, a ≠ b → t.bucketHead a = s.bucketHead a) ∧
        (passed = none → t.bucketHead b = none ∧ ∀ m, m ≠ n → t.slot m = s.slot m) ∧
        ∀ p d, passed = some p → s.slot p = some (.allocated d true) → p ≠ n →
          t.bucketHead b = s.bucketHead b ∧ t.slot p = some (.allocated (d.withNext none) true) ∧
          ∀ m, m ≠ n → m ≠ p → t.slot m = s.slot m) ∧
    ∀ c, s.slot n = some (.allocated (.core c) true) →
      (∀ e ∈ c.extensions, s.slot e = some .quarantined ∨ ∃ l, s.slot e = some (.allocated (.extension l) true)) →
      (∃ e ∈ c.extensions, s.slot e = some .quarantined) →
      let r := s.settleCore n c .incomplete {}
      one ((on { r.2 with sweep := { r.2.sweep with
        auditCounts := { s.sweep.auditCounts with damaged := s.sweep.auditCounts.damaged + 1 } } }
        passed).walkRecords [r.1.record]) ∧
      r.1.record.kind = .incomplete ∧ r.1.record.flags.damaged = true ∧ r.2.slot n = none ∧
      r.2.table.marks = s.table.marks) ∧
  ∀ (b k : Nat) (passed : Option Nat) (s t : State), s.tableFree = true →
    s.sweep.walk = some (.audit (.chains b passed)) → exec (.auditChainWalk (some 1)) s = .next t →
    ((∃ p, t.sweep.walk = some (.audit (.chains b p))) → t.sweep.waiting = [] →
      exec (.auditChainWalk (some (k + 1))) s = exec (.auditChainWalk (some k)) t) ∧
    ((∀ p, t.sweep.walk ≠ some (.audit (.chains b p))) ∨ t.sweep.waiting ≠ [] →
      exec (.auditChainWalk (some (k + 1))) s = .next t) ∧
    exec (.auditChainWalk none) s = exec (.auditChainWalk (some 12289)) s

/-- AUDIT_SLOT_EXAMINATION with no record waiting and no card operation in progress goes to the first allocated slot
without a mark: a failed read is quarantined, as by any read: the slot's kind and the two counts change, the notice is
raised and the fault written, and nothing is released or unlinked (R65); a core is settled INCOMPLETE and an orphan UNMATCHED_EXIT, with RECOVERED,
and counted; an extension is passed over when its owner is a core that reads and names it, and is released with no
record, and counted, when its owner is of another kind or a core that does not name it. With none left the third step
begins. That a settled record's examination ends with the append or the wait of its record is R139's (R62, R70, R72; log
19). -/
def Obligations.AuditExaminesUnmarkedSlots : Prop :=
  (∀ (n : Nat) (c : Content) (s : State), s.Stored → s.slot n = some (.allocated c false) →
    let t := s.quarantine n
    t.slot n = some .quarantined ∧ (∀ m, m ≠ n → t.slot m = s.slot m) ∧
    t.table.counts = (let d := { s.table.counts with quarantined := s.table.counts.quarantined + 1 }
      match c with
      | .core _ => { d with cores := d.cores - 1 }
      | .extension _ => { d with extensions := d.extensions - 1 }
      | .orphan _ => { d with orphans := d.orphans - 1 }) ∧
    t.notices = raiseIn s.notices (.slotQuarantined n) s.clock.time ∧
    t.fault = some ⟨.slotCheck, n, s.clock.time⟩ ∧ t.table.free = s.table.free ∧ t.table.heads = s.table.heads ∧
    t.table.order = s.table.order ∧ t.records = s.records ∧ t.cap = s.cap ∧ t.counters = s.counters) ∧
  ∀ (n : Nat) (s : State), s.Stored → s.tableFree = true →
    s.sweep.walk = some (.audit (.slots n)) → s.sweep.waiting = [] →
    let unmarked := fun m => (∃ c k, s.slot m = some (.allocated c k)) ∧ m ∉ s.table.marks
    let on := fun (t : State) (m : Nat) => { t with sweep := { t.sweep with walk := some (.audit (t.slotsFrom m)) } }
    ((∀ m, n ≤ m → ¬unmarked m) → s.slotsFrom n = s.testsFrom 0 ∧
      exec .auditSlotExamination s =
        .next { s with sweep := { s.sweep with walk := some (.audit (s.testsFrom 0)) } }) ∧
    ∀ m, n ≤ m → unmarked m → (∀ j, n ≤ j → j < m → ¬unmarked j) → s.slotsFrom n = .slots m ∧
      (∀ c, s.slot m = some (.allocated c false) →
        exec .auditSlotExamination s = .next (on (s.quarantine m) (m + 1))) ∧
      (∀ c, s.slot m = some (.allocated (.core c) true) →
        let r := s.settleCore m c .incomplete { recovered := true }
        r.1.record.kind = .incomplete ∧ r.1.record.flags.recovered = true ∧
        exec .auditSlotExamination s =
          .next ((on { r.2 with sweep := { r.2.sweep with
            auditCounts := { s.sweep.auditCounts with
              recovered := s.sweep.auditCounts.recovered + 1
              damaged := s.sweep.auditCounts.damaged + (if r.1.record.flags.damaged then 1 else 0) } } }
            (m + 1)).walkRecords [r.1.record])) ∧
      (∀ o, s.slot m = some (.allocated (.orphan o) true) →
        let r := s.settleOrphan m o { recovered := true }
        r.1.kind = .unmatchedExit ∧ r.1.flags.recovered = true ∧
        exec .auditSlotExamination s =
          .next ((on { r.2 with sweep := { r.2.sweep with
            auditCounts := { s.sweep.auditCounts with
              recovered := s.sweep.auditCounts.recovered + 1
              damaged := s.sweep.auditCounts.damaged + (if r.1.flags.damaged then 1 else 0) } } }
            (m + 1)).walkRecords [r.1])) ∧
      ∀ e, s.slot m = some (.allocated (.extension e) true) →
        (∀ c, s.slot e.owner = some (.allocated (.core c) true) → m ∈ c.extensions →
          exec .auditSlotExamination s = .next (on s (m + 1))) ∧
        (s.kind e.owner ≠ .core ∨ (∃ c, s.slot e.owner = some (.allocated (.core c) true) ∧ m ∉ c.extensions) →
          let t := s.releaseSlot m
          exec .auditSlotExamination s =
            .next (on { t with sweep := { t.sweep with
              auditCounts := { s.sweep.auditCounts with
                loneReleased := s.sweep.auditCounts.loneReleased + 1 } } } (m + 1)))

/-- AUDIT_SLOT_TEST, with no card operation in progress, goes to the first QUARANTINED slot: one that passes becomes
FREE at the head of the free list, the counts move and it is counted restored; one that fails stays as it is; with none
left the fourth step begins with the marked orphans to be read (R62, R71, R72). The outcome of the test is the command's
operand, which is the model's choice (log 9), and so is that the slot to test next is fixed as the test before it ends
(log 41). -/
def Obligations.AuditTestsQuarantinedSlots : Prop :=
  ∀ (n : Nat) (s : State), s.Stored → s.tableFree = true →
    s.sweep.walk = some (.audit (.tests n)) → s.sweep.waiting = [] →
    let on := fun (t : State) (a : AuditStep) => { t with sweep := { t.sweep with walk := some (.audit a) } }
    ((∀ m, n ≤ m → s.slot m ≠ some .quarantined) → s.testsFrom n = s.gatherFrom 0 [] ∧
      ∀ passes, exec (.auditSlotTest passes) s = .next (on s (s.gatherFrom 0 []))) ∧
    ∀ m, n ≤ m → m < 12288 → s.slot m = some .quarantined → (∀ j, n ≤ j → j < m → s.slot j ≠ some .quarantined) →
      let t := s.releaseSlot m
      s.testsFrom n = .tests m ∧ exec (.auditSlotTest false) s = .next (on s (s.testsFrom (m + 1))) ∧
      exec (.auditSlotTest true) s =
        .next (on { t with sweep := { t.sweep with
          auditCounts := { s.sweep.auditCounts with restored := s.sweep.auditCounts.restored + 1 } } }
          (t.testsFrom (m + 1))) ∧
      t.slot m = none ∧ (∀ j, j ≠ m → t.slot j = s.slot j) ∧ t.table.free.toList = m :: s.table.free.toList ∧
      t.table.counts = { s.table.counts with
        quarantined := s.table.counts.quarantined - 1, free := s.table.counts.free + 1 }

/-- AUDIT_ORDER_REBUILD in MAINTENANCE, with no record waiting and no card operation in progress, from the first marked
orphan on. When the marked orphans all read, those of the latest arrivals, 512 at most, form the new order, oldest first
and those of equal arrival in slot order; the oldest beyond 512 are released, settled UNMATCHED_EXIT without RECOVERED,
and counted; the audit then ends with every mark clear, holding the quarantined count for its response. With 256 records
queued it stops at the first of these settlements, whose record waits (R68, R72, R139). That the command takes the
rebuild step by step, to its end or over so many steps as its operand says, is the model's choice (R62, R68; log 19). -/
def Obligations.AuditRebuildsTheOrder : Prop :=
  (∀ s : State, s.Stored → s.tableFree = true → s.mode = .maintenance →
    s.sweep.walk = some (.audit (s.gatherFrom 0 [])) → s.sweep.waiting = [] →
    (∃ t, exec (.auditOrderRebuild none) s = .next t ∧ (t.sweep.walk = none → t.table.order.length ≤ 512)) ∧
    ∀ xs : List (Nat × Orphan),
      (∀ n o, (n, o) ∈ xs ↔ n ∈ s.table.marks ∧ s.slot n = some (.allocated (.orphan o) true)) →
      (∀ n ∈ s.table.marks, ∀ o, s.slot n ≠ some (.allocated (.orphan o) false)) →
      xs.Pairwise (fun x y => x.2.arrival < y.2.arrival ∨ x.2.arrival = y.2.arrival ∧ x.1 < y.1) →
      let shed := xs.take (xs.length - 512)
      let stay := xs.drop (xs.length - 512)
      (shed = [] ∨ (s.sweep.kept = [] ∧ s.records.length + shed.length ≤ 256) →
        ∃ t rs, exec (.auditOrderRebuild none) s = .next t ∧ t.sweep.walk = none ∧ t.table.marks = [] ∧
          t.table.order = ⟨stay.head?.map (·.1), stay.getLast?.map (·.1), stay.length⟩ ∧
          (∀ (i n : Nat) (o : Orphan), stay[i]? = some (n, o) → ∃ next,
            t.slot n = some (.allocated (.orphan
              { o with next := next, nextOrder := stay[i + 1]?.map (·.1) }) true) ∧ (shed = [] → next = o.next)) ∧
          (shed = [] → ∀ m, m ∉ xs.map (·.1) → t.slot m = s.slot m) ∧ (∀ x ∈ shed, t.slot x.1 = none) ∧
          t.records = s.records ++ rs ∧
          rs.map (fun r => (r.kind, r.token, r.flags.recovered)) =
            shed.map (fun x => (RecordKind.unmatchedExit, x.2.token, x.2.flags.recovered)) ∧
          t.sweep.auditCounts.rebuildSettled = s.sweep.auditCounts.rebuildSettled + shed.length ∧
          t.auditOp = s.auditOp.map fun a => { a with ended := some t.table.counts.quarantined }) ∧
      ∀ x later, 512 < xs.length → xs = x :: later → 256 ≤ s.records.length →
        ∃ t r, exec (.auditOrderRebuild none) s = .next t ∧
          t.sweep.walk = some (.audit (.shed (later.map (·.1)))) ∧ t.sweep.waiting = [r] ∧ t.records = s.records ∧
          r.kind = .unmatchedExit ∧ r.token = x.2.token ∧ t.slot x.1 = none ∧
          t.sweep.auditCounts.rebuildSettled = s.sweep.auditCounts.rebuildSettled + 1) ∧
  (∀ (k : Nat) (s t : State), exec (.auditOrderRebuild (some 1)) s = .next t →
    exec (.auditOrderRebuild (some (k + 1))) s = exec (.auditOrderRebuild (some k)) t) ∧
  ∀ (n : Nat) (o : Orphan) (s : State), s.Stored → s.tableFree = true → s.sweep.waiting = [] →
    s.slot n = some (.allocated (.orphan o) true) →
    let on := fun (t : State) (a : AuditStep) => { t with sweep := { t.sweep with walk := some (.audit a) } }
    (∀ found, s.sweep.walk = some (.audit (.gather n found)) → n ∈ s.table.marks →
      exec (.auditOrderRebuild (some 1)) s =
        .next (on s (s.gatherFrom (n + 1) (insertByArrival (n, o.arrival) found)))) ∧
    ∀ later, s.sweep.walk = some (.audit (.link (n :: later))) →
      exec (.auditOrderRebuild (some 1)) s =
        .next (on ((s.setNextOrder n none).appendToOrder n) (.link later))

/-! ### Taps, verdicts and records -/

/-- TAP_TAKE: with the queue empty, the stall mark set or a record of an earlier tap waiting, no tap is taken. A tap
that fails the form check in any field is discarded, counted and written to the fault record with its station; a tap in
MAINTENANCE is counted refused and, when live, answered NOT_IN_SERVICE; neither touches the table, the accounts or the
records. A verdict joins the queue when it is fresh and there is room, and is else counted stale (R75 to R78, R82, R83,
R169). None of these has a step at which to rest, whatever the operand (R62). -/
def Obligations.TapsTurnedAwayEarly : Prop :=
  (∀ (steps : Option Nat) (s : State),
    (s.unit = .idle ∧ (s.taps = [] ∨ s.stall = true)) ∨ (∃ rs, s.unit = .appending rs) →
    exec (.tapTake steps) s = .next s) ∧
  (∀ (steps : Option Nat) (s : State) (e : TapEntry) (rest : List TapEntry), s.unit = .idle → s.stall = false →
    s.taps = e :: rest →
    let formed := 1 ≤ e.tap.station ∧ e.tap.station ≤ 64 ∧ 1 ≤ e.tap.gate ∧ e.tap.gate ≤ 64 ∧ e.tap.direction ≤ 1 ∧
      e.tap.time ≤ 863999 ∧ 1 ≤ e.tap.day ∧ e.tap.day ≤ 65535 ∧ e.tap.gateDecided ≤ 1
    let taken := raised s.counters.tapsTaken
    (e.tap.wellFormed = true ↔ formed) ∧
    (¬formed →
      exec (.tapTake steps) s =
        .next { s with
          taps := rest, fault := some ⟨.malformedTap, e.tap.station, s.clock.time⟩
          counters :=
            { s.counters with tapsTaken := taken, malformedTaps := raised s.counters.malformedTaps } }) ∧
    (formed → s.mode = .maintenance →
      let t := { s with
        taps := rest
        counters := { s.counters with tapsTaken := taken, tapsRefused := raised s.counters.tapsRefused } }
      exec (.tapTake steps) s =
        .next (if e.tap.gateDecided = 0 then
          t.offerVerdict e.stamp ⟨e.tap.station, e.tap.gate, e.tap.token, .notInService, .none, none, none⟩ else t))) ∧
  ∀ (s : State) (stamp : Nat) (v : Verdict),
    (stamp ≤ s.clock.time → s.clock.time - stamp ≤ s.settings.timing.verdictLife → s.verdicts.length < 32 →
      s.offerVerdict stamp v = { s with verdicts := s.verdicts ++ [v] }) ∧
    (s.clock.time < stamp ∨ s.settings.timing.verdictLife < s.clock.time - stamp ∨ 32 ≤ s.verdicts.length →
      s.offerVerdict stamp v =
        { s with counters := { s.counters with staleVerdicts := raised s.counters.staleVerdicts } })

/-- A card operation is made step by step, and rests in HANDLING between two of them. TAP_TAKE over one step makes that
step, and rests while any step is left or finishes the tap; over no step a tap is taken, counted, checked and counted no
more, and a tap-in of an earlier day rests before the reckoning that settles it; to its end it always finishes, whatever
the mode has become, taking no further tap and refusing none (R62, R75, R78, R112, R176). From wherever it rests, going
on comes to what the whole would have come to. A tap is checked when it is taken: one of a later day is of the current
day at the service time, one of the current day beyond the future tolerance is at the service time, and class, deny list,
day type and clock doubt are as they stand (R79, R80, R111); an unset day reads as 0 (log 26), and DENIED is no flag of a
live tap-in (log 14). While a tap is in HANDLING no walk examines a slot and no query is taken
(R62), which is the model's choice where it has not made its lookup or makes none (log 38). A match judges clock doubt
and the day type when it is taken (R106). The reckoning and the charge
are two steps: a record whose day is no longer current when it is charged is STALE_DAY, charged its class fare outside
every account with CAP_UNTRACKED, and no account and no counter of untracked fares changes (R13, R15, R62, R119). Which
steps a card operation is made of is the model's choice (log 5), and so is that a step does not read again what an earlier
one has read (log 46). -/
def Obligations.HandlingRestsBetweenSteps : Prop :=
  (∀ (s : State) (e : TapEntry) (rest : List TapEntry) (kind : RecordKind),
    let x := s.checkedTap e
    let late := e.tap.day = s.today ∧ s.clock.time + s.settings.timing.futureTolerance * 10 < e.tap.time
    let clamped := decide (s.today < e.tap.day ∨ late)
    let found := classLookup s.tariff.liveBank e.tap.cls
    let offline := e.tap.gateDecided == 1
    let out := e.tap.direction == 1
    let denied := s.deny.contains e.tap.token
    s.today = s.clock.day.getD 0 ∧
    s.tapTaken rest =
      { s with taps := rest, counters := { s.counters with tapsTaken := raised s.counters.tapsTaken } } ∧
    x = { token := e.tap.token, cls := found.cls, station := e.tap.station, gate := e.tap.gate
          day := if s.today < e.tap.day then s.today else e.tap.day, dayType := s.clock.dayType
          time := if clamped then s.clock.time else e.tap.time, stamp := e.stamp
          earlier := decide (e.tap.day < s.today), offline := offline, denied := denied
          flags :=
            { offlineEntry := offline && !out, offlineExit := offline && out, timeClamped := clamped
              denied := denied && (offline || out), clockDoubt := s.clock.doubt
              classSubstituted := found.substituted } } ∧
    s.tapRecord x kind =
      { kind := kind, token := x.token, cls := x.cls, day := x.day, legs := [⟨some ⟨x.station, x.time⟩, none, none⟩]
        basis := none, classFare := 0, charged := 0, capSpent := none
        flags := x.flags.union { clockDoubt := s.clock.doubt } }) ∧
  (∀ (h : Handling) (x : CardStep) (later : List CardStep) (s : State), s.unit = .handling h → h.steps = x :: later →
    let r := s.cardStep { h with steps := later } x
    (r.1.steps ≠ [] → exec (.tapTake (some 1)) s = .next { r.2 with unit := .handling r.1 }) ∧
    (r.1.steps = [] → exec (.tapTake (some 1)) s = .next (r.2.finishTap r.1.entry r.1.outcome))) ∧
  (∀ (h : Handling) (s : State), s.unit = .handling h →
    (∃ t, exec (.tapTake none) s = .next t ∧ (t.unit = .idle ∨ ∃ rs, t.unit = .appending rs) ∧ t.mode = s.mode ∧
      t.taps = s.taps ∧ t.clock = s.clock ∧ t.tariff = s.tariff ∧ t.deny = s.deny ∧
      t.counters.tapsTaken = s.counters.tapsTaken ∧ t.counters.tapsRefused = s.counters.tapsRefused) ∧
    exec .agePassExamination s = .next s ∧ exec .forcedPassExamination s = .next s ∧
    exec .dayChangeWalkExamination s = .next s ∧ (∀ k, exec (.auditChainWalk k) s = .next s) ∧
    exec .auditSlotExamination s = .next s ∧ (∀ passes, exec (.auditSlotTest passes) s = .next s) ∧
    (∀ k, exec (.auditOrderRebuild k) s = .next s) ∧ ∀ src token, exec (.journeyQuery src token) s = .next s) ∧
  (∀ (s : State) (e : TapEntry) (rest : List TapEntry), s.Takes e rest →
    e.tap.direction = 1 ∨ (s.today ≤ e.tap.day ∧ (e.tap.token ∈ s.deny → e.tap.gateDecided = 1)) →
    exec (.tapTake (some 0)) s =
      .next { s with
        taps := rest, counters := { s.counters with tapsTaken := raised s.counters.tapsTaken }
        unit := .handling ⟨e, s.checkedTap e, [.lookup], ⟨.allow, .none, none, none, []⟩⟩ }) ∧
  (∀ (s : State) (e : TapEntry) (rest : List TapEntry), s.Takes e rest →
    e.tap.direction = 0 → e.tap.day < s.today → (e.tap.token ∈ s.deny → e.tap.gateDecided = 1) →
    let x := s.checkedTap e
    exec (.tapTake (some 0)) s =
      .next { s with
        taps := rest, counters := { s.counters with tapsTaken := raised s.counters.tapsTaken }
        unit := .handling ⟨e, x,
          [.reckon ⟨e.tap.token, x.cls, e.tap.day, x.flags,
            .incomplete [⟨some ⟨e.tap.station, e.tap.time⟩, none, none⟩]⟩ false],
          ⟨.allowNote, .untracked, none, none, []⟩⟩ }) ∧
  (∀ (k : Nat) (s t : State), exec (.tapTake (some k)) s = .next t → (∃ h, t.unit = .handling h) →
    exec (.tapTake none) s = exec (.tapTake none) t ∧
    ∀ j, exec (.tapTake (some (k + j))) s = exec (.tapTake (some j)) t) ∧
  (∀ (h : Handling) (n : Nat) (o : Orphan) (p : Predecessor) (s : State),
    s.unit = .handling h → h.steps = [.matchOrphan n o p] →
    let x := h.context
    let r := (s.releaseOrphan n o.token p).settle
      { token := x.token, cls := x.cls, day := o.day, flags := { x.flags with clockDoubt := false }.union o.flags
        case := if o.exitStation = x.station then .sameStation x.station x.time o.exitTime
          else .completed s.clock.dayType x.time
            [⟨some ⟨x.station, x.time⟩, some ⟨o.exitStation, o.exitTime⟩, none⟩] }
    exec (.tapTake none) s =
      .next (r.2.finishTap h.entry { h.outcome with
        charged := some r.1.record.charged, capRemaining := r.1.capRemaining
        records := h.outcome.records ++ [r.1.record] }) ∧
    r.1.record.flags.clockDoubt = (o.flags.clockDoubt || s.clock.doubt)) ∧
  (∀ (h : Handling) (q : SettlementRequest) (own : Bool) (later : List CardStep) (cap : Nat) (s : State),
    s.unit = .handling h → h.steps = .reckon q own :: later → (s.reckon q).dailyCap = some cap →
    exec (.tapTake (some 1)) s =
      .next { s with unit := .handling { h with steps := .charge (s.reckon q) own :: later } }) ∧
  ∀ (h : Handling) (r : Reckoned) (cap : Nat) (s : State),
    s.unit = .handling h → h.steps = [.charge r true] → r.dailyCap = some cap → r.record.day ≠ s.today →
    exec (.tapTake (some 1)) s =
      .next (s.finishTap h.entry { h.outcome with
        charged := some r.record.charged, capRemaining := none
        records := h.outcome.records ++
          [{ r.record with flags := r.record.flags.union { capUntracked := true } }] })

/-- A tap-in of the current day, or of a later day and taken as of the current one, whose card has an empty bucket chain
and is not refused, opens a journey in the slot at the head of the free list, linked at the head of its chain, with the
day, class, station, time and flags of R79, R80 and R90; a live tap is offered OPEN with reason NONE, and there is no
record. Shortage is declared when the free count comes to the shortage level or below with the mark clear. With no slot
to be had the tap is let through with OPEN_NOTE and UNTRACKED, its record is ENTRY_UNTRACKED, and the table is left
(R59, R61, R75, R79, R80, R82, R85, R90, R91, R140). -/
def Obligations.TapInOpensAJourney : Prop :=
  ∀ (s : State) (e : TapEntry) (rest : List TapEntry), s.Takes e rest →
    e.tap.direction = 0 → s.today ≤ e.tap.day → (e.tap.token ∈ s.deny → e.tap.gateDecided = 1) →
    s.bucketHead (bucketOf e.tap.token) = none →
    let clamped := decide (s.today < e.tap.day ∨ s.clock.time + s.settings.timing.futureTolerance * 10 < e.tap.time)
    let time := if clamped then s.clock.time else e.tap.time
    let found := classLookup s.tariff.liveBank e.tap.cls
    let flags : Flags :=
      { offlineEntry := e.tap.gateDecided == 1, timeClamped := clamped, clockDoubt := s.clock.doubt
        denied := s.deny.contains e.tap.token, classSubstituted := found.substituted }
    let offered := fun (v : VerdictKind) (reason : Reason) => if e.tap.gateDecided = 0 then
      s.offerVerdict e.stamp ⟨e.tap.station, e.tap.gate, e.tap.token, v, reason, none, none⟩ else s
    let declares := s.table.shortage = false ∧ s.table.counts.free - 1 ≤ s.settings.journey.shortageLevel
    (∀ n f, s.table.free.take = some (n, f) →
      ∃ t, exec (.tapTake none) s = .next t ∧
      t.slot n = some (.allocated (.core
        { token := e.tap.token, cls := found.cls, day := s.today, dayType := s.clock.dayType, state := .opened
          entryStation := e.tap.station, entryTime := time, firstEntryTime := time, entryGate := e.tap.gate
          extensions := [], next := none, flags := flags }) true) ∧
      (∀ m, m ≠ n → t.slot m = s.slot m) ∧ t.bucketHead (bucketOf e.tap.token) = some n ∧
      (∀ b, b ≠ bucketOf e.tap.token → t.bucketHead b = s.bucketHead b) ∧ t.table.free = f ∧
      t.table.counts = { s.table.counts with free := s.table.counts.free - 1, cores := s.table.counts.cores + 1 } ∧
      t.table.order = s.table.order ∧ t.cap = s.cap ∧ t.records = s.records ∧ t.taps = rest ∧ t.unit = .idle ∧
      t.tariff = s.tariff ∧ t.deny = s.deny ∧ t.clock = s.clock ∧ t.settings = s.settings ∧ t.mode = s.mode ∧
      t.verdicts = (offered .allow .none).verdicts ∧
      t.counters = { (offered .allow .none).counters with tapsTaken := raised s.counters.tapsTaken } ∧
      (¬declares → t.table.shortage = s.table.shortage ∧ t.notices = s.notices ∧ t.sweep = s.sweep) ∧
      (declares → t.table.shortage = true ∧
        t.notices = raiseIn s.notices (.shortage (s.table.counts.free - 1)) s.clock.time ∧
        (s.sweep.forcedAge ≠ none → t.sweep = s.sweep) ∧
        (s.sweep.forcedAge = none → t.sweep.forcedAge = some (s.settings.journey.maxDuration * 600 / 2) ∧
          (s.sweep.walk = none → t.sweep.walk = some (.forced 0 true) ∧ t.sweep.pendingExpiry = false) ∧
          (s.sweep.walk ≠ none → t.sweep.walk = s.sweep.walk ∧ t.sweep.pendingExpiry = s.sweep.pendingExpiry)))) ∧
    (s.table.free.take = none → s.records.length < 256 →
      ∃ t, exec (.tapTake none) s = .next t ∧ t.table = s.table ∧ t.cap = s.cap ∧ t.taps = rest ∧ t.unit = .idle ∧
        t.verdicts = (offered .allowNote .untracked).verdicts ∧
        t.records = s.records ++ [⟨.entryUntracked, e.tap.token, found.cls, s.today,
          [⟨some ⟨e.tap.station, time⟩, none, none⟩], none, 0, 0, none, flags⟩])

/-- A tap-in of the current day, or of a later one, that is not refused, by what its lookup finds, to its end. No
journey: it opens one. An OPEN journey of the current day: a REFUSAL in the passback position, else the journey is
settled INCOMPLETE and one is opened, with OPEN_NOTE and PREVIOUS_SETTLED. A BROKEN journey of the current day: within
the break window it is continued, its core OPEN again at this station and time, else it is settled over its completed
legs and one is opened. A journey of another day is settled as the day-change walk would and one is opened. An orphan it
matches, of the current day with its exit at or after the tap-in and within the maximum journey duration, is released
and their trip settled, with the charge in the verdict; one it does not match is settled UNMATCHED_EXIT and a journey
opened. Where no slot can be had the tap is UNTRACKED, after what was settled (R61, R85 to R91, R98, R105 to R108,
R145). -/
def Obligations.TapInByWhatItFinds : Prop :=
  ∀ (s : State) (e : TapEntry) (rest : List TapEntry), s.Takes e rest →
    e.tap.direction = 0 → s.today ≤ e.tap.day → (e.tap.token ∈ s.deny → e.tap.gateDecided = 1) →
    let x := s.checkedTap e
    let found := (s.tapTaken rest).lookup e.tap.token
    let l := found.2
    let gives := fun (u : State) (o : TapOutcome) => exec (.tapTake none) s = .next (u.finishTap e o)
    let opens := fun (u : State) (v : VerdictKind) (reason : Reason) (rs : List JourneyRecord) =>
      (∀ n t, u.allocateLinked e.tap.token (.core
          { token := e.tap.token, cls := x.cls, day := s.today, dayType := s.clock.dayType, state := .opened
            entryStation := e.tap.station, entryTime := x.time, firstEntryTime := x.time, entryGate := e.tap.gate
            extensions := [], flags := x.flags, next := none }) = (some n, t) →
        gives t ⟨v, reason, none, none, rs⟩) ∧
      (u.table.free.take = none →
        gives u ⟨.allowNote, .untracked, none, none, rs ++ [u.tapRecord x .entryUntracked]⟩)
    (found.1 = none → opens l .allow .none []) ∧
    (∀ p n c, found.1 = some ⟨p, n, .core c⟩ → c.day = s.today →
      (c.state = .opened →
        let passback := e.tap.station = c.entryStation ∧ x.time - c.entryTime ≤ s.settings.journey.passbackWindow * 10
        (passback → gives l ⟨.refuse, .alreadyInside, none, none, [l.tapRecord x .refusal]⟩) ∧
        (¬passback → opens (l.settleCore n c .incomplete {} (.known p)).2 .allowNote .previousSettled
          [(l.settleCore n c .incomplete {} (.known p)).1.record])) ∧
      ∀ out, c.state = .broken out →
        (x.time - out ≤ s.settings.journey.breakWindow * 600 →
          gives (l.rewrite n (.core { c with
            state := .opened, entryStation := e.tap.station, entryTime := x.time
            flags := c.flags.union
              { offlineEntry := e.tap.gateDecided == 1, timeClamped := x.flags.timeClamped
                denied := x.flags.denied, clockDoubt := x.flags.clockDoubt } })) ⟨.allow, .none, none, none, []⟩) ∧
        (s.settings.journey.breakWindow * 600 < x.time - out →
          opens (l.settleCore n c .completedLegs {} (.known p)).2 .allow .none
            [(l.settleCore n c .completedLegs {} (.known p)).1.record])) ∧
    (∀ p n c how, found.1 = some ⟨p, n, .core c⟩ → c.day ≠ s.today →
      how = (match c.state with
        | .opened => Closing.incomplete
        | .broken _ => Closing.completedLegs) →
      opens (l.settleCore n c how {} (.known p)).2 .allow .none [(l.settleCore n c how {} (.known p)).1.record]) ∧
    ∀ p n o, found.1 = some ⟨p, n, .orphan o⟩ →
      let matching := o.day = s.today ∧ x.time ≤ o.exitTime ∧
        o.exitTime - x.time ≤ s.settings.journey.maxDuration * 600
      let trip : SettlementRequest :=
        { token := e.tap.token, cls := x.cls, day := s.today, flags := { x.flags with clockDoubt := false }.union o.flags
          case := if o.exitStation = e.tap.station then .sameStation e.tap.station x.time o.exitTime
            else .completed s.clock.dayType x.time
              [⟨some ⟨e.tap.station, x.time⟩, some ⟨o.exitStation, o.exitTime⟩, none⟩] }
      let r := (l.releaseOrphan n o.token (.known p)).settle trip
      (matching → gives r.2 ⟨.allow, .none, some r.1.record.charged, r.1.capRemaining, [r.1.record]⟩) ∧
      (¬matching → opens (l.settleOrphan n o {} (.known p)).2 .allow .none [(l.settleOrphan n o {} (.known p)).1])

/-- A tap-out of the current day, or of a later one and taken as of the current day at the service time, that finds its
card's OPEN journey of the current day, anywhere on its chain. A journey of one leg, with room for a record: out where it
went in and within the grace it is ENTRY_CANCELLED, charged 0; beyond the grace COMPLETE at the same-station fee;
elsewhere, with no break permitted there, COMPLETE over the one leg, priced by Stages 1 to 4; a COMPLETE record goes
through Stage Five, which gives its charge, its account and its flags, and the verdict its cap remaining; the journey is
released and unlinked. Where a break is permitted and the journey has fewer than two completed legs it is held there, its
leg written into an extension, with no record; with no slot to be had, or with two completed legs, the exit is final and
settles every leg (R13 to R15, R17, R18, R54, R61, R79, R81, R92 to R96, R99). -/
def Obligations.TapOutEndsTheJourney : Prop :=
  ∀ (s : State) (e : TapEntry) (rest : List TapEntry) (n : Nat) (c : Core) (before : List (Nat × Content)), s.Stored →
    s.Takes e rest → e.tap.direction = 1 → s.today ≤ e.tap.day → before.length ≤ 12288 →
    s.Leads Content.inBucket (s.bucketHead (bucketOf e.tap.token)) before (some n) →
    (∀ x ∈ before, ∀ next, x.2.link ≠ some (e.tap.token, next)) →
    s.slot n = some (.allocated (.core c) true) → c.token = e.tap.token → c.day = s.today → c.state = .opened →
    let bank := s.tariff.liveBank
    let prev := before.getLast?.map (·.1)
    let late := decide (s.today < e.tap.day ∨ s.clock.time + s.settings.timing.futureTolerance * 10 < e.tap.time)
    let time := if late then s.clock.time else e.tap.time
    let exit := max time c.entryTime
    let clamped := late || decide (time < c.entryTime)
    let denied := s.deny.contains e.tap.token
    let exitFlags : Flags := { offlineExit := e.tap.gateDecided == 1, timeClamped := clamped, denied := denied }
    let metres := legMetres bank c.entryStation e.tap.station
    let found := classLookup bank c.cls
    let offered := fun (reason : Reason) (charged cap : Option Nat) => (if e.tap.gateDecided = 0 then
      s.offerVerdict e.stamp ⟨e.tap.station, e.tap.gate, e.tap.token, .allow, reason, charged, cap⟩ else s).verdicts
    let record := fun (kind : RecordKind) (length : Nat) (basis : Option FareBasis) (fare : Nat) =>
      ({ kind := kind, token := e.tap.token, cls := found.cls, day := c.day
         legs := [⟨some ⟨c.entryStation, c.entryTime⟩, some ⟨e.tap.station, exit⟩, some length⟩], basis := basis
         classFare := fare, charged := fare, capSpent := none
         flags := ((c.flags.union exitFlags).union { clockDoubt := s.clock.doubt }).union
           { classSubstituted := found.substituted } } : JourneyRecord)
    let ends := fun (r : Settled × State) =>
      ∃ t, exec (.tapTake none) s = .next t ∧ t.records = s.records ++ [r.1.record] ∧ t.cap = r.2.cap ∧
        t.counters.capUntracked = r.2.counters.capUntracked ∧ t.slot n = none ∧
        (∀ m, m ≠ n → prev ≠ some m → t.slot m = s.slot m) ∧
        (before = [] → t.bucketHead (bucketOf e.tap.token) = c.next) ∧
        (∀ y, before.getLast? = some y → t.bucketHead (bucketOf e.tap.token) = s.bucketHead (bucketOf e.tap.token) ∧
          t.slot y.1 = some (.allocated (y.2.withNext c.next) true)) ∧
        t.table.counts = { s.table.counts with cores := s.table.counts.cores - 1, free := s.table.counts.free + 1 } ∧
        t.unit = .idle ∧ t.taps = rest ∧ t.verdicts = offered .none (some r.1.record.charged) r.1.capRemaining
    let priced := staged bank c.dayType (c.firstEntryTime / 600) (fareDistance bank metres) found.entry
    let u := s.tapTaken rest
    let settled := fun (how : Closing) =>
      exec (.tapTake none) s = .next ((u.settleCore n c how exitFlags (.known prev)).2.finishTap e
        ⟨.allow, .none, some (u.settleCore n c how exitFlags (.known prev)).1.record.charged,
          (u.settleCore n c how exitFlags (.known prev)).1.capRemaining,
          [(u.settleCore n c how exitFlags (.known prev)).1.record]⟩)
    (c.extensions = [] → s.records.length < 256 →
      (e.tap.station = c.entryStation →
        (exit - c.entryTime ≤ (constantsOf bank).sameStationGrace * 600 →
          ends (⟨record .entryCancelled 0 none 0, none⟩, s)) ∧
        ((constantsOf bank).sameStationGrace * 600 < exit - c.entryTime →
          ends (s.capStage found.entry.dailyCap
            (record .complete 0 (some ⟨0, 0, 100⟩) (constantsOf bank).sameStationFee)))) ∧
      (e.tap.station ≠ c.entryStation → breakPermittedAt bank e.tap.station = false →
        ends (s.capStage found.entry.dailyCap (record .complete metres (some priced.1) priced.2)))) ∧
    (c.extensions = [] → e.tap.station = c.entryStation → settled (.sameStation exit)) ∧
    (c.extensions ≠ [] ∨ e.tap.station ≠ c.entryStation →
      (breakPermittedAt bank e.tap.station = false ∨ 2 ≤ c.extensions.length ∨ s.table.free.take = none →
        settled (.final e.tap.station exit)) ∧
      ∀ x f, breakPermittedAt bank e.tap.station = true → c.extensions.length < 2 →
        s.table.free.take = some (x, f) →
        ∃ t, exec (.tapTake none) s = .next t ∧ t.records = s.records ∧ t.unit = .idle ∧ t.taps = rest ∧
          t.slot x = some (.allocated (.extension
            ⟨c.entryStation, c.entryTime, e.tap.station, exit, metres, n⟩) true) ∧
          t.slot n = some (.allocated (.core { c with
            state := .broken exit, extensions := c.extensions ++ [x]
            flags := c.flags.union { timeClamped := clamped, denied := denied, clockDoubt := s.clock.doubt } }) true) ∧
          (∀ m, m ≠ n → m ≠ x → t.slot m = s.slot m) ∧ t.table.heads = s.table.heads ∧ t.cap = s.cap ∧
          t.table.free = f ∧ t.verdicts = offered .journeyHeld (some 0) none)

/-- A tap-out of the current day, or of a later one, that finds no OPEN journey of the current day, by what its lookup
finds, to its end, with OPEN and NO_ENTRY_FOUND: a BROKEN journey is settled over its completed legs, a journey of
another day as the day-change walk would, and an orphan UNMATCHED_EXIT; then the tap-out is stored as an orphan and
joins the orphan order. With 512 orphans on the order the oldest is settled first; a head that fails on reading, or is
QUARANTINED, cuts the order to nothing instead. With no slot to be had the tap-out is settled UNMATCHED_EXIT at once. An
orphan joins an empty order as its only one, and another after a tail that passes (R57, R58, R61, R66, R92, R97, R101,
R102, R115). That the predecessor of the oldest on its chain is sought by a walk is DEDUCED (log 39). -/
def Obligations.TapOutStoresAnOrphan : Prop :=
  (∀ (s : State) (e : TapEntry) (rest : List TapEntry), s.Takes e rest → e.tap.direction = 1 → s.today ≤ e.tap.day →
    let x := s.checkedTap e
    let found := (s.tapTaken rest).lookup e.tap.token
    let l := found.2
    let gives := fun (u : State) (rs : List JourneyRecord) =>
      exec (.tapTake none) s = .next (u.finishTap e ⟨.allow, .noEntryFound, none, none, rs⟩)
    let stored := fun (u : State) (rs : List JourneyRecord) =>
      (∀ n t, u.allocateLinked e.tap.token (.orphan
          { token := e.tap.token, cls := x.cls, day := s.today, exitStation := e.tap.station
            exitGate := e.tap.gate, exitTime := x.time, arrival := e.stamp, flags := x.flags, next := none
            nextOrder := none }) = (some n, t) → gives (t.appendToOrder n) rs) ∧
      (u.table.free.take = none → gives u (rs ++
        [(u.reckon ⟨e.tap.token, x.cls, s.today, x.flags, .unmatched e.tap.station x.time⟩).record]))
    let stores := fun (u : State) (rs : List JourneyRecord) =>
      (u.table.order.length < 512 → stored u rs) ∧
      (512 ≤ u.table.order.length → ∀ n, u.table.order.head = some n →
        (∀ o, u.slot n = some (.allocated (.orphan o) true) →
          stored (u.settleOrphan n o {}).2 (rs ++ [(u.settleOrphan n o {}).1])) ∧
        (∀ d, u.slot n = some (.allocated d false) → stored ((u.quarantine n).setOrder ⟨none, none, 0⟩) rs) ∧
        (u.slot n = some .quarantined → stored (u.setOrder ⟨none, none, 0⟩) rs))
    (found.1 = none → stores l []) ∧
    (∀ p n c out, found.1 = some ⟨p, n, .core c⟩ → c.day = s.today → c.state = .broken out →
      stores (l.settleCore n c .completedLegs {} (.known p)).2 [(l.settleCore n c .completedLegs {} (.known p)).1.record]) ∧
    (∀ p n c how, found.1 = some ⟨p, n, .core c⟩ → c.day ≠ s.today →
      how = (match c.state with
        | .opened => Closing.incomplete
        | .broken _ => Closing.completedLegs) →
      stores (l.settleCore n c how {} (.known p)).2 [(l.settleCore n c how {} (.known p)).1.record]) ∧
    ∀ p n o, found.1 = some ⟨p, n, .orphan o⟩ →
      stores (l.settleOrphan n o {} (.known p)).2 [(l.settleOrphan n o {} (.known p)).1]) ∧
  (∀ (s : State) (n : Nat),
    (s.table.order.tail = none → s.appendToOrder n = s.setOrder ⟨some n, some n, 1⟩) ∧
    ∀ m o, s.table.order.tail = some m → s.slot m = some (.allocated (.orphan o) true) →
      s.appendToOrder n = (s.rewrite m (.orphan { o with nextOrder := some n })).setOrder
        ⟨s.table.order.head, some n, s.table.order.length + 1⟩) ∧
  ∀ (s : State) (e : TapEntry) (rest : List TapEntry) (n : Nat) (f : FreeList), s.Stored → s.Takes e rest →
    e.tap.direction = 1 → s.today ≤ e.tap.day → s.bucketHead (bucketOf e.tap.token) = none →
    s.table.order.length < 512 → s.table.free.take = some (n, f) →
    let clamped := decide (s.today < e.tap.day ∨ s.clock.time + s.settings.timing.futureTolerance * 10 < e.tap.time)
    let found := classLookup s.tariff.liveBank e.tap.cls
    let placed := fun (order : OrphanOrder) (same : Nat → Prop) =>
      ∃ t, exec (.tapTake none) s = .next t ∧
        t.slot n = some (.allocated (.orphan
          { token := e.tap.token, cls := found.cls, day := s.today, exitStation := e.tap.station
            exitGate := e.tap.gate, exitTime := if clamped then s.clock.time else e.tap.time, arrival := e.stamp
            next := none, nextOrder := none
            flags := { offlineExit := e.tap.gateDecided == 1, timeClamped := clamped, clockDoubt := s.clock.doubt
                       denied := s.deny.contains e.tap.token, classSubstituted := found.substituted } }) true) ∧
        t.bucketHead (bucketOf e.tap.token) = some n ∧ t.table.order = order ∧ t.table.free = f ∧
        t.table.counts = { s.table.counts with
          free := s.table.counts.free - 1, orphans := s.table.counts.orphans + 1 } ∧
        t.records = s.records ∧ t.cap = s.cap ∧ t.unit = .idle ∧ (∀ m, m ≠ n → same m → t.slot m = s.slot m) ∧
        (∀ m o, ¬same m → s.slot m = some (.allocated (.orphan o) true) →
          t.slot m = some (.allocated (.orphan { o with nextOrder := some n }) true)) ∧
        t.verdicts = (if e.tap.gateDecided = 0 then
          s.offerVerdict e.stamp ⟨e.tap.station, e.tap.gate, e.tap.token, .allow, .noEntryFound, none, none⟩
          else s).verdicts
    (s.table.order.tail = none → placed ⟨some n, some n, 1⟩ fun _ => True) ∧
    ∀ m o, s.table.order.tail = some m → s.slot m = some (.allocated (.orphan o) true) →
      placed ⟨s.table.order.head, some n, s.table.order.length + 1⟩ fun k => k ≠ m

/-- A tap of an earlier day in SERVICE, to its end; its day and time are kept. A tap-in not refused is let through with
OPEN_NOTE and UNTRACKED and settled INCOMPLETE at once at the penalty fare, the table left as it is. A tap-out that
finds its card's OPEN journey of its own day ends it, by a same-station exit or a final exit; one that finds another
journey not of the current day settles it as the day-change walk would, and is then settled UNMATCHED_EXIT; one that
finds a journey of the current day, an orphan or nothing leaves it and is settled UNMATCHED_EXIT; each of these is
offered OPEN, NO_ENTRY_FOUND (R79, R111 to R115). -/
def Obligations.EarlierDayTaps : Prop :=
  ∀ (s : State) (e : TapEntry) (rest : List TapEntry), s.Takes e rest → e.tap.day < s.today →
    let x := s.checkedTap e
    let u := s.tapTaken rest
    let found := u.lookup e.tap.token
    let l := found.2
    let priced := classLookup s.tariff.liveBank e.tap.cls
    let gives := fun (u : State) (o : TapOutcome) => exec (.tapTake none) s = .next (u.finishTap e o)
    let unmatched := fun (u : State) (rs : List JourneyRecord) =>
      gives u ⟨.allow, .noEntryFound, none, none, rs ++
        [(u.reckon ⟨e.tap.token, x.cls, e.tap.day, x.flags, .unmatched e.tap.station e.tap.time⟩).record]⟩
    x.day = e.tap.day ∧ x.time = e.tap.time ∧ x.flags.timeClamped = false ∧
    (e.tap.direction = 0 → (e.tap.token ∈ s.deny → e.tap.gateDecided = 1) → ∃ r,
      gives u ⟨.allowNote, .untracked, none, none, [r]⟩ ∧ r.kind = .incomplete ∧ r.token = e.tap.token ∧
        r.day = e.tap.day ∧ r.legs = [⟨some ⟨e.tap.station, e.tap.time⟩, none, none⟩] ∧
        r.cls = (classLookup s.tariff.liveBank x.cls).cls ∧ x.cls = priced.cls ∧
        r.classFare = classFare (classLookup s.tariff.liveBank x.cls).entry
          ((constantsOf s.tariff.liveBank).fareCeiling * 10) ∧
        r.charged = r.classFare ∧ r.capSpent = none) ∧
    (e.tap.direction = 1 →
      (found.1 = none → unmatched l []) ∧
      (∀ p n o, found.1 = some ⟨p, n, .orphan o⟩ → unmatched l []) ∧
      ∀ p n c, found.1 = some ⟨p, n, .core c⟩ →
        (c.day = s.today → unmatched l []) ∧
        (c.day = e.tap.day → c.state = .opened →
          let exit := max e.tap.time c.entryTime
          let how := if c.extensions = [] ∧ e.tap.station = c.entryStation then Closing.sameStation exit
            else .final e.tap.station exit
          let r := l.settleCore n c how
            { offlineExit := e.tap.gateDecided == 1, timeClamped := decide (e.tap.time < c.entryTime)
              denied := s.deny.contains e.tap.token } (.known p)
          gives r.2 ⟨.allow, .none, some r.1.record.charged, r.1.capRemaining, [r.1.record]⟩) ∧
        (c.day ≠ s.today → c.day ≠ e.tap.day ∨ c.state ≠ .opened → ∀ how,
          how = (match c.state with
            | .opened => Closing.incomplete
            | .broken _ => Closing.completedLegs) →
          unmatched (l.settleCore n c how {} (.known p)).2 [(l.settleCore n c how {} (.known p)).1.record]))

/-- A live tap-in of a card on the deny list, of any day, and a tap-in in the passback position, live or offline: a
REFUSAL record of the tap, charged 0, REFUSE with reason DENIED or ALREADY_INSIDE for a live tap, and no slot, chain,
count or account changed (R83, R84, R86, R99). -/
def Obligations.RefusedTapInsChangeNoJourney : Prop :=
  ∀ (s : State) (e : TapEntry) (rest : List TapEntry), s.Takes e rest → e.tap.direction = 0 → s.records.length < 256 →
    let x := s.checkedTap e
    let refused := fun (steps : Option Nat) (reason : Reason) =>
      ∃ t r, exec (.tapTake steps) s = .next t ∧ t.table = s.table ∧ t.cap = s.cap ∧ t.taps = rest ∧ t.unit = .idle ∧
        t.records = s.records ++ [r] ∧ r.kind = .refusal ∧ r.token = e.tap.token ∧ r.day = x.day ∧
        r.cls = (classLookup s.tariff.liveBank e.tap.cls).cls ∧
        r.legs = [⟨some ⟨e.tap.station, x.time⟩, none, none⟩] ∧ r.basis = none ∧ r.classFare = 0 ∧ r.charged = 0 ∧
        r.capSpent = none ∧ (r.flags.offlineEntry = true ↔ e.tap.gateDecided = 1) ∧
        t.verdicts = (if e.tap.gateDecided = 0 then
          s.offerVerdict e.stamp ⟨e.tap.station, e.tap.gate, e.tap.token, .refuse, reason, none, none⟩ else s).verdicts
    (e.tap.day = s.today → x.day = s.today ∧ x.time =
      if s.clock.time + s.settings.timing.futureTolerance * 10 < e.tap.time then s.clock.time else e.tap.time) ∧
    (e.tap.gateDecided = 0 → e.tap.token ∈ s.deny → ∀ steps, refused steps .denied) ∧
    ∀ n c, (e.tap.token ∈ s.deny → e.tap.gateDecided = 1) → s.today ≤ e.tap.day →
      s.bucketHead (bucketOf e.tap.token) = some n → s.slot n = some (.allocated (.core c) true) →
      c.token = e.tap.token → c.day = s.today → c.state = .opened → c.entryStation = e.tap.station →
      x.time - c.entryTime ≤ s.settings.journey.passbackWindow * 10 → refused none .alreadyInside

/-- A reckoning fills its record. A journey to be completed: COMPLETE, each leg that has both ends and no metres
measured, priced by Stages 1 to 4 in the day type and at the first entry given, and tested for Stage Five. A
same-station exit: within the grace ENTRY_CANCELLED charged 0, beyond it COMPLETE at the same-station fee, tested for
Stage Five. A journey to be settled incomplete: INCOMPLETE at the penalty fare with the ceiling as its distance fare. An
exit without entry: UNMATCHED_EXIT, priced over the unmatched distance in the day type and at the minute of the exit.
Class and substitution are as looked up in the live bank: a number of 0 to 15 in use gives itself and its entry, any
other gives class 0, its entry and the substitution; the flags are joined, each set when either set has it; CLOCK_DOUBT as the clock stands, and the class fare is the
charge until Stage Five changes it (R1 to R3, R5, R6, R17 to R22, R99). -/
def Obligations.SettlementsFillTheirRecords : Prop :=
  (∀ (b : Bank) (n : Nat) (zero : ClassEntry), b.classes.entries[0]? = some zero →
    (∀ e, n ≤ 15 → b.classes.entries[n]? = some e →
      (e.inUse = true → classLookup b n = ⟨n, e, false⟩) ∧ (e.inUse = false → classLookup b n = ⟨0, zero, true⟩)) ∧
    (15 < n → classLookup b n = ⟨0, zero, true⟩)) ∧
  (∀ a b : Flags, a.union b =
    ⟨a.offlineEntry || b.offlineEntry, a.offlineExit || b.offlineExit, a.clockDoubt || b.clockDoubt,
      a.timeClamped || b.timeClamped, a.denied || b.denied, a.capUntracked || b.capUntracked,
      a.classSubstituted || b.classSubstituted, a.damaged || b.damaged, a.recovered || b.recovered,
      a.forced || b.forced⟩) ∧
  (∀ (s : State) (token : Token) (cls day : Nat) (flags : Flags),
    let bank := s.tariff.liveBank
    let found := classLookup bank cls
    let record := fun (kind : RecordKind) (legs : List RecordLeg) (basis : FareBasis) (fare : Nat) =>
      (⟨kind, token, found.cls, day, legs, some basis, fare, fare, none,
        (flags.union { clockDoubt := s.clock.doubt }).union { classSubstituted := found.substituted }⟩ : JourneyRecord)
    (∀ dayType first legs,
      let legs' := legs.map (RecordLeg.measured bank)
      let fare := staged bank dayType (first / 600) (fareDistance bank (legs'.map fun l => l.metres.getD 0).sum) found.entry
      s.reckon ⟨token, cls, day, flags, .completed dayType first legs⟩ =
        s.testCap found.entry.dailyCap (record .complete legs' fare.1 fare.2)) ∧
    (∀ station entry exit,
      let leg : RecordLeg := ⟨some ⟨station, entry⟩, some ⟨station, exit⟩, some 0⟩
      (exit - entry ≤ (constantsOf bank).sameStationGrace * 600 →
        s.reckon ⟨token, cls, day, flags, .sameStation station entry exit⟩ =
          ⟨{ record .entryCancelled [leg] ⟨0, 0, 0⟩ 0 with basis := none }, none⟩) ∧
      ((constantsOf bank).sameStationGrace * 600 < exit - entry →
        s.reckon ⟨token, cls, day, flags, .sameStation station entry exit⟩ =
          s.testCap found.entry.dailyCap (record .complete [leg] ⟨0, 0, 100⟩ (constantsOf bank).sameStationFee))) ∧
    (∀ legs,
      let ceiling := (constantsOf bank).fareCeiling * 10
      s.reckon ⟨token, cls, day, flags, .incomplete legs⟩ =
        ⟨record .incomplete legs ⟨0, ceiling, 100⟩ (classFare found.entry ceiling), none⟩) ∧
    ∀ station exit,
      let metres := unmatchedMetres bank station
      let fare := staged bank s.clock.dayType (exit / 600) (fareDistance bank metres) found.entry
      s.reckon ⟨token, cls, day, flags, .unmatched station exit⟩ =
        ⟨record .unmatchedExit [⟨none, some ⟨station, exit⟩, some metres⟩] fare.1 fare.2, none⟩) ∧
  (∀ (b : Bank) (entry exit : StationTime),
    (⟨some entry, some exit, none⟩ : RecordLeg).measured b =
      ⟨some entry, some exit, some (legMetres b entry.station exit.station)⟩) ∧
  ∀ (b : Bank) (l : RecordLeg), l.entry = none ∨ l.exit = none ∨ l.metres ≠ none → l.measured b = l

/-- The end of a tap's handling offers the verdict of a live tap, and then appends its records in order while fewer than
256 are queued; the rest wait, first in first out, and the unit appends them (R75, R82, R100). RECORD_APPEND and
WALK_RECORD_APPEND with fewer than 256 records queued append the first record that waits, a record kept from an ended
pass before one of the walk in flight, raise its kind's counter and set the stall mark at 240; with 256 queued, nothing
moves. A record that a walk forms is appended at once when there is room and none waits before it (R76, R100, R139); that
the append of the last one that waited of a walk with nothing left to examine ends the walk is DEDUCED from R139 (log 20). A counter rises by one and stays at
4,294,967,295, and each kind of record, and each port's bad frames, misplaced frames and line errors, raise their own
counter and no other (R168). -/
def Obligations.WaitingRecordsAreAppended : Prop :=
  (∀ (n : Nat) (c : Counters),
    (n < 4294967295 → raised n = n + 1) ∧ raised 4294967295 = 4294967295 ∧
    c.countRecord .complete = { c with complete := raised c.complete } ∧
    c.countRecord .incomplete = { c with incomplete := raised c.incomplete } ∧
    c.countRecord .unmatchedExit = { c with unmatchedExit := raised c.unmatchedExit } ∧
    c.countRecord .entryCancelled = { c with entryCancelled := raised c.entryCancelled } ∧
    c.countRecord .refusal = { c with refusal := raised c.refusal } ∧
    c.countRecord .entryUntracked = { c with entryUntracked := raised c.entryUntracked } ∧
    c.badFrame .line = { c with badFramesLine := raised c.badFramesLine } ∧
    c.badFrame .office = { c with badFramesOffice := raised c.badFramesOffice } ∧
    c.misplaced .line = { c with misplacedLine := raised c.misplacedLine } ∧
    c.misplaced .office = { c with misplacedOffice := raised c.misplacedOffice } ∧
    c.lineError .line = { c with lineErrorsLine := raised c.lineErrorsLine } ∧
    c.lineError .office = { c with lineErrorsOffice := raised c.lineErrorsOffice }) ∧
  (∀ (s : State) (e : TapEntry) (o : TapOutcome),
    let u := if e.tap.gateDecided = 0 then
      s.offerVerdict e.stamp ⟨e.tap.station, e.tap.gate, e.tap.token, o.verdict, o.reason, o.charged, o.capRemaining⟩
      else s
    (s.records.length + o.records.length ≤ 256 →
      s.finishTap e o = { o.records.foldl State.appendRecord u with unit := .idle }) ∧
    ∀ first later, o.records = first ++ later → later ≠ [] → s.records.length + first.length = 256 →
      s.finishTap e o = { first.foldl State.appendRecord u with unit := .appending later }) ∧
  ((∀ (s : State) (r : JourneyRecord),
      s.appendRecord r = { s with
        records := s.records ++ [r], counters := s.counters.countRecord r.kind
        stall := s.stall || decide (240 ≤ s.records.length + 1) }) ∧
    (∀ (s : State) (r : JourneyRecord) (rest : List JourneyRecord), s.unit = .appending (r :: rest) →
      (s.records.length < 256 →
        exec .recordAppend s =
          .next { s.appendRecord r with unit := if rest = [] then .idle else .appending rest }) ∧
      (256 ≤ s.records.length → exec .recordAppend s = .next s)) ∧
    (∀ (s : State) (r : JourneyRecord) (rest : List JourneyRecord),
      (256 ≤ s.records.length → exec .walkRecordAppend s = .next s) ∧
      (s.records.length < 256 → s.sweep.kept = r :: rest →
        exec .walkRecordAppend s =
          .next { s.appendRecord r with sweep := { s.sweep with kept := rest } }) ∧
      (s.records.length < 256 → s.sweep.kept = [] → s.sweep.waiting = r :: rest →
        (∀ w, s.sweep.walk = some w → w.finished = false) →
        exec .walkRecordAppend s =
          .next { s.appendRecord r with sweep := { s.sweep with waiting := rest } })) ∧
    ∀ (s : State) (r : JourneyRecord),
      (s.records.length < 256 → s.sweep.kept = [] → s.sweep.waiting = [] → s.walkRecords [r] = s.appendRecord r) ∧
      (256 ≤ s.records.length ∨ s.sweep.kept ≠ [] ∨ s.sweep.waiting ≠ [] →
        s.walkRecords [r] = { s with sweep := { s.sweep with waiting := s.sweep.waiting ++ [r] } })) ∧
  ∀ (s : State) (r : JourneyRecord) (w : Walk), s.records.length < 256 → s.sweep.kept = [] → s.sweep.waiting = [r] →
    s.sweep.walk = some w → w.finished = true →
    exec .walkRecordAppend s =
      .next ({ s.appendRecord r with sweep := { s.sweep with waiting := [] } }.endWalk w)

/-! ### The Sweep Unit -/

/-- What starts and follows a walk. SWEEP_TIMER_EXPIRY, due when the timer has run out, reloads the full period and
starts an age pass, a forced sequence under shortage, or sets pending expiry while a walk is in flight. A walk past slot
12,287, or an audit with nothing left, ends once no record of it waits: a forced pass of the running sequence halves the
forced age, not below 6,000 ds, or ends the sequence at 6,000 ds, while shortage stands; a day change or an audit may
then answer, the audit with the quarantined count and every mark clear; and the table of R137 gives what follows:
nothing in MAINTENANCE, and in SERVICE a forced pass, an age pass or nothing (R68, R72, R136, R137, R139 to R141, R146).
That a walk with nothing left to examine ends only once no record of it waits is DEDUCED from R139 (log 20).
That the expiry is a command due at time left 0 is the model's choice (log 6). -/
def Obligations.PassesStartByTheirTable : Prop :=
  ∀ s : State,
    let half := some (s.settings.journey.maxDuration * 600 / 2)
    let after := fun (u : State) (f : Option Nat) =>
      let pass := fun (w : Option Walk) (f : Option Nat) => { u with sweep := { u.sweep with
        walk := w, forcedAge := f, pendingExpiry := false } }
      if u.mode = .maintenance then pass none none
      else if u.table.shortage = true ∧ f ≠ none then pass (some (.forced 0 true)) f
      else if u.table.shortage = true ∧ u.sweep.pendingExpiry = true then pass (some (.forced 0 true)) half
      else if u.sweep.pendingExpiry = true then pass (some (.age 0)) none
      else pass none none
    let lowered := fun (f : Option Nat) => f.bind fun a => if a = 6000 then none else some (max (a / 2) 6000)
    (s.sweep.timer ≠ some 0 → exec .sweepTimerExpiry s = .next s) ∧
    (s.sweep.timer = some 0 →
      let timer := some (s.settings.timing.sweepPeriod * 10)
      (s.sweep.walk ≠ none →
        exec .sweepTimerExpiry s = .next { s with sweep := { s.sweep with timer := timer, pendingExpiry := true } }) ∧
      (s.sweep.walk = none → s.table.shortage = false →
        exec .sweepTimerExpiry s =
          .next { s with sweep := { s.sweep with timer := timer, walk := some (.age 0), pendingExpiry := false } }) ∧
      (s.sweep.walk = none → s.table.shortage = true →
        exec .sweepTimerExpiry s =
          .next { s with sweep := { s.sweep with
            timer := timer, forcedAge := half, walk := some (.forced 0 true), pendingExpiry := false } })) ∧
    (∀ w, s.sweep.walk = some w → w.finished = true → s.sweep.waiting = [] → s.endIfFinished = s.endWalk w) ∧
    (∀ w, s.sweep.walk = some w → w.finished = false ∨ s.sweep.waiting ≠ [] → s.endIfFinished = s) ∧
    (∀ (n : Nat) (f : Bool) (a : AuditStep),
      ((Walk.age n).finished = true ↔ 12288 ≤ n) ∧ ((Walk.forced n f).finished = true ↔ 12288 ≤ n) ∧
      ((Walk.day n).finished = true ↔ 12288 ≤ n) ∧ ((Walk.audit a).finished = true ↔ a = .ending) ∧
      s.endWalk (.age n) = after s s.sweep.forcedAge ∧
      s.endWalk (.forced n f) =
        after s (if f = true ∧ s.table.shortage = true then lowered s.sweep.forcedAge else s.sweep.forcedAge) ∧
      s.endWalk (.day n) =
        after { s with dayOp := s.dayOp.map fun d => { d with ended := true } } s.sweep.forcedAge ∧
      s.endWalk (.audit a) =
        after { s with
          table := { s.table with marks := [] }
          auditOp := s.auditOp.map fun x => { x with ended := some s.table.counts.quarantined } } s.sweep.forcedAge) ∧
    (s.tableFree = true → s.sweep.waiting = [] → s.slot 12287 = none →
      (s.sweep.walk = some (.age 12287) → exec .agePassExamination s = .next (after s s.sweep.forcedAge)) ∧
      (s.sweep.walk = some (.day 12287) → exec .dayChangeWalkExamination s =
        .next (after { s with dayOp := s.dayOp.map fun d => { d with ended := true } } s.sweep.forcedAge)) ∧
      ∀ a, s.sweep.forcedAge = some a → s.table.shortage = true → s.sweep.walk = some (.forced 12287 true) →
        exec .forcedPassExamination s = .next (after s (if a = 6000 then none else some (max (a / 2) 6000))))

/-- AGE_PASS_EXAMINATION, with no record waiting and no card operation in progress: a FREE or QUARANTINED slot and an
extension are passed over, a failed read is quarantined; a core or orphan of the current day is kept while its age is
within the maximum journey duration, the break window or the orphan hold, and is else settled INCOMPLETE, over its
completed legs, or UNMATCHED_EXIT; one of another day is always settled. The pass goes to the next slot, and ends after
slot 12,287 (R62, R103, R138, R139, R145), once no record of it waits, which is DEDUCED (log 20). -/
def Obligations.AgePassJudgesByAge : Prop :=
  ∀ (n : Nat) (s : State), n < 12288 → s.tableFree = true → s.sweep.walk = some (.age n) → s.sweep.waiting = [] →
    let on := fun (t : State) => { t with sweep := { t.sweep with walk := some (.age (n + 1)) } }
    let age := fun (since : Nat) => if s.clock.time < since then s.clock.time else s.clock.time - since
    let settled := fun (r : Settled × State) =>
      exec .agePassExamination s = .next ((on r.2).walkRecords [r.1.record]).endIfFinished
    let kept := exec .agePassExamination s = .next (on s).endIfFinished
    (s.slot n = none ∨ s.slot n = some .quarantined ∨ (∃ e, s.slot n = some (.allocated (.extension e) true)) → kept) ∧
    (∀ c, s.slot n = some (.allocated c false) → exec .agePassExamination s = .next (on (s.quarantine n)).endIfFinished) ∧
    (∀ c, s.slot n = some (.allocated (.core c) true) →
      (c.state = .opened →
        (c.day = s.today → age c.entryTime ≤ s.settings.journey.maxDuration * 600 → kept) ∧
        (c.day ≠ s.today ∨ s.settings.journey.maxDuration * 600 < age c.entryTime →
          settled (s.settleCore n c .incomplete {}))) ∧
      ∀ out, c.state = .broken out →
        (c.day = s.today → age out ≤ s.settings.journey.breakWindow * 600 → kept) ∧
        (c.day ≠ s.today ∨ s.settings.journey.breakWindow * 600 < age out →
          settled (s.settleCore n c .completedLegs {}))) ∧
    ∀ o, s.slot n = some (.allocated (.orphan o) true) →
      (o.day = s.today → age o.arrival ≤ s.settings.journey.orphanHold * 600 → kept) ∧
      (o.day ≠ s.today ∨ s.settings.journey.orphanHold * 600 < age o.arrival →
        let r := s.settleOrphan n o {}
        exec .agePassExamination s = .next ((on r.2).walkRecords [r.1]).endIfFinished ∧ r.1.kind = .unmatchedExit)

/-- FORCED_PASS_EXAMINATION, with no record waiting and no card operation in progress: what an age pass would settle it
settles so, without FORCED; a core or orphan of the current day older than the forced age alone is settled with FORCED
while the pass forces and shortage stands, and is else kept, as it is when shortage has cleared and the forced age is
none; a failed read is quarantined. A pass whose release clears
shortage forces no more. It goes to the next slot, and ends after slot 12,287 (R62, R139, R141, R142), once no record of
it waits, which is DEDUCED (log 20). -/
def Obligations.ForcedPassJudgesByForcedAge : Prop :=
  ∀ (n : Nat) (forcing : Bool) (s : State), n < 12288 → s.tableFree = true → s.sweep.walk = some (.forced n forcing) →
    s.sweep.waiting = [] →
    let kept := exec .forcedPassExamination s = .next { s with sweep := { s.sweep with
      walk := some (.forced (n + 1) forcing) } }.endIfFinished
    let settled := fun (r : Settled × State) (forced : Bool) => ∃ f,
      exec .forcedPassExamination s =
        .next ({ r.2 with sweep := { r.2.sweep with
          walk := some (.forced (n + 1) f) } }.walkRecords [r.1.record]).endIfFinished ∧
      (f = true ↔ forcing = true ∧ (s.table.shortage = true → r.2.table.shortage = true)) ∧
      (forced = true → r.1.record.flags.forced = true)
    let age := fun (since : Nat) => if s.clock.time < since then s.clock.time else s.clock.time - since
    let older := fun (since : Nat) => ∃ a, s.sweep.forcedAge = some a ∧ a < age since
    let judged := fun (day since window : Nat) (settle : Flags → Settled × State) =>
      (day = s.today → age since ≤ window → (¬older since ∨ forcing = false ∨ s.table.shortage = false) → kept) ∧
      (day = s.today → age since ≤ window → older since → forcing = true → s.table.shortage = true →
        settled (settle { forced := true }) true) ∧
      (day ≠ s.today ∨ window < age since → settled (settle {}) false)
    (s.slot n = none ∨ s.slot n = some .quarantined ∨ (∃ e, s.slot n = some (.allocated (.extension e) true)) → kept) ∧
    (∀ c, s.slot n = some (.allocated c false) →
      exec .forcedPassExamination s = .next { s.quarantine n with sweep := { s.sweep with
        walk := some (.forced (n + 1) forcing) } }.endIfFinished) ∧
    (∀ c, s.slot n = some (.allocated (.core c) true) →
      (c.state = .opened →
        judged c.day c.entryTime (s.settings.journey.maxDuration * 600) fun f => s.settleCore n c .incomplete f) ∧
      ∀ out, c.state = .broken out →
        judged c.day out (s.settings.journey.breakWindow * 600) fun f => s.settleCore n c .completedLegs f) ∧
    ∀ o, s.slot n = some (.allocated (.orphan o) true) →
      judged o.day o.arrival (s.settings.journey.orphanHold * 600) fun f =>
        (⟨(s.settleOrphan n o f).1, none⟩, (s.settleOrphan n o f).2)

/-- DAY_CHANGE_WALK_EXAMINATION, with no record waiting and no card operation in progress: FREE and QUARANTINED slots,
extensions and records of the current day are passed over, a failed read is quarantined; a core of another day is
settled INCOMPLETE when OPEN and over its completed legs when BROKEN, an orphan UNMATCHED_EXIT; each is counted by its
kind, and a DAMAGED one once more. The walk goes to the next slot, and ends after slot 12,287 (R62, R139, R145, R146),
once no record of it waits, which is DEDUCED (log 20). -/
def Obligations.DayChangeWalkSettlesOtherDays : Prop :=
  ∀ (n : Nat) (s : State), n < 12288 → s.tableFree = true → s.sweep.walk = some (.day n) → s.sweep.waiting = [] →
    let kept := exec .dayChangeWalkExamination s =
      .next { s with sweep := { s.sweep with walk := some (.day (n + 1)) } }.endIfFinished
    let settled := fun (r : JourneyRecord) (t : State) =>
      exec .dayChangeWalkExamination s =
        .next ({ t with sweep := { t.sweep with
          walk := some (.day (n + 1))
          dayCounts :=
            ⟨s.sweep.dayCounts.incomplete + (if r.kind = RecordKind.incomplete then 1 else 0),
              s.sweep.dayCounts.complete + (if r.kind = RecordKind.complete then 1 else 0),
              s.sweep.dayCounts.unmatched + (if r.kind = RecordKind.unmatchedExit then 1 else 0),
              s.sweep.dayCounts.damaged + (if r.flags.damaged = true then 1 else 0)⟩ } }.walkRecords [r]).endIfFinished
    (s.slot n = none ∨ s.slot n = some .quarantined ∨ (∃ e, s.slot n = some (.allocated (.extension e) true)) → kept) ∧
    (∀ c, s.slot n = some (.allocated c false) →
      exec .dayChangeWalkExamination s =
        .next { s.quarantine n with sweep := { s.sweep with walk := some (.day (n + 1)) } }.endIfFinished) ∧
    (∀ c, s.slot n = some (.allocated (.core c) true) →
      (c.day = s.today → kept) ∧
      (c.day ≠ s.today →
        (c.state = .opened →
          settled (s.settleCore n c .incomplete {}).1.record (s.settleCore n c .incomplete {}).2) ∧
        ∀ out, c.state = .broken out →
          settled (s.settleCore n c .completedLegs {}).1.record (s.settleCore n c .completedLegs {}).2)) ∧
    ∀ o, s.slot n = some (.allocated (.orphan o) true) →
      (o.day = s.today → kept) ∧
      (o.day ≠ s.today → settled (s.settleOrphan n o {}).1 (s.settleOrphan n o {}).2)

/-- What leaves the table by settlement. A core whose extensions are QUARANTINED or pass: it and those that passed are
released, the core first, so that the last of them heads the free list; the record before it, or the head, leads on to
its next; nothing of the tariff, the accounts or the clock moves before the reckoning. What is settled is the journey over
its completed legs, its final leg to be measured, its same-station exit, or, INCOMPLETE, the completed legs and then the
current leg at the penalty fare; one extension QUARANTINED makes any settlement INCOMPLETE with DAMAGED over the legs
that passed and the current leg (R19, R54, R55, R67, R94, R96, R98, R99). That the current leg of a BROKEN core so settled
is listed too, with exit and metres absent, is DEDUCED (log 13). An orphan is settled UNMATCHED_EXIT: its slot heads the
free list, its chain leads past it, and the order is without it, its head, tail and length moved (R57, R104). A
predecessor sought by a walk is the record before it on the chain, wherever it lies; a walk that ends without meeting the
record unlinks nothing, and one that reaches a failed or QUARANTINED slot cuts the chain there. The order is walked
likewise: an orphan not on it leaves it as it is, and a failed or QUARANTINED slot ends it before that slot (R54, R57,
R66). That with the predecessor known no slot is read, so that the predecessor is rewritten with a fresh check also when
it has been disturbed since its read, is the model's choice (log 46). -/
def Obligations.SettlementReleasesTheJourney : Prop :=
  (∀ (s : State) (n : Nat) (c : Core) (how : Closing) (extra : Flags) (es : List (Nat × Option Extension))
      (before : List (Nat × Content)), s.Stored → s.slot n = some (.allocated (.core c) true) →
    s.Leads Content.inBucket (s.bucketHead (bucketOf c.token)) before (some n) → before.length ≤ 12288 →
    (∀ x ∈ before, x.1 ≠ n) → c.extensions = es.map (·.1) →
    (∀ x ∈ es, s.slot x.1 =
      match x.2 with
      | some l => some (.allocated (.extension l) true)
      | none => some .quarantined) →
    (es.map (·.1)).Nodup → ∀ p, p = .sought ∨ p = .known (before.getLast?.map (·.1)) →
    let r := s.settleCore n c how extra p
    let passed := es.filter fun x => x.2.isSome
    let legs := passed.filterMap fun x => x.2.map fun l =>
      (⟨some ⟨l.entryStation, l.entryTime⟩, some ⟨l.exitStation, l.exitTime⟩, some l.metres⟩ : RecordLeg)
    let damaged := es.any fun x => x.2.isNone
    let flags := if damaged then (c.flags.union extra).union { damaged := true } else c.flags.union extra
    let journey : SettlementCase := match (if damaged then Closing.incomplete else how) with
      | .sameStation time => .sameStation c.entryStation c.entryTime time
      | .final station time => .completed c.dayType c.firstEntryTime
        (legs ++ [⟨some ⟨c.entryStation, c.entryTime⟩, some ⟨station, time⟩, none⟩])
      | .completedLegs => .completed c.dayType c.firstEntryTime legs
      | .incomplete => .incomplete (legs ++ [⟨some ⟨c.entryStation, c.entryTime⟩, none, none⟩])
    let penalty := classFare (classLookup s.tariff.liveBank c.cls).entry ((constantsOf s.tariff.liveBank).fareCeiling * 10)
    (∃ u : State, r = u.settle ⟨c.token, c.cls, c.day, flags, journey⟩ ∧ u.cap = s.cap ∧ u.tariff = s.tariff ∧
      u.clock = s.clock ∧ u.counters = s.counters ∧ u.table = r.2.table) ∧
    r.2.slot n = none ∧ (∀ x ∈ passed, r.2.slot x.1 = none) ∧
    (∀ m, m ≠ n → m ∉ passed.map (·.1) → before.getLast?.map (·.1) ≠ some m → r.2.slot m = s.slot m) ∧
    (before = [] → r.2.bucketHead (bucketOf c.token) = c.next) ∧
    (∀ y, before.getLast? = some y → r.2.bucketHead (bucketOf c.token) = s.bucketHead (bucketOf c.token) ∧
      r.2.slot y.1 = some (.allocated (y.2.withNext c.next) true)) ∧
    r.2.table.free.toList = (passed.map (·.1)).reverse ++ n :: s.table.free.toList ∧
    r.1.record.token = c.token ∧ r.1.record.day = c.day ∧
    ((∃ x ∈ es, x.2 = none) ∨ how = .incomplete →
      r.1.record.kind = .incomplete ∧
      r.1.record.legs = legs ++ [⟨some ⟨c.entryStation, c.entryTime⟩, none, none⟩] ∧
      r.1.record.classFare = penalty ∧ r.1.record.charged = penalty ∧ r.1.record.capSpent = none) ∧
    ((∃ x ∈ es, x.2 = none) → r.1.record.flags.damaged = true) ∧
    ((∀ x ∈ es, x.2 ≠ none) → how = .completedLegs → r.1.record.kind = .complete ∧ r.1.record.legs = legs)) ∧
  (∀ (s : State) (n : Nat) (o : Orphan) (extra : Flags) (before order : List (Nat × Content)), s.Stored →
    s.slot n = some (.allocated (.orphan o) true) →
    s.Leads Content.inBucket (s.bucketHead (bucketOf o.token)) before (some n) → before.length ≤ 12288 →
    (∀ x ∈ before, x.1 ≠ n) →
    s.Leads Content.inOrder s.table.order.head order (some n) → order.length ≤ 12288 →
    (∀ x ∈ order, x.1 ≠ n ∧ s.table.order.tail ≠ some x.1) →
    ∀ p, p = .sought ∨ p = .known (before.getLast?.map (·.1)) →
    let r := s.settleOrphan n o extra p
    let relinked := fun (m : Nat) (c : Content) =>
      let d := if before.getLast?.map (·.1) = some m then c.withNext o.next else c
      if order.getLast?.map (·.1) = some m then
        match d with
        | .orphan x => .orphan { x with nextOrder := o.nextOrder }
        | x => x
      else d
    r.1 = (s.reckon ⟨o.token, o.cls, o.day, o.flags.union extra, .unmatched o.exitStation o.exitTime⟩).record ∧
    r.1.kind = .unmatchedExit ∧ r.2.slot n = none ∧
    (∀ m, m ≠ n → before.getLast?.map (·.1) ≠ some m → order.getLast?.map (·.1) ≠ some m → r.2.slot m = s.slot m) ∧
    (∀ m c, m ≠ n → s.slot m = some (.allocated c true) →
      r.2.slot m = some (.allocated (relinked m c) true)) ∧
    (∀ b, r.2.bucketHead b = if b = bucketOf o.token ∧ before = [] then o.next else s.bucketHead b) ∧
    r.2.table.order = ⟨if order = [] then o.nextOrder else s.table.order.head,
      if s.table.order.tail = some n then order.getLast?.map (·.1) else s.table.order.tail,
      s.table.order.length - 1⟩ ∧
    r.2.table.free.toList = n :: s.table.free.toList ∧
    r.2.table.counts = { s.table.counts with
      orphans := s.table.counts.orphans - 1, free := s.table.counts.free + 1 }) ∧
  (∀ (s : State) (n : Nat) (token : Token) (before : List (Nat × Content)) (stop : Option Nat),
    s.Leads Content.inBucket (s.bucketHead (bucketOf token)) before stop → before.length ≤ 12288 →
    (∀ x ∈ before, x.1 ≠ n) →
    let prev := before.getLast?.map (·.1)
    (stop = none → s.unlink n token .sought = s) ∧
    (stop = some n → s.unlink n token .sought = s.unlink n token (.known prev)) ∧
    ∀ m, stop = some m → m ≠ n →
      (∀ d, s.slot m = some (.allocated d false) →
        s.unlink n token .sought = (s.quarantine m).setChainLink (bucketOf token) prev none) ∧
      (s.slot m = some .quarantined → s.unlink n token .sought = s.setChainLink (bucketOf token) prev none)) ∧
  (∀ (s : State) (n m : Nat) (token : Token) (d : Content) (intact : Bool),
    s.slot m = some (.allocated d intact) →
    let t := s.unlink n token (.known (some m))
    t.slot m = some (.allocated (d.withNext (s.nextOf n)) true) ∧ (∀ j, j ≠ m → t.slot j = s.slot j) ∧
      t = { s with table := { s.table with slots := t.table.slots } }) ∧
  ∀ (s : State) (n : Nat) (order : List (Nat × Content)) (stop : Option Nat),
    s.Leads Content.inOrder s.table.order.head order stop → order.length ≤ 12288 → (∀ x ∈ order, x.1 ≠ n) →
    (∀ x ∈ order.dropLast, s.table.order.tail ≠ some x.1) →
    (stop = none ∨ (order ≠ [] ∧ s.table.order.tail = order.getLast?.map (·.1)) → s.removeFromOrder n = s) ∧
    ∀ m, stop = some m → m ≠ n → (order = [] ∨ s.table.order.tail ≠ order.getLast?.map (·.1)) →
      (∃ d, s.slot m = some (.allocated d false)) ∨ s.slot m = some .quarantined →
      let t := s.removeFromOrder n
      t.slot m = some .quarantined ∧
      (order = [] → t.table.order = ⟨none, none, 0⟩ ∧ ∀ j, j ≠ m → t.slot j = s.slot j) ∧
      ∀ y x, order.getLast? = some y → y.2 = .orphan x →
        t.table.order = ⟨s.table.order.head, some y.1, order.length⟩ ∧
        t.slot y.1 = some (.allocated (.orphan { x with nextOrder := none }) true) ∧
        ∀ j, j ≠ m → j ≠ y.1 → t.slot j = s.slot j

/-- The free list is last in, first out: an allocation writes its record into the head, or is NO_SLOT and changes
nothing when the list is empty, and a release puts the slot back at the head, the counts moving with it. A release
clears shortage when the free count comes to the shortage level plus 128 with the mark set, the forced age ends and the
notice is raised; else the mark, the notices and the forced age stay (R49, R55, R56, R60, R142). A rewriting writes its
record into its own slot alone, with a check that agrees (R48), and a new core or orphan is linked at the head of its
bucket's chain with the old head after it (R54). -/
def Obligations.FreeListIsLastInFirstOut : Prop :=
  (∀ c : Counts,
    c.lower .free = { c with free := c.free - 1 } ∧ c.lift .free = { c with free := c.free + 1 } ∧
    c.lower .core = { c with cores := c.cores - 1 } ∧ c.lift .core = { c with cores := c.cores + 1 } ∧
    c.lower .extension = { c with extensions := c.extensions - 1 } ∧
    c.lift .extension = { c with extensions := c.extensions + 1 } ∧
    c.lower .orphan = { c with orphans := c.orphans - 1 } ∧ c.lift .orphan = { c with orphans := c.orphans + 1 }) ∧
  (∀ (c : Core) (o : Orphan) (e : Extension) (next : Option Nat),
    (Content.core c).kind = .core ∧ (Content.orphan o).kind = .orphan ∧ (Content.extension e).kind = .extension ∧
    (Content.core c).withNext next = .core { c with next := next } ∧
    (Content.orphan o).withNext next = .orphan { o with next := next } ∧
    (Content.core c).link = some (c.token, c.next) ∧ (Content.orphan o).link = some (o.token, o.next) ∧
    (Content.extension e).link = none) ∧
  (∀ (s : State) (n : Nat) (c d : Content) (k : Bool), s.Stored → s.slot n = some (.allocated d k) → c.kind = d.kind →
    let t := s.rewrite n c
    t.slot n = some (.allocated c true) ∧ (∀ m, m ≠ n → t.slot m = s.slot m) ∧
    t = { s with table := { s.table with slots := t.table.slots } }) ∧
  (∀ (s : State) (token : Token) (c : Content) (n : Nat) (t : State), s.Stored →
    s.allocateLinked token c = (some n, t) →
    t.slot n = some (.allocated (c.withNext (s.bucketHead (bucketOf token))) true) ∧
    (∀ m, m ≠ n → t.slot m = s.slot m) ∧ t.bucketHead (bucketOf token) = some n ∧
    ∀ b, b ≠ bucketOf token → t.bucketHead b = s.bucketHead b) ∧
  (∀ (f g : FreeList) (n : Nat), f.take = some (n, g) → f.toList = n :: g.toList) ∧
  (∀ f : FreeList, f.take = none → f.toList = []) ∧
  (∀ (s : State) (c : Content), s.table.free.take = none → s.allocate c = (none, s)) ∧
  (∀ (s : State) (c : Content) (n : Nat) (f : FreeList), s.table.free.take = some (n, f) →
    ∃ t, s.allocate c = (some n, t) ∧ t.slot n = some (.allocated c true) ∧ (∀ m, m ≠ n → t.slot m = s.slot m) ∧
      t.table.free = f ∧ t.table.heads = s.table.heads ∧ t.table.order = s.table.order ∧ t.cap = s.cap ∧
      t.table.counts = (s.table.counts.lower .free).lift c.kind) ∧
  ∀ (s : State) (n : Nat) (c : Content) (k : Bool), s.Stored → n < 12288 → s.slot n = some (.allocated c k) →
    let t := s.releaseSlot n
    let clears := s.table.shortage = true ∧ s.settings.journey.shortageLevel + 128 ≤ s.table.counts.free + 1
    t.slot n = none ∧ (∀ m, m ≠ n → t.slot m = s.slot m) ∧ t.table.free.toList = n :: s.table.free.toList ∧
    (∀ g m, t.table.free.take = some (m, g) → m = n) ∧
    t.table.counts = (s.table.counts.lower c.kind).lift .free ∧
    (clears → t.table.shortage = false ∧ t.sweep.forcedAge = none ∧
      t.notices = raiseIn s.notices (.shortageCleared (s.table.counts.free + 1)) s.clock.time) ∧
    (¬clears → t.table.shortage = s.table.shortage ∧ t.sweep = s.sweep ∧ t.notices = s.notices)

/-- The bucket of a token is the exclusive-or of its bits 0 to 11, 12 to 23, 24 to 35, 36 to 47 and 48 to 55, a number
below 4,096, and its account bucket that number modulo 2,048 (R53; section 6.1). -/
def Obligations.BucketFoldsTheToken : Prop :=
  ∀ token : Token,
    let n := token.toNat
    bucketOf token = (n % 4096) ^^^ (n / 4096 % 4096) ^^^ (n / 4096 ^ 2 % 4096) ^^^ (n / 4096 ^ 3 % 4096) ^^^
      (n / 4096 ^ 4) ∧
    bucketOf token < 4096 ∧ accountBucketOf token = bucketOf token % 2048

/-! ### The Service Clock -/

/-- SERVICE_TIME_TICK: every running timer counts down, and the service time counts forward while the day is set, up to
863,999, where it holds with doubt set and the CLOCK_DOUBT notice raised; CLOCK_HOLD is that last count and is else not
due. BEACON_WATCHDOG_EXPIRY, due at time left 0, stops the watchdog, sets doubt and raises the notice. A slot disturbed
in the tick no longer passes its check (R48, R130, R131, R133, R157). That one command lets time pass for every timer,
and that disturbances are its operand, is the model's choice (log 6, log 7, log 8). -/
def Obligations.ClockCountsAndHolds : Prop :=
  ∀ s : State,
    let down := fun (t : Option Nat) => t.map fun n => n - 1
    let passed := fun (c : Clock) (ns : List Notice) => { s with
      clock := c, notices := ns, watchdog := down s.watchdog
      sweep := { s.sweep with timer := down s.sweep.timer }
      line := { s.line with pauseTimer := down s.line.pauseTimer }
      office := { s.office with pauseTimer := down s.office.pauseTimer } }
    let still := exec (.serviceTimeTick []) s = .next (passed s.clock s.notices) ∧ exec .clockHold s = .next s
    let held := passed { s.clock with time := 863999, doubt := true }
      (raiseIn s.notices (.clockDoubt .endOfDay 863999) 863999)
    (s.clock.day = none ∨ 863999 ≤ s.clock.time → still) ∧
    (s.clock.day ≠ none → s.clock.time + 1 < 863999 →
      exec (.serviceTimeTick []) s = .next (passed { s.clock with time := s.clock.time + 1 } s.notices) ∧
      exec .clockHold s = .next s) ∧
    (s.clock.day ≠ none → s.clock.time + 1 = 863999 →
      exec (.serviceTimeTick []) s = .next held ∧ exec .clockHold s = .next held) ∧
    (s.watchdog = some 0 →
      exec .beaconWatchdogExpiry s = .next { s with
        watchdog := none, clock := { s.clock with doubt := true }
        notices := raiseIn s.notices (.clockDoubt .beaconLate s.clock.time) s.clock.time }) ∧
    (s.watchdog ≠ some 0 → exec .beaconWatchdogExpiry s = .next s) ∧
    ∀ n c k, s.slot n = some (.allocated c k) →
      ∃ t, exec (.serviceTimeTick [n]) s = .next t ∧ t.slot n = some (.allocated c false) ∧
        ∀ m, m ≠ n → t.slot m = s.slot m

/-- BEACON, by the table of R132, in either mode and whatever walk is in flight: ignored while the day is unset;
disputed, with the notice alone, when its day is 0 or not the clock's, its time above 863,999 or more than 20 ds behind
the clock; accepted otherwise, the clock set to a later time, doubt cleared and the watchdog restarted in SERVICE
(R132). -/
def Obligations.BeaconIsJudgedByItsTable : Prop :=
  ∀ (day time : Nat) (s : State),
    let accepted := fun (now : Nat) => exec (.beacon day time) s = .next { s with
      clock := { s.clock with time := now, doubt := false }
      watchdog := if s.mode = .service then some (s.settings.timing.beaconLimit * 10) else s.watchdog }
    (s.clock.day = none → exec (.beacon day time) s = .next s) ∧
    ∀ today, s.clock.day = some today →
      let disputed := exec (.beacon day time) s = .next { s with
        notices := raiseIn s.notices (.clockDispute day time today s.clock.time) s.clock.time }
      (day = 0 ∨ 863999 < time → disputed) ∧
      (day ≠ today → disputed) ∧
      (day ≠ 0 → time ≤ 863999 → day = today →
        (s.clock.time < time → accepted time) ∧
        (time ≤ s.clock.time → s.clock.time ≤ time + 20 → accepted s.clock.time) ∧
        (time + 20 < s.clock.time → disputed))

/-! ### The links -/

/-- FRAME_START, DATA_BYTE, FRAME_END, ABORT and LINE_ERROR by the table of R149, and the outcome table of R151. The check
is the remainder of header and payload, each byte most significant bit first, over x^16 + x^12 + x^5 + 1, started with
all ones: a frame of the length its header gives is GOOD when its last two bytes, high byte first, are that remainder, and
BAD_CHECK when they are not. A frame takes a place at its START, or is not stored and counted bad with all 64 held; the 48th place sends
PAUSE, between whatever characters the port is sending. A START inside a frame ends that one and begins another in the
same way: a stored frame so cut short keeps its place with the outcome ABORTED, one not stored leaves nothing. A frame cut
short or ended is completed, its entry joining the status queue or held; a data byte, END or ABORT outside a frame is a
line error, the first two uncounted before the first START (R149, R151, R152, R156). That the character of a LINE_ERROR
is its operand is the model's choice (log 27). -/
def Obligations.ReceptionFollowsItsTable : Prop :=
  (let X : Polynomial (ZMod 2) := Polynomial.X
    let poly := fun (bits v : Nat) => ((List.range bits).map fun i => if v.testBit i then X ^ i else 0).sum
    (∀ bytes : List Byte, ∃ quotient : Polynomial (ZMod 2),
      bytes.foldl (fun r b => r * X ^ 8 + poly 8 b.toNat * X ^ 16) (poly 16 0xFFFF) =
        quotient * (X ^ 16 + X ^ 12 + X ^ 5 + 1) + poly 16 (frameCheck bytes).toNat) ∧
    ∀ (body : List Byte) (high low : Byte), body.length = 4 + (body.getD 3 0).toNat → (body.getD 3 0).toNat ≤ 240 →
      judgeFrame (body ++ [high, low]) (body.length + 2) =
        if 256 * high.toNat + low.toNat = (frameCheck body).toNat then .good else .badCheck) ∧
  (∀ ps : PortState, ps.places = ps.queue.length + ps.held.length +
    match ps.rx with
    | .inside _ _ => 1
    | _ => 0) ∧
  (∀ (p : Port) (s : State),
    let ps := s.port p
    let put := fun (rx : Receive) => s.setPort p { ps with rx := rx }
    let error := { s with counters := s.counters.lineError p }
    let completed := fun (f : StoredFrame) =>
      if ps.queue.length < 16 ∧ ps.held = [] then { ps with rx := .outside true, queue := ps.queue ++ [f] }
      else { ps with rx := .outside true, held := ps.held ++ [f] }
    (∀ synced, ps.rx = .outside synced →
      (ps.places < 64 → ps.places ≠ 47 ∨ ps.pauseSent = true → exec (.frameStart p) s = .next (put (.inside [] 0))) ∧
      (ps.places = 47 → ps.pauseSent = false →
        exec (.frameStart p) s = .next (s.setPort p
          { ps with rx := .inside [] 0, pauseSent := true, sent := ps.sent ++ [0x110] })) ∧
      (64 ≤ ps.places →
        exec (.frameStart p) s = .next { put .unstored with counters := s.counters.badFrame p }) ∧
      (∀ b, exec (.dataByte p b) s = .next (if synced then error else s)) ∧
      exec (.frameEnd p) s = .next (if synced then error else s) ∧ exec (.abort p) s = .next error) ∧
    (∀ bytes n, ps.rx = .inside bytes n →
      (∀ b, exec (.dataByte p b) s = .next (put (.inside (if n < 246 then bytes ++ [b] else bytes) (n + 1)))) ∧
      exec (.frameEnd p) s = .next (s.setPort p (completed ⟨bytes, judgeFrame bytes n⟩)) ∧
      exec (.abort p) s = .next (s.setPort p (completed ⟨bytes, .aborted⟩)) ∧
      (ps.places < 64 → ps.places ≠ 47 ∨ ps.pauseSent = true →
        exec (.frameStart p) s =
          .next (s.setPort p { completed ⟨bytes, .aborted⟩ with rx := .inside [] 0 })) ∧
      (ps.places = 47 → ps.pauseSent = false →
        exec (.frameStart p) s = .next (s.setPort p { completed ⟨bytes, .aborted⟩ with
          rx := .inside [] 0, pauseSent := true, sent := ps.sent ++ [0x110] })) ∧
      (64 ≤ ps.places →
        exec (.frameStart p) s = .next { s.setPort p { completed ⟨bytes, .aborted⟩ with rx := .unstored } with
          counters := s.counters.badFrame p })) ∧
    (ps.rx = .unstored →
      (ps.places < 64 → ps.places ≠ 47 ∨ ps.pauseSent = true → exec (.frameStart p) s = .next (put (.inside [] 0))) ∧
      (ps.places = 47 → ps.pauseSent = false →
        exec (.frameStart p) s = .next (s.setPort p
          { ps with rx := .inside [] 0, pauseSent := true, sent := ps.sent ++ [0x110] })) ∧
      (64 ≤ ps.places → exec (.frameStart p) s = .next { s with counters := s.counters.badFrame p }) ∧
      (∀ b, exec (.dataByte p b) s = .next s) ∧ exec (.frameEnd p) s = .next (put (.outside true)) ∧
      exec (.abort p) s = .next (put (.outside true))) ∧
    ∀ ch : Character,
      (256 ≤ ch.toNat → ch ∉ [0x100, 0x101, 0x102, 0x110, 0x111, 0x11F] →
        exec (.lineError p ch) s = .next error) ∧
      (ch ∈ [0x100, 0x101, 0x110, 0x111] → exec (.lineError p ch) s = .next s)) ∧
  ∀ (bytes : List Byte) (n : Nat),
    let length := (bytes.getD 3 0).toNat
    (246 < n ∨ (4 ≤ n ∧ (240 < length ∨ length + 6 < n)) → judgeFrame bytes n = .overlong) ∧
    (n < 4 ∨ (n ≤ 246 ∧ length ≤ 240 ∧ n ≤ length + 6 ∧ (n < 6 ∨ n < length + 6)) → judgeFrame bytes n = .badCheck)

/-- A pause episode: PAUSE sets a clear mark and starts the timer, and does nothing while it is set; RESUME clears a set
mark and stops the timer, and does nothing while it is clear; PAUSE_LIMIT_EXPIRY, due at time left 0, stops the timer
and raises PARTNER_STALLED once, the port staying paused. A notice raised joins the set with count 1, or renews the one
entry of its kind at the tail with its count one more, to 65,535 at most (R157, R172). That the expiry is a command due
at time left 0, and else without effect, is the model's choice (log 6). -/
def Obligations.PauseEpisodeRunsOnce : Prop :=
  (∀ (p : Port) (s : State),
    let ps := s.port p
    (ps.partnerPaused = false →
      exec (.pause p) s = .next (s.setPort p
        { ps with partnerPaused := true, pauseTimer := some (s.settings.link.pauseLimit * 10) }) ∧
      exec (.resume p) s = .next s) ∧
    (ps.partnerPaused = true →
      exec (.pause p) s = .next s ∧
      exec (.resume p) s = .next (s.setPort p { ps with partnerPaused := false, pauseTimer := none })) ∧
    (ps.pauseTimer = some 0 →
      exec (.pauseLimitExpiry p) s = .next { s.setPort p { ps with pauseTimer := none } with
        notices := raiseIn s.notices (.partnerStalled p) s.clock.time }) ∧
    (ps.pauseTimer ≠ some 0 → exec (.pauseLimitExpiry p) s = .next s)) ∧
  ∀ (ns : List Notice) (d : NoticeDetail) (time : Nat),
    ((∀ n ∈ ns, n.detail.kind ≠ d.kind) → raiseIn ns d time = ns ++ [⟨d, 1, time⟩]) ∧
    ∀ before n after, ns = before ++ n :: after → (ns.map fun n => n.detail.kind).Nodup →
      n.detail.kind = d.kind → n.count ≤ 65535 →
      raiseIn ns d time = before ++ after ++ [⟨d, min (n.count + 1) 65535, time⟩]

/-- The Frame Switch. STATUS_ENTRY_JOIN lets the first held entry into a status queue of fewer than 16. SWITCH_ENTRY
drops a bad frame and counts it, and routes a good one by the table of R154, for every class, port and addressee,
counting it when misplaced, a TAP for the Tap Queue of a payload other than 17 bytes and a BEACON for the clock of one
other than 5. Each delivery is made when its destination has room, a request being any but one that resets the part,
which empties the port with the rest; one without room waits, and a broadcast makes its two apart. A request or beacon so
delivered is taken as its command is, and a transit frame joins the tail of its buffer. FRAME_DELIVERY makes
one that waits. The frame leaves with its last delivery, and the fall to 16 places sends RESUME (R62, R152 to R156,
R163). That deliveries with room are made within SWITCH_ENTRY is the model's choice (log 18), and so is that a
JOURNEY_QUERY has no room for as long as a tap is in HANDLING, before its lookup too (log 38), and waits then at the head of
the status queue (log 43). -/
def Obligations.SwitchTakesTheHeadEntry : Prop :=
  (∀ (src : Nat) (s : State),
    (∀ f, s.pushTransit .line f = { s with upTransit := s.upTransit ++ [f] } ∧
      s.pushTransit .office f = { s with downTransit := s.downTransit ++ [f] }) ∧
    (∀ day time, exec (.beacon day time) s = .next (s.takeBeacon day time)) ∧
    (s.hand = none →
      let takes := fun (i : Instr) (r : Request) => exec i s = .next (s.takeRequest src r)
      (∀ v, takes (.settingWrite src v) (.settingWrite v)) ∧ (∀ g, takes (.settingRead src g) (.settingRead g)) ∧
      (∀ a i, takes (.tableSeek src a i) (.tableSeek a i)) ∧
      (∀ n es, takes (.tableWrite src n es) (.tableWrite n es)) ∧
      (∀ n b, takes (.tableRead src n b) (.tableRead n b)) ∧ takes (.tariffCheck src) .tariffCheck ∧
      takes (.tariffCommit src) .tariffCommit ∧ takes (.tariffCopy src) .tariffCopy ∧
      (∀ n ts, takes (.denyAdd src n ts) (.denyAdd n ts)) ∧ (∀ n ts, takes (.denyRemove src n ts) (.denyRemove n ts)) ∧
      takes (.serviceStart src) .serviceStart ∧ takes (.serviceStop src) .serviceStop ∧
      (∀ d y, takes (.dayChange src d y) (.dayChange d y)) ∧
      (s.tableFree = true → ∀ token, takes (.journeyQuery src token) (.journeyQuery token)) ∧
      takes (.poolAudit src) .poolAudit ∧ (∀ c, takes (.statusRead src c) (.statusRead c)) ∧
      (∀ k, takes (.engineReset src k) (.engineReset k)) ∧
      ∀ payload k, readRequest payload = .malformed k → takes (.malformedRequest src payload) (.malformed k))) ∧
  (∀ (p : Port) (cls : Byte) (a : Addressee),
    (cls = 0x21 → route .line cls .engine = ([.tapQueue], false) ∧
      route .line cls .broadcast = ([.tapQueue, .transit], false) ∧ route .office cls .engine = ([], true) ∧
      route .office cls .broadcast = ([.transit], true)) ∧
    (cls = 0x41 → route .office cls .engine = ([.management], false) ∧
      route .office cls .broadcast = ([.management, .transit], false) ∧ route .line cls .engine = ([], true) ∧
      route .line cls .broadcast = ([.transit], true)) ∧
    (cls = 0x44 → route .office cls .engine = ([.clock], false) ∧
      route .office cls .broadcast = ([.clock, .transit], false) ∧ route .line cls .engine = ([], true) ∧
      route .line cls .broadcast = ([.transit], true)) ∧
    (cls ∈ [0x22, 0x31, 0x42, 0x43] → route p cls .engine = ([], true) ∧ route p cls .broadcast = ([.transit], false)) ∧
    route p cls .another = ([.transit], false) ∧
    (cls ∉ [0x21, 0x22, 0x31, 0x41, 0x42, 0x43, 0x44] → route p cls a = ([.transit], false))) ∧
  ∀ (p : Port) (s : State) (f : StoredFrame) (rest : List StoredFrame),
    let ps := s.port p
    let node := s.settings.link.nodeAddress
    let r := route p f.cls
      (if f.destination = node then .engine else if f.destination = 0 then .broadcast else .another)
    let left := if ps.places = 17 ∧ ps.pauseSent = true then
        { ps with queue := rest, routed := none, pauseSent := false, sent := ps.sent ++ [0x111] }
      else { ps with queue := rest, routed := none }
    let fits := fun (d : Destination) =>
      (d = .tapQueue → f.payloadLength = 17) ∧ (d = .clock → f.payloadLength = 5)
    let room := fun (d : Destination) => match d with
      | .tapQueue => s.taps.length < 128
      | .management => s.hand = none ∧ (s.tableFree = true ∨ ∀ t, readRequest f.payload ≠ .journeyQuery t)
      | .clock => True
      | .transit => (match p with | .line => s.upTransit.length | .office => s.downTransit.length) < 16
    let give := fun (d : Destination) (u : State) => match d with
      | .tapQueue => { u with taps := u.taps ++ [⟨readTap f.payload, u.clock.time⟩] }
      | .management => u.takeRequest f.source (readRequest f.payload)
      | .clock => u.takeBeacon (readBeacon f.payload).1 (readBeacon f.payload).2
      | .transit => u.pushTransit p f.frame
    let resets := ∃ k, readRequest f.payload = .engineReset k ∧ (k = 1 ∨ k = 2)
    let counted := { s with counters :=
      let c := if r.2 then s.counters.misplaced p else s.counters
      if Destination.tapQueue ∈ r.1 ∧ f.payloadLength ≠ 17 then { c with malformedTaps := raised c.malformedTaps }
      else if Destination.clock ∈ r.1 ∧ f.payloadLength ≠ 5 then c.badFrame p else c }
    let waiting := fun (ds : List Destination) => counted.setPort p { ps with routed := some ds }
    (ps.held = f :: rest →
      (ps.queue.length < 16 →
        exec (.statusEntryJoin p) s = .next (s.setPort p { ps with queue := ps.queue ++ [f], held := rest })) ∧
      (16 ≤ ps.queue.length → exec (.statusEntryJoin p) s = .next s)) ∧
    (ps.queue = f :: rest → ps.routed ≠ none → exec (.switchEntry p) s = .next s) ∧
    (ps.queue = f :: rest → ps.routed = none →
      (f.outcome ≠ .good →
        exec (.switchEntry p) s = .next { s.setPort p left with counters := s.counters.badFrame p }) ∧
      (f.outcome = .good →
        (∀ ds, (ds = r.1 ∧ ∀ d ∈ r.1, fits d) ∨ (∃ d, r.1 = d :: ds ∧ ¬fits d) →
          (ds = [] → exec (.switchEntry p) s = .next (counted.setPort p left)) ∧
          ∀ d, (d = .management → ¬resets) →
            (ds = [d] → room d → exec (.switchEntry p) s = .next ((give d (waiting [])).setPort p left)) ∧
            (ds = [d] → ¬room d → exec (.switchEntry p) s = .next (waiting [d])) ∧
            (ds = [d, .transit] →
              (room d → room .transit → exec (.switchEntry p) s =
                .next (((give d (waiting [.transit])).pushTransit p f.frame).setPort p left)) ∧
              (room d → ¬room .transit → exec (.switchEntry p) s = .next (give d (waiting [.transit]))) ∧
              (¬room d → room .transit →
                exec (.switchEntry p) s = .next ((waiting [d]).pushTransit p f.frame)) ∧
              (¬room d → ¬room .transit → exec (.switchEntry p) s = .next (waiting [d, .transit])))) ∧
        (r.1 = [.management] → resets → room .management →
          exec (.switchEntry p) s = .next (give .management (waiting []))) ∧
        (r.1 = [.management, .transit] → resets → room .management →
          exec (.switchEntry p) s = .next (give .management (waiting [.transit]))))) ∧
    ∀ (d : Destination) (ds : List Destination), ps.queue = f :: rest → ps.routed = some ds → d ∈ ds →
      (¬room d → exec (.frameDelivery p d) s = .next s) ∧
      (room d → (d = .management → ¬resets) →
        let given := give d (s.setPort p { ps with routed := some (ds.erase d) })
        exec (.frameDelivery p d) s = .next (if ds.erase d = [] then given.setPort p left else given))

/-- EGRESS_GRANT with the holding frame empty and the partner-paused mark clear: the highest source that is ready and
stands at 8 or more is granted, else the highest that is ready; its count becomes 0 and that of every other ready source
of the port rises by one. The item granted leaves its source and its frame fills the holding frame, with the engine's
node as source. With the frame full, the mark set or nothing ready there is no grant (R76, R158, R159, R173). A port
sends the frame it holds character by character, from START to END, which empties the holding frame, and FILL while it
holds none; END_SENT sends what is left of the frame at once (R150, R158). What takes a character time is the model's
choice (log 1, log 12). -/
def Obligations.EgressGrantsOneItem : Prop :=
  (∀ s : State,
    (s.ready .response = true ↔ s.responses ≠ []) ∧ (s.ready .notice = true ↔ s.notices ≠ []) ∧
    (s.ready .record = true ↔ s.records ≠ []) ∧ (s.ready .upTransit = true ↔ s.upTransit ≠ []) ∧
    (s.ready .verdict = true ↔ s.verdicts ≠ []) ∧ (s.ready .downTransit = true ↔ s.downTransit ≠ [])) ∧
  ((sourcesOf .office = [.response, .notice, .record, .upTransit] ∧ sourcesOf .line = [.verdict, .downTransit]) ∧
    (∀ (p : Port) (s : State),
      ((s.port p).holding ≠ none ∨ (s.port p).partnerPaused = true ∨ (∀ x ∈ sourcesOf p, s.ready x = false) →
        exec (.egressGrant p) s = .next s) ∧
      (∀ f, (s.port p).holding = some f →
        exec (.endSent p) s = .next (s.setPort p { s.port p with
          holding := none, position := 0, sent := (s.port p).sent ++ f.characters.drop (s.port p).position })) ∧
      ∀ before x after, (s.port p).holding = none → (s.port p).partnerPaused = false →
        sourcesOf p = before ++ x :: after → s.ready x = true →
        ((8 ≤ s.passed.count x ∧ ∀ y ∈ before, s.ready y = true → s.passed.count y < 8) ∨
          ((∀ y ∈ sourcesOf p, s.ready y = true → s.passed.count y < 8) ∧ ∀ y ∈ before, s.ready y = false)) →
        ∃ f t u, s.takeFrom x = some (f, t) ∧
          exec (.egressGrant p) s =
            .next ({ t with passed := u }.setPort p { s.port p with holding := some f, position := 0 }) ∧
          ∀ y, u.count y = if y = x then 0 else if y ∈ sourcesOf p ∧ s.ready y = true then s.passed.count y + 1
            else s.passed.count y) ∧
    ∀ (s : State),
      let form := fun (destination : Nat) (cls : Byte) (payload : List Byte) =>
        (⟨BitVec.ofNat 8 destination, BitVec.ofNat 8 s.settings.link.nodeAddress, cls, payload⟩ : Frame)
      (∀ r rest, s.responses = r :: rest →
        s.takeFrom .response = some (form r.destination 0x42 r.payload, { s with responses := rest })) ∧
      (∀ n rest, s.notices = n :: rest → s.takeFrom .notice = some (form 127 0x43 n.payload, { s with notices := rest })) ∧
      (∀ r rest, s.records = r :: rest →
        s.takeFrom .record = some (form 127 0x31 r.payload,
          { s with records := rest, stall := s.stall && decide (192 < rest.length) })) ∧
      (∀ v rest, s.verdicts = v :: rest →
        s.takeFrom .verdict = some (form v.station 0x22 v.payload, { s with
          verdicts := rest
          counters := { s.counters with verdictsSent := raised s.counters.verdictsSent } })) ∧
      (∀ f rest, s.upTransit = f :: rest → s.takeFrom .upTransit = some (f, { s with upTransit := rest })) ∧
      ∀ f rest, s.downTransit = f :: rest → s.takeFrom .downTransit = some (f, { s with downTransit := rest })) ∧
  ∀ (ps : PortState),
    (ps.holding = none → ps.sendCharacter = { ps with sent := ps.sent ++ [0x100] }) ∧
    ∀ f, ps.holding = some f →
      (∀ ch, f.characters[ps.position]? = some ch → ps.position + 1 < f.characters.length →
        ps.sendCharacter = { ps with position := ps.position + 1, sent := ps.sent ++ [ch] }) ∧
      (∀ ch, f.characters[ps.position]? = some ch → ps.position + 1 = f.characters.length →
        ps.sendCharacter = { ps with holding := none, position := 0, sent := ps.sent ++ [ch] }) ∧
      (ps.position = 0 →
        (List.range f.characters.length).foldl (fun q _ => q.sendCharacter) ps =
          { ps with holding := none, position := 0, sent := ps.sent ++ f.characters })

/-- A frame with a payload of 240 bytes or less that one port sends is received as it was: its characters are START, its
data bytes and END; the data bytes taken one by one after a START, and then the END, put a GOOD entry of exactly those
bytes into the status queue, and the frame read back from it is the frame sent (R150, R151, R152, R155). Tap, beacon and
request payloads are read, and verdict, journey record, notice and response payloads written, field by field in the
layouts and codes of R160, every number high byte first, an absent value as zero with its presence bit clear, the counters
in the order of R168. That an in-use byte other than 0 or 1 of a time band or class entry means yes, and that a yes is
sent as 1, is the model's choice (log 34), and the zeros of a refused DAY_CHANGE or POOL_AUDIT are DEDUCED (log 17). -/
def Obligations.FrameSentIsFrameReceived : Prop :=
  (∀ p : List Byte,
    let num := fun (i n : Nat) => ((p.drop i).take n).foldl (fun a b => 256 * a + b.toNat) 0
    readTap p =
      { token := BitVec.ofNat 56 (num 0 7), cls := num 7 1, station := num 8 1, gate := num 9 1
        direction := num 10 1, day := num 11 2, time := num 13 3, gateDecided := num 16 1 } ∧
    readBeacon p = (num 0 2, num 2 3) ∧
    readStation p = ⟨num 0 1 != 0, num 1 3, num 4 1 != 0⟩ ∧ readFareBand p = ⟨num 0 2, num 2 2⟩ ∧
    readTimeBand p = ⟨num 0 1 != 0, num 1 2, num 3 2⟩ ∧
    readClass p = ⟨num 0 1 != 0, num 1 1, num 2 1, num 3 3⟩ ∧
    readConstants p = ⟨num 0 3, num 3 2, num 5 2, num 7 1, num 8 1⟩ ∧
    (∀ (α : Type) (size n : Nat) (f : List Byte → α),
      readEntries size f n p = (List.range n).map fun i => f ((p.drop (size * i)).take size)) ∧
    (p.length = 2 → readRequest (0x01 :: 1 :: p) = .settingWrite (.link (num 0 1) (num 1 1))) ∧
    (p.length = 6 → readRequest (0x01 :: 2 :: p) =
      .settingWrite (.timing (num 0 2) (num 2 1) (num 3 1) (num 4 2))) ∧
    (p.length = 8 → readRequest (0x01 :: 3 :: p) =
      .settingWrite (.journey (num 0 2) (num 2 2) (num 4 1) (num 5 1) (num 6 2))) ∧
    (∀ g : Byte, g ≠ 1 → g ≠ 2 → g ≠ 3 → readRequest (0x01 :: g :: p) = .settingWrite (.other g.toNat)) ∧
    (p.length = 1 → readRequest (0x02 :: p) = .settingRead (num 0 1)) ∧
    (p.length = 3 → readRequest (0x10 :: p) = .tableSeek (num 0 1) (num 1 2)) ∧
    (∀ c : Byte, readRequest (0x11 :: c :: p) = .tableWrite c.toNat p) ∧
    (p.length = 1 → readRequest (0x12 :: p) = .tableRead (num 0 1) none) ∧
    (p.length = 2 → readRequest (0x12 :: p) = .tableRead (num 0 1) (some (num 1 1))) ∧
    (∀ c : Byte, c ≠ 0 → c.toNat ≤ 8 → p.length = 7 * c.toNat →
      let tokens : List Token := (List.range c.toNat).map fun i => BitVec.ofNat 56 (num (7 * i) 7)
      readRequest (0x18 :: c :: p) = .denyAdd c.toNat tokens ∧
      readRequest (0x19 :: c :: p) = .denyRemove c.toNat tokens) ∧
    (∀ c : Byte, c = 0 ∨ 8 < c.toNat → ∃ xs ys,
      readRequest (0x18 :: c :: p) = .denyAdd c.toNat xs ∧ readRequest (0x19 :: c :: p) = .denyRemove c.toNat ys) ∧
    (p.length = 3 → readRequest (0x22 :: p) = .dayChange (num 0 2) (num 2 1)) ∧
    (p.length = 7 → readRequest (0x30 :: p) = .journeyQuery (BitVec.ofNat 56 (num 0 7))) ∧
    (p.length = 1 → readRequest (0x40 :: p) = .statusRead (num 0 1 != 0)) ∧
    (p.length = 1 → readRequest (0x41 :: p) = .engineReset (num 0 1)) ∧
    readRequest [0x13] = .tariffCheck ∧ readRequest [0x14] = .tariffCommit ∧ readRequest [0x15] = .tariffCopy ∧
    readRequest [0x20] = .serviceStart ∧ readRequest [0x21] = .serviceStop ∧ readRequest [0x31] = .poolAudit) ∧
  (let bytes := fun (xs : List (Nat × Nat)) =>
      xs.flatMap fun x => (List.range x.1).map fun i => BitVec.ofNat 8 (x.2 / 256 ^ (x.1 - 1 - i))
    let bit := fun (b : Bool) (n : Nat) => if b then n else 0
    let flags := fun (f : Flags) =>
      bit f.offlineEntry 1 + bit f.offlineExit 2 + bit f.clockDoubt 4 + bit f.timeClamped 8 + bit f.denied 16 +
        bit f.capUntracked 32 + bit f.classSubstituted 64 + bit f.damaged 128 + bit f.recovered 256 + bit f.forced 512
    let leg := fun (mark : Nat) (l : RecordLeg) =>
      bytes [(1, bit l.entry.isSome 1 + bit l.exit.isSome 2 + bit l.metres.isSome 4 + mark),
        (1, (l.entry.map (·.station)).getD 0), (3, (l.entry.map (·.time)).getD 0),
        (1, (l.exit.map (·.station)).getD 0), (3, (l.exit.map (·.time)).getD 0), (3, l.metres.getD 0)]
    let dayType := fun (d : DayType) => match d with
      | .workday => 0
      | .saturday => 1
      | .sundayHoliday => 2
    let bank := fun (b : BankName) => match b with
      | .bankA => 0
      | .bankB => 1
    let mode := fun (m : Mode) => match m with
      | .maintenance => 0
      | .service => 1
    let failure := fun (f : Option CheckFailure) => match f with
      | none => bytes [(3, 0)]
      | some x => bytes [(1, x.table), (1, x.index), (1, x.check)]
    let entry := fun (e : ReadEntry) => match e with
      | .station e => bytes [(1, bit e.inUse 1), (3, e.chainage), (1, bit e.breakPermitted 1)]
      | .fareBand e => bytes [(2, e.upperLimit), (2, e.rate)]
      | .timeBand e => bytes [(1, bit e.inUse 1), (2, e.startMinute), (2, e.percent)]
      | .cls e => bytes [(1, bit e.inUse 1), (1, e.payable), (1, e.step), (3, e.dailyCap)]
      | .constants e => bytes [(3, e.boardingCharge), (2, e.fareCeiling), (2, e.sameStationFee),
          (1, e.minimumDistance), (1, e.sameStationGrace)]
      | .token u => bytes [(7, u.toNat)]
    let settings := fun (v : SettingValues) => match v with
      | .link a b => bytes [(1, a), (1, b)]
      | .timing a b c d => bytes [(2, a), (1, b), (1, c), (2, d)]
      | .journey a b c d e => bytes [(2, a), (2, b), (1, c), (1, d), (2, e)]
      | .other _ => []
    let part := fun (p : JourneyPart) => match p with
      | .none => bytes [(1, 0)]
      | .core slot c legs => bytes [(1, 1), (2, slot), (1, c.cls), (2, c.day), (1, dayType c.dayType),
          (1, match c.state with
            | .opened => 1
            | .broken _ => 2), (1, c.entryStation), (3, c.entryTime), (3, c.firstEntryTime), (1, c.entryGate),
          (3, match c.state with
            | .opened => 0
            | .broken out => out), (1, legs.length)] ++
          (legs.flatMap fun l => match l with
            | some e => leg 0 ⟨some ⟨e.entryStation, e.entryTime⟩, some ⟨e.exitStation, e.exitTime⟩, some e.metres⟩
            | none => leg 8 ⟨none, none, none⟩) ++ bytes [(2, flags c.flags)]
      | .orphan slot o onOrder => bytes [(1, 2), (2, slot), (1, o.cls), (2, o.day), (1, o.exitStation),
          (1, o.exitGate), (3, o.exitTime), (3, o.arrival), (1, bit onOrder 1), (2, flags o.flags)]
    let account := fun (a : Option AccountPart) => match a with
      | none => bytes [(6, 0)]
      | some a => bytes [(1, 1), (2, a.cap), (2, a.spent), (1, a.journeys)]
    let counters := fun (c : Counters) =>
      bytes ([c.tapsTaken, c.malformedTaps, c.tapsRefused, c.verdictsSent, c.staleVerdicts, c.complete, c.incomplete,
        c.unmatchedExit, c.entryCancelled, c.refusal, c.entryUntracked, c.capUntracked, c.badFramesLine,
        c.badFramesOffice, c.misplacedLine, c.misplacedOffice, c.lineErrorsLine, c.lineErrorsOffice].map fun n => (4, n))
    let fault := fun (f : Option FaultEntry) => match f with
      | none => bytes [(6, 0)]
      | some f => bytes [(1, match f.code with
          | .slotCheck => 1
          | .malformedTap => 2), (2, f.number), (3, f.time)]
    (∀ v : Verdict, v.payload = bytes [(7, v.token.toNat), (1, v.gate),
      (1, match v.kind with
        | .allow => 1
        | .allowNote => 2
        | .refuse => 3
        | .notInService => 4),
      (1, match v.reason with
        | .none => 0
        | .denied => 1
        | .alreadyInside => 2
        | .previousSettled => 3
        | .untracked => 4
        | .journeyHeld => 5
        | .noEntryFound => 6),
      (1, bit v.charged.isSome 1 + bit v.capRemaining.isSome 2), (2, v.charged.getD 0), (2, v.capRemaining.getD 0)]) ∧
    (∀ r : JourneyRecord, r.payload =
      bytes [(1, match r.kind with
          | .complete => 1
          | .incomplete => 2
          | .unmatchedExit => 3
          | .entryCancelled => 4
          | .refusal => 5
          | .entryUntracked => 6), (7, r.token.toNat), (1, r.cls), (2, r.day),
        (1, bit r.basis.isSome 1 + bit r.capSpent.isSome 2), (1, r.legs.length)] ++ r.legs.flatMap (leg 0) ++
      bytes [(2, (r.basis.map (·.distance)).getD 0), (4, (r.basis.map (·.distanceFare)).getD 0),
        (2, (r.basis.map (·.percent)).getD 0), (2, r.classFare), (2, r.charged), (2, r.capSpent.getD 0),
        (2, flags r.flags)]) ∧
    (∀ n : Notice,
      let form := fun (kind : Nat) (detail : List (Nat × Nat)) =>
        n.payload = bytes ([(1, kind), (2, n.count), (3, n.time)] ++ detail)
      match n.detail with
      | .shortage c => form 1 [(2, c), (8, 0)]
      | .shortageCleared c => form 2 [(2, c), (8, 0)]
      | .clockDoubt .endOfDay u => form 3 [(1, 1), (3, u), (6, 0)]
      | .clockDoubt .beaconLate u => form 3 [(1, 2), (3, u), (6, 0)]
      | .clockDispute d u c v => form 4 [(2, d), (3, u), (2, c), (3, v)]
      | .partnerStalled .line => form 5 [(1, 1), (9, 0)]
      | .partnerStalled .office => form 5 [(1, 2), (9, 0)]
      | .slotQuarantined m => form 6 [(2, m), (8, 0)]) ∧
    ∀ r : Response, r.payload =
      bytes [(1, r.kind), (1, match r.result with
        | .done => 0
        | .beyondEnd => 1
        | .badState => 2
        | .badArgument => 3
        | .tableInvalid => 4
        | .busy => 5
        | .notFound => 6
        | .listFull => 7)] ++
      match r.data with
      | .malformed => []
      | .setting g w n held => bytes [(1, g), (1, bit w 1), (1, n)] ++ settings held
      | .tariff x => bytes [(1, x.cursorTable), (2, x.cursorIndex), (2, x.length),
          (1, bit x.valid 1 + bit x.pendingSwap 2 + bit x.withdrawn 4), (1, bank x.live), (1, x.count)] ++
          failure x.failure ++ x.entries.flatMap entry
      | .deny n m => bytes [(1, n), (2, m)]
      | .serviceStart x => bytes [(1, match x.item with
            | .none => 0
            | .alreadyInService => 1
            | .linkNotWritten => 2
            | .timingNotWritten => 3
            | .journeyNotWritten => 4
            | .liveTariff => 5
            | .dayUnset => 6)] ++ failure x.failure ++ bytes [(2, x.day), (1, dayType x.dayType), (1, bank x.live)]
      | .serviceStop m => bytes [(1, mode m)]
      | .dayChange none => bytes [(13, 0)]
      | .dayChange (some x) => bytes [(2, x.day), (1, dayType x.dayType), (1, bit x.swapped 1), (1, bank x.live),
          (2, x.counts.incomplete), (2, x.counts.complete), (2, x.counts.unmatched), (2, x.counts.damaged)]
      | .query p a => part p ++ account a
      | .poolAudit none => bytes [(12, 0)]
      | .poolAudit (some x) => bytes [(2, x.counts.recovered), (2, x.counts.damaged), (2, x.counts.loneReleased),
          (2, x.counts.restored), (2, x.stillQuarantined), (2, x.counts.rebuildSettled)]
      | .status x => bytes [(1, mode x.mode), (2, x.clock.day.getD 0), (1, dayType x.clock.dayType), (3, x.clock.time),
          (1, bit x.clock.doubt 1), (2, x.counts.free), (2, x.counts.cores + x.counts.extensions + x.counts.orphans),
          (2, x.counts.quarantined), (2, x.counts.cores), (2, x.counts.orphans), (1, bit x.pendingSwap 1),
          (1, bit x.written.link 1 + bit x.written.timing 2 + bit x.written.journey 4)] ++
          counters x.counters ++ fault x.fault
      | .engineReset k j o => bytes [(1, k), (2, j), (2, o)]) ∧
  ∀ (f : Frame) (p : Port) (s : State), f.payload.length ≤ 240 →
    (∃ synced, (s.port p).rx = .outside synced) → (s.port p).places < 64 → (s.port p).queue.length < 16 →
    (s.port p).held = [] →
    ∃ bytes : List Byte,
      f.characters = 0x101 :: (bytes.map fun b => b.zeroExtend 9) ++ [0x102] ∧
      (⟨bytes, .good⟩ : StoredFrame).frame = f ∧
      ∃ t u, bytes.foldl (fun o b => match o with
          | .next s => exec (.dataByte p b) s
          | o => o) (exec (.frameStart p) s) = .next t ∧
        exec (.frameEnd p) t = .next u ∧ (u.port p).queue = (s.port p).queue ++ [⟨bytes, .good⟩] ∧
        (u.port p).rx = .outside true ∧ u.counters = s.counters

/-! ### Fares and caps -/

/-- The stages of a fare: the basis holds the fare distance, its distance fare and the percent in force, and the class
fare is that of the peak fare of the two (R4). Bands, times and constants are those of the bank (R28, R29, R31). A leg between two stations in use is the difference of their chainages, and one that touches a
station not in use is the span of the line, the greatest difference between two stations in use; an exit without entry
is priced over the greatest distance from its station to any, or over the span (R5, R20); that a leg from a station not
in use to that same station is the span too is DEDUCED (log 29). The fare distance is the
metres in hectometres, rounded up, and at least the minimum (R6). The distance fare of 0 hm is the boarding charge, and
each further hectometre adds the rate of the band it lies in, the last band's beyond its limit (R7, R8). The percent is
that of the last band in use that starts at or before the minute (R9). The peak fare is the nearest mill, halves up, and
at most the ceiling (R10, R11). The class fare is the greatest multiple of the step not above the payable part, and at
most the ceiling (R12, R16). -/
def Obligations.FaresFollowTheirStages : Prop :=
  (∀ (b : Bank) (d : DayType) (minute fd : Nat) (e : ClassEntry),
    staged b d minute fd e = (⟨fd, distanceFare b fd, peakPercent b d minute⟩,
      classFare e (peakFare b (distanceFare b fd) (peakPercent b d minute))) ∧
    bandsInUse b = b.fareBands.entries.filter (fun x => decide (0 < x.upperLimit)) ∧
    dayBands b d = (b.timeBands.entries.drop (match d with
      | .workday => 0
      | .saturday => 6
      | .sundayHoliday => 12)).take 6 ∧
    ∀ c, b.constants.entries[0]? = some c → constantsOf b = c) ∧
  (∀ b : Bank,
    let station := fun (n c : Nat) => 1 ≤ n ∧ ∃ p, b.stations.entries[n - 1]? = some ⟨true, c, p⟩
    let out := fun (n : Nat) => n = 0 ∨ ∀ e, b.stations.entries[n - 1]? = some e → e.inUse = false
    let inUse := b.stations.entries.filter (·.inUse)
    (∀ m n c d, station m c → station n d → legMetres b m n = max c d - min c d) ∧
    (∀ m n, out m ∨ out n → legMetres b m n = lineSpan b) ∧
    (2 ≤ inUse.length →
      (∀ e ∈ inUse, ∀ f ∈ inUse, e.chainage - f.chainage ≤ lineSpan b) ∧
      ∃ e ∈ inUse, ∃ f ∈ inUse, lineSpan b = e.chainage - f.chainage) ∧
    (∀ n c, station n c →
      (∀ e ∈ inUse, max c e.chainage - min c e.chainage ≤ unmatchedMetres b n) ∧
      ∃ e ∈ inUse, unmatchedMetres b n = max c e.chainage - min c e.chainage) ∧
    (∀ n, out n → unmatchedMetres b n = lineSpan b) ∧
    ∀ metres, let hm := fareDistance b metres
      metres ≤ 100 * hm ∧ (constantsOf b).minimumDistance ≤ hm ∧
        ((constantsOf b).minimumDistance < hm → 100 * hm < metres + 100)) ∧
  (∀ b : Bank,
      (bandsInUse b ≠ [] → distanceFare b 0 = (constantsOf b).boardingCharge) ∧
      (∀ fd before e after, bandsInUse b = before ++ e :: after →
        (bandsInUse b).Pairwise (fun x y => x.upperLimit < y.upperLimit) → (∀ x ∈ before, x.upperLimit ≤ fd) →
        (fd < e.upperLimit ∨ after = []) → distanceFare b (fd + 1) = distanceFare b fd + e.rate) ∧
      (∀ d minute before e after, dayBands b d = before ++ e :: after → e.inUse = true → e.startMinute ≤ minute →
        (∀ x ∈ after, x.inUse = true → minute < x.startMinute) → peakPercent b d minute = e.percent) ∧
      (∀ df percent, let ceiling := (constantsOf b).fareCeiling * 10
        peakFare b df percent ≤ ceiling ∧
        (df * percent + 50 < 100 * ceiling + 100 →
          100 * peakFare b df percent ≤ df * percent + 50 ∧ df * percent + 50 < 100 * peakFare b df percent + 100) ∧
        (100 * ceiling + 100 ≤ df * percent + 50 → peakFare b df percent = ceiling)) ∧
      ∀ (e : ClassEntry) (df percent : Nat), 1 ≤ e.step → e.payable ≤ 100 →
        let mills := peakFare b df percent
        let fare := classFare e mills
        fare % e.step = 0 ∧ 1000 * fare ≤ mills * e.payable ∧ mills * e.payable < 1000 * (fare + e.step) ∧
          fare ≤ (constantsOf b).fareCeiling)

/-- A charge of the Cap Table. A record of another day is STALE_DAY and changes nothing. The card's bucket, empty unless its
day mark is the current day, is walked from its head. The card's current account, wherever it lies on the chain, is cut
by the lesser of the fare and what is left under its recorded cap, and its journeys charged rise to 255 at most. A card
without one is given the first account that is not current from the hint upward, wrapping, linked at the head of its
bucket with the old head after it, and is cut there; with every account current it is NO_ACCOUNT, counted, and nothing
else changes (R14, R119 to R123). Stage Five: a class without a cap keeps its class fare and no account is asked for; a
record of another day is charged its class fare with CAP_UNTRACKED; one of the current day is charged what its account
was cut by, with the account's spent, or its class fare with CAP_UNTRACKED where there is no account or its day has
passed since the test (R13 to R15, R81, R125). -/
def Obligations.CapChargeCutsTheAccount : Prop :=
  (∀ (s : State) (token : Token) (day cap fare : Nat),
      let bucket := accountBucketOf token
      let head : Option Nat := match sparseGet s.cap.buckets bucket with
        | some x => if x.mark = s.today then some x.head else none
        | none => none
      (day ≠ s.today → s.charge token day cap fare = (.staleDay, s)) ∧
      (∀ before n a, day = s.today → s.cap.Leads head before (some n) → before.length < 8192 →
        (∀ x ∈ before, x.2.token ≠ token) → sparseGet s.cap.accounts n = some a → a.token = token →
        let amount := min fare (a.cap - a.spent)
        ∃ t, s.charge token day cap fare = (.charged amount a.cap (a.spent + amount), { s with cap := t }) ∧
          sparseGet t.accounts n = some { a with
            spent := a.spent + amount, journeys := if a.journeys < 255 then a.journeys + 1 else a.journeys } ∧
          (∀ m, m ≠ n → sparseGet t.accounts m = sparseGet s.cap.accounts m) ∧
          t.buckets = s.cap.buckets ∧ t.hint = s.cap.hint) ∧
      (∀ before, day = s.today → s.cap.hint < 8192 → s.cap.Leads head before none → before.length ≤ 8192 →
        (∀ x ∈ before, x.2.token ≠ token) →
        let current := fun n => ∃ a, sparseGet s.cap.accounts n = some a ∧ a.day = s.today
        (∀ k, k < 8192 → ¬current ((s.cap.hint + k) % 8192) → (∀ j, j < k → current ((s.cap.hint + j) % 8192)) →
          let n := (s.cap.hint + k) % 8192
          ∃ t, s.charge token day cap fare = (.charged (min fare cap) cap (min fare cap), { s with cap := t }) ∧
            sparseGet t.accounts n = some ⟨token, s.today, cap, min fare cap, 1, head⟩ ∧
            (∀ m, m ≠ n → sparseGet t.accounts m = sparseGet s.cap.accounts m) ∧
            sparseGet t.buckets bucket = some ⟨s.today, n⟩ ∧
            (∀ b, b ≠ bucket → sparseGet t.buckets b = sparseGet s.cap.buckets b) ∧ t.hint = (n + 1) % 8192) ∧
        ((∀ n, n < 8192 → current n) →
          s.charge token day cap fare =
            (.noAccount, { s with counters := { s.counters with capUntracked := raised s.counters.capUntracked } })))) ∧
  ∀ (s : State) (cap : Nat) (r : JourneyRecord),
    let untracked := { r with flags := r.flags.union { capUntracked := true } }
    s.capStage 0 r = (⟨r, none⟩, s) ∧
    (cap ≠ 0 → r.day ≠ s.today → s.capStage cap r = (⟨untracked, none⟩, s)) ∧
    (r.day ≠ s.today → s.chargeRecord ⟨r, some cap⟩ = (⟨untracked, none⟩, s)) ∧
    (cap ≠ 0 → r.day = s.today →
      s.testCap cap r = ⟨r, some cap⟩ ∧
      (∀ amount recorded spent t, s.charge r.token r.day cap r.classFare = (.charged amount recorded spent, t) →
        s.capStage cap r = (⟨{ r with charged := amount, capSpent := some spent }, some recorded⟩, t) ∧
        (s.capStage cap r).1.capRemaining = some (recorded - spent)) ∧
      ∀ t, s.charge r.token r.day cap r.classFare = (.noAccount, t) →
        s.capStage cap r = (⟨untracked, none⟩, t) ∧ (s.capStage cap r).1.capRemaining = none)
end

