-- ==== Sys2Proof/Laws/State.lean ====
section
/-! SUPPORT. For each basic update of the state, the fields it leaves as they were: one lemma per field per update. -/

namespace Sys2Proof.Machine

variable (s : State)

/-- A declaration of shortage touches the Sweep Unit alone (R140). -/
theorem State.startSequence_eq : ∃ w, s.startSequence = { s with sweep := w } := by
  unfold State.startSequence
  split
  · dsimp only
    split
    · exact ⟨_, rfl⟩
    · exact ⟨_, rfl⟩
  · exact ⟨s.sweep, rfl⟩

/-! ### State.raise -/

@[simp] theorem State.raise_pending (d : NoticeDetail) : (s.raise d).pending = s.pending := rfl
@[simp] theorem State.raise_mode (d : NoticeDetail) : (s.raise d).mode = s.mode := rfl
@[simp] theorem State.raise_clock (d : NoticeDetail) : (s.raise d).clock = s.clock := rfl
@[simp] theorem State.raise_watchdog (d : NoticeDetail) : (s.raise d).watchdog = s.watchdog := rfl
@[simp] theorem State.raise_tariff (d : NoticeDetail) : (s.raise d).tariff = s.tariff := rfl
@[simp] theorem State.raise_copy (d : NoticeDetail) : (s.raise d).copy = s.copy := rfl
@[simp] theorem State.raise_deny (d : NoticeDetail) : (s.raise d).deny = s.deny := rfl
@[simp] theorem State.raise_table (d : NoticeDetail) : (s.raise d).table = s.table := rfl
@[simp] theorem State.raise_cap (d : NoticeDetail) : (s.raise d).cap = s.cap := rfl
@[simp] theorem State.raise_taps (d : NoticeDetail) : (s.raise d).taps = s.taps := rfl
@[simp] theorem State.raise_unit (d : NoticeDetail) : (s.raise d).unit = s.unit := rfl
@[simp] theorem State.raise_stall (d : NoticeDetail) : (s.raise d).stall = s.stall := rfl
@[simp] theorem State.raise_sweep (d : NoticeDetail) : (s.raise d).sweep = s.sweep := rfl
@[simp] theorem State.raise_verdicts (d : NoticeDetail) : (s.raise d).verdicts = s.verdicts := rfl
@[simp] theorem State.raise_records (d : NoticeDetail) : (s.raise d).records = s.records := rfl
@[simp] theorem State.raise_responses (d : NoticeDetail) : (s.raise d).responses = s.responses := rfl
@[simp] theorem State.raise_upTransit (d : NoticeDetail) : (s.raise d).upTransit = s.upTransit := rfl
@[simp] theorem State.raise_downTransit (d : NoticeDetail) : (s.raise d).downTransit = s.downTransit := rfl
@[simp] theorem State.raise_passed (d : NoticeDetail) : (s.raise d).passed = s.passed := rfl
@[simp] theorem State.raise_hand (d : NoticeDetail) : (s.raise d).hand = s.hand := rfl
@[simp] theorem State.raise_dayOp (d : NoticeDetail) : (s.raise d).dayOp = s.dayOp := rfl
@[simp] theorem State.raise_auditOp (d : NoticeDetail) : (s.raise d).auditOp = s.auditOp := rfl
@[simp] theorem State.raise_settings (d : NoticeDetail) : (s.raise d).settings = s.settings := rfl
@[simp] theorem State.raise_written (d : NoticeDetail) : (s.raise d).written = s.written := rfl
@[simp] theorem State.raise_counters (d : NoticeDetail) : (s.raise d).counters = s.counters := rfl
@[simp] theorem State.raise_fault (d : NoticeDetail) : (s.raise d).fault = s.fault := rfl
@[simp] theorem State.raise_line (d : NoticeDetail) : (s.raise d).line = s.line := rfl
@[simp] theorem State.raise_office (d : NoticeDetail) : (s.raise d).office = s.office := rfl

/-! ### State.writeFault -/

@[simp] theorem State.writeFault_pending (c : FaultCode) (n : Nat) : (s.writeFault c n).pending = s.pending := rfl
@[simp] theorem State.writeFault_mode (c : FaultCode) (n : Nat) : (s.writeFault c n).mode = s.mode := rfl
@[simp] theorem State.writeFault_clock (c : FaultCode) (n : Nat) : (s.writeFault c n).clock = s.clock := rfl
@[simp] theorem State.writeFault_watchdog (c : FaultCode) (n : Nat) : (s.writeFault c n).watchdog = s.watchdog := rfl
@[simp] theorem State.writeFault_tariff (c : FaultCode) (n : Nat) : (s.writeFault c n).tariff = s.tariff := rfl
@[simp] theorem State.writeFault_copy (c : FaultCode) (n : Nat) : (s.writeFault c n).copy = s.copy := rfl
@[simp] theorem State.writeFault_deny (c : FaultCode) (n : Nat) : (s.writeFault c n).deny = s.deny := rfl
@[simp] theorem State.writeFault_table (c : FaultCode) (n : Nat) : (s.writeFault c n).table = s.table := rfl
@[simp] theorem State.writeFault_cap (c : FaultCode) (n : Nat) : (s.writeFault c n).cap = s.cap := rfl
@[simp] theorem State.writeFault_taps (c : FaultCode) (n : Nat) : (s.writeFault c n).taps = s.taps := rfl
@[simp] theorem State.writeFault_unit (c : FaultCode) (n : Nat) : (s.writeFault c n).unit = s.unit := rfl
@[simp] theorem State.writeFault_stall (c : FaultCode) (n : Nat) : (s.writeFault c n).stall = s.stall := rfl
@[simp] theorem State.writeFault_sweep (c : FaultCode) (n : Nat) : (s.writeFault c n).sweep = s.sweep := rfl
@[simp] theorem State.writeFault_verdicts (c : FaultCode) (n : Nat) : (s.writeFault c n).verdicts = s.verdicts := rfl
@[simp] theorem State.writeFault_records (c : FaultCode) (n : Nat) : (s.writeFault c n).records = s.records := rfl
@[simp] theorem State.writeFault_responses (c : FaultCode) (n : Nat) : (s.writeFault c n).responses = s.responses := rfl
@[simp] theorem State.writeFault_notices (c : FaultCode) (n : Nat) : (s.writeFault c n).notices = s.notices := rfl
@[simp] theorem State.writeFault_upTransit (c : FaultCode) (n : Nat) : (s.writeFault c n).upTransit = s.upTransit := rfl
@[simp] theorem State.writeFault_downTransit (c : FaultCode) (n : Nat) : (s.writeFault c n).downTransit = s.downTransit := rfl
@[simp] theorem State.writeFault_passed (c : FaultCode) (n : Nat) : (s.writeFault c n).passed = s.passed := rfl
@[simp] theorem State.writeFault_hand (c : FaultCode) (n : Nat) : (s.writeFault c n).hand = s.hand := rfl
@[simp] theorem State.writeFault_dayOp (c : FaultCode) (n : Nat) : (s.writeFault c n).dayOp = s.dayOp := rfl
@[simp] theorem State.writeFault_auditOp (c : FaultCode) (n : Nat) : (s.writeFault c n).auditOp = s.auditOp := rfl
@[simp] theorem State.writeFault_settings (c : FaultCode) (n : Nat) : (s.writeFault c n).settings = s.settings := rfl
@[simp] theorem State.writeFault_written (c : FaultCode) (n : Nat) : (s.writeFault c n).written = s.written := rfl
@[simp] theorem State.writeFault_counters (c : FaultCode) (n : Nat) : (s.writeFault c n).counters = s.counters := rfl
@[simp] theorem State.writeFault_line (c : FaultCode) (n : Nat) : (s.writeFault c n).line = s.line := rfl
@[simp] theorem State.writeFault_office (c : FaultCode) (n : Nat) : (s.writeFault c n).office = s.office := rfl

/-! ### State.appendRecord -/

@[simp] theorem State.appendRecord_pending (r : JourneyRecord) : (s.appendRecord r).pending = s.pending := rfl
@[simp] theorem State.appendRecord_mode (r : JourneyRecord) : (s.appendRecord r).mode = s.mode := rfl
@[simp] theorem State.appendRecord_clock (r : JourneyRecord) : (s.appendRecord r).clock = s.clock := rfl
@[simp] theorem State.appendRecord_watchdog (r : JourneyRecord) : (s.appendRecord r).watchdog = s.watchdog := rfl
@[simp] theorem State.appendRecord_tariff (r : JourneyRecord) : (s.appendRecord r).tariff = s.tariff := rfl
@[simp] theorem State.appendRecord_copy (r : JourneyRecord) : (s.appendRecord r).copy = s.copy := rfl
@[simp] theorem State.appendRecord_deny (r : JourneyRecord) : (s.appendRecord r).deny = s.deny := rfl
@[simp] theorem State.appendRecord_table (r : JourneyRecord) : (s.appendRecord r).table = s.table := rfl
@[simp] theorem State.appendRecord_cap (r : JourneyRecord) : (s.appendRecord r).cap = s.cap := rfl
@[simp] theorem State.appendRecord_taps (r : JourneyRecord) : (s.appendRecord r).taps = s.taps := rfl
@[simp] theorem State.appendRecord_unit (r : JourneyRecord) : (s.appendRecord r).unit = s.unit := rfl
@[simp] theorem State.appendRecord_sweep (r : JourneyRecord) : (s.appendRecord r).sweep = s.sweep := rfl
@[simp] theorem State.appendRecord_verdicts (r : JourneyRecord) : (s.appendRecord r).verdicts = s.verdicts := rfl
@[simp] theorem State.appendRecord_responses (r : JourneyRecord) : (s.appendRecord r).responses = s.responses := rfl
@[simp] theorem State.appendRecord_notices (r : JourneyRecord) : (s.appendRecord r).notices = s.notices := rfl
@[simp] theorem State.appendRecord_upTransit (r : JourneyRecord) : (s.appendRecord r).upTransit = s.upTransit := rfl
@[simp] theorem State.appendRecord_downTransit (r : JourneyRecord) : (s.appendRecord r).downTransit = s.downTransit := rfl
@[simp] theorem State.appendRecord_passed (r : JourneyRecord) : (s.appendRecord r).passed = s.passed := rfl
@[simp] theorem State.appendRecord_hand (r : JourneyRecord) : (s.appendRecord r).hand = s.hand := rfl
@[simp] theorem State.appendRecord_dayOp (r : JourneyRecord) : (s.appendRecord r).dayOp = s.dayOp := rfl
@[simp] theorem State.appendRecord_auditOp (r : JourneyRecord) : (s.appendRecord r).auditOp = s.auditOp := rfl
@[simp] theorem State.appendRecord_settings (r : JourneyRecord) : (s.appendRecord r).settings = s.settings := rfl
@[simp] theorem State.appendRecord_written (r : JourneyRecord) : (s.appendRecord r).written = s.written := rfl
@[simp] theorem State.appendRecord_fault (r : JourneyRecord) : (s.appendRecord r).fault = s.fault := rfl
@[simp] theorem State.appendRecord_line (r : JourneyRecord) : (s.appendRecord r).line = s.line := rfl
@[simp] theorem State.appendRecord_office (r : JourneyRecord) : (s.appendRecord r).office = s.office := rfl

/-! ### State.rewrite -/

@[simp] theorem State.rewrite_pending (n : Nat) (c : Content) : (s.rewrite n c).pending = s.pending := by unfold State.rewrite; split <;> rfl
@[simp] theorem State.rewrite_mode (n : Nat) (c : Content) : (s.rewrite n c).mode = s.mode := by unfold State.rewrite; split <;> rfl
@[simp] theorem State.rewrite_clock (n : Nat) (c : Content) : (s.rewrite n c).clock = s.clock := by unfold State.rewrite; split <;> rfl
@[simp] theorem State.rewrite_watchdog (n : Nat) (c : Content) : (s.rewrite n c).watchdog = s.watchdog := by unfold State.rewrite; split <;> rfl
@[simp] theorem State.rewrite_tariff (n : Nat) (c : Content) : (s.rewrite n c).tariff = s.tariff := by unfold State.rewrite; split <;> rfl
@[simp] theorem State.rewrite_copy (n : Nat) (c : Content) : (s.rewrite n c).copy = s.copy := by unfold State.rewrite; split <;> rfl
@[simp] theorem State.rewrite_deny (n : Nat) (c : Content) : (s.rewrite n c).deny = s.deny := by unfold State.rewrite; split <;> rfl
@[simp] theorem State.rewrite_cap (n : Nat) (c : Content) : (s.rewrite n c).cap = s.cap := by unfold State.rewrite; split <;> rfl
@[simp] theorem State.rewrite_taps (n : Nat) (c : Content) : (s.rewrite n c).taps = s.taps := by unfold State.rewrite; split <;> rfl
@[simp] theorem State.rewrite_unit (n : Nat) (c : Content) : (s.rewrite n c).unit = s.unit := by unfold State.rewrite; split <;> rfl
@[simp] theorem State.rewrite_stall (n : Nat) (c : Content) : (s.rewrite n c).stall = s.stall := by unfold State.rewrite; split <;> rfl
@[simp] theorem State.rewrite_sweep (n : Nat) (c : Content) : (s.rewrite n c).sweep = s.sweep := by unfold State.rewrite; split <;> rfl
@[simp] theorem State.rewrite_verdicts (n : Nat) (c : Content) : (s.rewrite n c).verdicts = s.verdicts := by unfold State.rewrite; split <;> rfl
@[simp] theorem State.rewrite_records (n : Nat) (c : Content) : (s.rewrite n c).records = s.records := by unfold State.rewrite; split <;> rfl
@[simp] theorem State.rewrite_responses (n : Nat) (c : Content) : (s.rewrite n c).responses = s.responses := by unfold State.rewrite; split <;> rfl
@[simp] theorem State.rewrite_notices (n : Nat) (c : Content) : (s.rewrite n c).notices = s.notices := by unfold State.rewrite; split <;> rfl
@[simp] theorem State.rewrite_upTransit (n : Nat) (c : Content) : (s.rewrite n c).upTransit = s.upTransit := by unfold State.rewrite; split <;> rfl
@[simp] theorem State.rewrite_downTransit (n : Nat) (c : Content) : (s.rewrite n c).downTransit = s.downTransit := by unfold State.rewrite; split <;> rfl
@[simp] theorem State.rewrite_passed (n : Nat) (c : Content) : (s.rewrite n c).passed = s.passed := by unfold State.rewrite; split <;> rfl
@[simp] theorem State.rewrite_hand (n : Nat) (c : Content) : (s.rewrite n c).hand = s.hand := by unfold State.rewrite; split <;> rfl
@[simp] theorem State.rewrite_dayOp (n : Nat) (c : Content) : (s.rewrite n c).dayOp = s.dayOp := by unfold State.rewrite; split <;> rfl
@[simp] theorem State.rewrite_auditOp (n : Nat) (c : Content) : (s.rewrite n c).auditOp = s.auditOp := by unfold State.rewrite; split <;> rfl
@[simp] theorem State.rewrite_settings (n : Nat) (c : Content) : (s.rewrite n c).settings = s.settings := by unfold State.rewrite; split <;> rfl
@[simp] theorem State.rewrite_written (n : Nat) (c : Content) : (s.rewrite n c).written = s.written := by unfold State.rewrite; split <;> rfl
@[simp] theorem State.rewrite_counters (n : Nat) (c : Content) : (s.rewrite n c).counters = s.counters := by unfold State.rewrite; split <;> rfl
@[simp] theorem State.rewrite_fault (n : Nat) (c : Content) : (s.rewrite n c).fault = s.fault := by unfold State.rewrite; split <;> rfl
@[simp] theorem State.rewrite_line (n : Nat) (c : Content) : (s.rewrite n c).line = s.line := by unfold State.rewrite; split <;> rfl
@[simp] theorem State.rewrite_office (n : Nat) (c : Content) : (s.rewrite n c).office = s.office := by unfold State.rewrite; split <;> rfl

/-! ### State.quarantine -/

@[simp] theorem State.quarantine_pending (n : Nat) : (s.quarantine n).pending = s.pending := rfl
@[simp] theorem State.quarantine_mode (n : Nat) : (s.quarantine n).mode = s.mode := rfl
@[simp] theorem State.quarantine_clock (n : Nat) : (s.quarantine n).clock = s.clock := rfl
@[simp] theorem State.quarantine_watchdog (n : Nat) : (s.quarantine n).watchdog = s.watchdog := rfl
@[simp] theorem State.quarantine_tariff (n : Nat) : (s.quarantine n).tariff = s.tariff := rfl
@[simp] theorem State.quarantine_copy (n : Nat) : (s.quarantine n).copy = s.copy := rfl
@[simp] theorem State.quarantine_deny (n : Nat) : (s.quarantine n).deny = s.deny := rfl
@[simp] theorem State.quarantine_cap (n : Nat) : (s.quarantine n).cap = s.cap := rfl
@[simp] theorem State.quarantine_taps (n : Nat) : (s.quarantine n).taps = s.taps := rfl
@[simp] theorem State.quarantine_unit (n : Nat) : (s.quarantine n).unit = s.unit := rfl
@[simp] theorem State.quarantine_stall (n : Nat) : (s.quarantine n).stall = s.stall := rfl
@[simp] theorem State.quarantine_sweep (n : Nat) : (s.quarantine n).sweep = s.sweep := rfl
@[simp] theorem State.quarantine_verdicts (n : Nat) : (s.quarantine n).verdicts = s.verdicts := rfl
@[simp] theorem State.quarantine_records (n : Nat) : (s.quarantine n).records = s.records := rfl
@[simp] theorem State.quarantine_responses (n : Nat) : (s.quarantine n).responses = s.responses := rfl
@[simp] theorem State.quarantine_upTransit (n : Nat) : (s.quarantine n).upTransit = s.upTransit := rfl
@[simp] theorem State.quarantine_downTransit (n : Nat) : (s.quarantine n).downTransit = s.downTransit := rfl
@[simp] theorem State.quarantine_passed (n : Nat) : (s.quarantine n).passed = s.passed := rfl
@[simp] theorem State.quarantine_hand (n : Nat) : (s.quarantine n).hand = s.hand := rfl
@[simp] theorem State.quarantine_dayOp (n : Nat) : (s.quarantine n).dayOp = s.dayOp := rfl
@[simp] theorem State.quarantine_auditOp (n : Nat) : (s.quarantine n).auditOp = s.auditOp := rfl
@[simp] theorem State.quarantine_settings (n : Nat) : (s.quarantine n).settings = s.settings := rfl
@[simp] theorem State.quarantine_written (n : Nat) : (s.quarantine n).written = s.written := rfl
@[simp] theorem State.quarantine_counters (n : Nat) : (s.quarantine n).counters = s.counters := rfl
@[simp] theorem State.quarantine_line (n : Nat) : (s.quarantine n).line = s.line := rfl
@[simp] theorem State.quarantine_office (n : Nat) : (s.quarantine n).office = s.office := rfl

/-! ### State.setBucketHead -/

@[simp] theorem State.setBucketHead_pending (b : Nat) (h : Option Nat) : (s.setBucketHead b h).pending = s.pending := rfl
@[simp] theorem State.setBucketHead_mode (b : Nat) (h : Option Nat) : (s.setBucketHead b h).mode = s.mode := rfl
@[simp] theorem State.setBucketHead_clock (b : Nat) (h : Option Nat) : (s.setBucketHead b h).clock = s.clock := rfl
@[simp] theorem State.setBucketHead_watchdog (b : Nat) (h : Option Nat) : (s.setBucketHead b h).watchdog = s.watchdog := rfl
@[simp] theorem State.setBucketHead_tariff (b : Nat) (h : Option Nat) : (s.setBucketHead b h).tariff = s.tariff := rfl
@[simp] theorem State.setBucketHead_copy (b : Nat) (h : Option Nat) : (s.setBucketHead b h).copy = s.copy := rfl
@[simp] theorem State.setBucketHead_deny (b : Nat) (h : Option Nat) : (s.setBucketHead b h).deny = s.deny := rfl
@[simp] theorem State.setBucketHead_cap (b : Nat) (h : Option Nat) : (s.setBucketHead b h).cap = s.cap := rfl
@[simp] theorem State.setBucketHead_taps (b : Nat) (h : Option Nat) : (s.setBucketHead b h).taps = s.taps := rfl
@[simp] theorem State.setBucketHead_unit (b : Nat) (h : Option Nat) : (s.setBucketHead b h).unit = s.unit := rfl
@[simp] theorem State.setBucketHead_stall (b : Nat) (h : Option Nat) : (s.setBucketHead b h).stall = s.stall := rfl
@[simp] theorem State.setBucketHead_sweep (b : Nat) (h : Option Nat) : (s.setBucketHead b h).sweep = s.sweep := rfl
@[simp] theorem State.setBucketHead_verdicts (b : Nat) (h : Option Nat) : (s.setBucketHead b h).verdicts = s.verdicts := rfl
@[simp] theorem State.setBucketHead_records (b : Nat) (h : Option Nat) : (s.setBucketHead b h).records = s.records := rfl
@[simp] theorem State.setBucketHead_responses (b : Nat) (h : Option Nat) : (s.setBucketHead b h).responses = s.responses := rfl
@[simp] theorem State.setBucketHead_notices (b : Nat) (h : Option Nat) : (s.setBucketHead b h).notices = s.notices := rfl
@[simp] theorem State.setBucketHead_upTransit (b : Nat) (h : Option Nat) : (s.setBucketHead b h).upTransit = s.upTransit := rfl
@[simp] theorem State.setBucketHead_downTransit (b : Nat) (h : Option Nat) : (s.setBucketHead b h).downTransit = s.downTransit := rfl
@[simp] theorem State.setBucketHead_passed (b : Nat) (h : Option Nat) : (s.setBucketHead b h).passed = s.passed := rfl
@[simp] theorem State.setBucketHead_hand (b : Nat) (h : Option Nat) : (s.setBucketHead b h).hand = s.hand := rfl
@[simp] theorem State.setBucketHead_dayOp (b : Nat) (h : Option Nat) : (s.setBucketHead b h).dayOp = s.dayOp := rfl
@[simp] theorem State.setBucketHead_auditOp (b : Nat) (h : Option Nat) : (s.setBucketHead b h).auditOp = s.auditOp := rfl
@[simp] theorem State.setBucketHead_settings (b : Nat) (h : Option Nat) : (s.setBucketHead b h).settings = s.settings := rfl
@[simp] theorem State.setBucketHead_written (b : Nat) (h : Option Nat) : (s.setBucketHead b h).written = s.written := rfl
@[simp] theorem State.setBucketHead_counters (b : Nat) (h : Option Nat) : (s.setBucketHead b h).counters = s.counters := rfl
@[simp] theorem State.setBucketHead_fault (b : Nat) (h : Option Nat) : (s.setBucketHead b h).fault = s.fault := rfl
@[simp] theorem State.setBucketHead_line (b : Nat) (h : Option Nat) : (s.setBucketHead b h).line = s.line := rfl
@[simp] theorem State.setBucketHead_office (b : Nat) (h : Option Nat) : (s.setBucketHead b h).office = s.office := rfl

/-! ### State.setOrder -/

@[simp] theorem State.setOrder_pending (o : OrphanOrder) : (s.setOrder o).pending = s.pending := rfl
@[simp] theorem State.setOrder_mode (o : OrphanOrder) : (s.setOrder o).mode = s.mode := rfl
@[simp] theorem State.setOrder_clock (o : OrphanOrder) : (s.setOrder o).clock = s.clock := rfl
@[simp] theorem State.setOrder_watchdog (o : OrphanOrder) : (s.setOrder o).watchdog = s.watchdog := rfl
@[simp] theorem State.setOrder_tariff (o : OrphanOrder) : (s.setOrder o).tariff = s.tariff := rfl
@[simp] theorem State.setOrder_copy (o : OrphanOrder) : (s.setOrder o).copy = s.copy := rfl
@[simp] theorem State.setOrder_deny (o : OrphanOrder) : (s.setOrder o).deny = s.deny := rfl
@[simp] theorem State.setOrder_cap (o : OrphanOrder) : (s.setOrder o).cap = s.cap := rfl
@[simp] theorem State.setOrder_taps (o : OrphanOrder) : (s.setOrder o).taps = s.taps := rfl
@[simp] theorem State.setOrder_unit (o : OrphanOrder) : (s.setOrder o).unit = s.unit := rfl
@[simp] theorem State.setOrder_stall (o : OrphanOrder) : (s.setOrder o).stall = s.stall := rfl
@[simp] theorem State.setOrder_sweep (o : OrphanOrder) : (s.setOrder o).sweep = s.sweep := rfl
@[simp] theorem State.setOrder_verdicts (o : OrphanOrder) : (s.setOrder o).verdicts = s.verdicts := rfl
@[simp] theorem State.setOrder_records (o : OrphanOrder) : (s.setOrder o).records = s.records := rfl
@[simp] theorem State.setOrder_responses (o : OrphanOrder) : (s.setOrder o).responses = s.responses := rfl
@[simp] theorem State.setOrder_notices (o : OrphanOrder) : (s.setOrder o).notices = s.notices := rfl
@[simp] theorem State.setOrder_upTransit (o : OrphanOrder) : (s.setOrder o).upTransit = s.upTransit := rfl
@[simp] theorem State.setOrder_downTransit (o : OrphanOrder) : (s.setOrder o).downTransit = s.downTransit := rfl
@[simp] theorem State.setOrder_passed (o : OrphanOrder) : (s.setOrder o).passed = s.passed := rfl
@[simp] theorem State.setOrder_hand (o : OrphanOrder) : (s.setOrder o).hand = s.hand := rfl
@[simp] theorem State.setOrder_dayOp (o : OrphanOrder) : (s.setOrder o).dayOp = s.dayOp := rfl
@[simp] theorem State.setOrder_auditOp (o : OrphanOrder) : (s.setOrder o).auditOp = s.auditOp := rfl
@[simp] theorem State.setOrder_settings (o : OrphanOrder) : (s.setOrder o).settings = s.settings := rfl
@[simp] theorem State.setOrder_written (o : OrphanOrder) : (s.setOrder o).written = s.written := rfl
@[simp] theorem State.setOrder_counters (o : OrphanOrder) : (s.setOrder o).counters = s.counters := rfl
@[simp] theorem State.setOrder_fault (o : OrphanOrder) : (s.setOrder o).fault = s.fault := rfl
@[simp] theorem State.setOrder_line (o : OrphanOrder) : (s.setOrder o).line = s.line := rfl
@[simp] theorem State.setOrder_office (o : OrphanOrder) : (s.setOrder o).office = s.office := rfl

/-! ### State.mark -/

@[simp] theorem State.mark_pending (n : Nat) : (s.mark n).pending = s.pending := rfl
@[simp] theorem State.mark_mode (n : Nat) : (s.mark n).mode = s.mode := rfl
@[simp] theorem State.mark_clock (n : Nat) : (s.mark n).clock = s.clock := rfl
@[simp] theorem State.mark_watchdog (n : Nat) : (s.mark n).watchdog = s.watchdog := rfl
@[simp] theorem State.mark_tariff (n : Nat) : (s.mark n).tariff = s.tariff := rfl
@[simp] theorem State.mark_copy (n : Nat) : (s.mark n).copy = s.copy := rfl
@[simp] theorem State.mark_deny (n : Nat) : (s.mark n).deny = s.deny := rfl
@[simp] theorem State.mark_cap (n : Nat) : (s.mark n).cap = s.cap := rfl
@[simp] theorem State.mark_taps (n : Nat) : (s.mark n).taps = s.taps := rfl
@[simp] theorem State.mark_unit (n : Nat) : (s.mark n).unit = s.unit := rfl
@[simp] theorem State.mark_stall (n : Nat) : (s.mark n).stall = s.stall := rfl
@[simp] theorem State.mark_sweep (n : Nat) : (s.mark n).sweep = s.sweep := rfl
@[simp] theorem State.mark_verdicts (n : Nat) : (s.mark n).verdicts = s.verdicts := rfl
@[simp] theorem State.mark_records (n : Nat) : (s.mark n).records = s.records := rfl
@[simp] theorem State.mark_responses (n : Nat) : (s.mark n).responses = s.responses := rfl
@[simp] theorem State.mark_notices (n : Nat) : (s.mark n).notices = s.notices := rfl
@[simp] theorem State.mark_upTransit (n : Nat) : (s.mark n).upTransit = s.upTransit := rfl
@[simp] theorem State.mark_downTransit (n : Nat) : (s.mark n).downTransit = s.downTransit := rfl
@[simp] theorem State.mark_passed (n : Nat) : (s.mark n).passed = s.passed := rfl
@[simp] theorem State.mark_hand (n : Nat) : (s.mark n).hand = s.hand := rfl
@[simp] theorem State.mark_dayOp (n : Nat) : (s.mark n).dayOp = s.dayOp := rfl
@[simp] theorem State.mark_auditOp (n : Nat) : (s.mark n).auditOp = s.auditOp := rfl
@[simp] theorem State.mark_settings (n : Nat) : (s.mark n).settings = s.settings := rfl
@[simp] theorem State.mark_written (n : Nat) : (s.mark n).written = s.written := rfl
@[simp] theorem State.mark_counters (n : Nat) : (s.mark n).counters = s.counters := rfl
@[simp] theorem State.mark_fault (n : Nat) : (s.mark n).fault = s.fault := rfl
@[simp] theorem State.mark_line (n : Nat) : (s.mark n).line = s.line := rfl
@[simp] theorem State.mark_office (n : Nat) : (s.mark n).office = s.office := rfl

/-! ### State.setAuditCounts -/

@[simp] theorem State.setAuditCounts_pending (c : AuditCounts) : (s.setAuditCounts c).pending = s.pending := rfl
@[simp] theorem State.setAuditCounts_mode (c : AuditCounts) : (s.setAuditCounts c).mode = s.mode := rfl
@[simp] theorem State.setAuditCounts_clock (c : AuditCounts) : (s.setAuditCounts c).clock = s.clock := rfl
@[simp] theorem State.setAuditCounts_watchdog (c : AuditCounts) : (s.setAuditCounts c).watchdog = s.watchdog := rfl
@[simp] theorem State.setAuditCounts_tariff (c : AuditCounts) : (s.setAuditCounts c).tariff = s.tariff := rfl
@[simp] theorem State.setAuditCounts_copy (c : AuditCounts) : (s.setAuditCounts c).copy = s.copy := rfl
@[simp] theorem State.setAuditCounts_deny (c : AuditCounts) : (s.setAuditCounts c).deny = s.deny := rfl
@[simp] theorem State.setAuditCounts_table (c : AuditCounts) : (s.setAuditCounts c).table = s.table := rfl
@[simp] theorem State.setAuditCounts_cap (c : AuditCounts) : (s.setAuditCounts c).cap = s.cap := rfl
@[simp] theorem State.setAuditCounts_taps (c : AuditCounts) : (s.setAuditCounts c).taps = s.taps := rfl
@[simp] theorem State.setAuditCounts_unit (c : AuditCounts) : (s.setAuditCounts c).unit = s.unit := rfl
@[simp] theorem State.setAuditCounts_stall (c : AuditCounts) : (s.setAuditCounts c).stall = s.stall := rfl
@[simp] theorem State.setAuditCounts_verdicts (c : AuditCounts) : (s.setAuditCounts c).verdicts = s.verdicts := rfl
@[simp] theorem State.setAuditCounts_records (c : AuditCounts) : (s.setAuditCounts c).records = s.records := rfl
@[simp] theorem State.setAuditCounts_responses (c : AuditCounts) : (s.setAuditCounts c).responses = s.responses := rfl
@[simp] theorem State.setAuditCounts_notices (c : AuditCounts) : (s.setAuditCounts c).notices = s.notices := rfl
@[simp] theorem State.setAuditCounts_upTransit (c : AuditCounts) : (s.setAuditCounts c).upTransit = s.upTransit := rfl
@[simp] theorem State.setAuditCounts_downTransit (c : AuditCounts) : (s.setAuditCounts c).downTransit = s.downTransit := rfl
@[simp] theorem State.setAuditCounts_passed (c : AuditCounts) : (s.setAuditCounts c).passed = s.passed := rfl
@[simp] theorem State.setAuditCounts_hand (c : AuditCounts) : (s.setAuditCounts c).hand = s.hand := rfl
@[simp] theorem State.setAuditCounts_dayOp (c : AuditCounts) : (s.setAuditCounts c).dayOp = s.dayOp := rfl
@[simp] theorem State.setAuditCounts_auditOp (c : AuditCounts) : (s.setAuditCounts c).auditOp = s.auditOp := rfl
@[simp] theorem State.setAuditCounts_settings (c : AuditCounts) : (s.setAuditCounts c).settings = s.settings := rfl
@[simp] theorem State.setAuditCounts_written (c : AuditCounts) : (s.setAuditCounts c).written = s.written := rfl
@[simp] theorem State.setAuditCounts_counters (c : AuditCounts) : (s.setAuditCounts c).counters = s.counters := rfl
@[simp] theorem State.setAuditCounts_fault (c : AuditCounts) : (s.setAuditCounts c).fault = s.fault := rfl
@[simp] theorem State.setAuditCounts_line (c : AuditCounts) : (s.setAuditCounts c).line = s.line := rfl
@[simp] theorem State.setAuditCounts_office (c : AuditCounts) : (s.setAuditCounts c).office = s.office := rfl

/-! ### State.setAuditStep -/

@[simp] theorem State.setAuditStep_pending (a : AuditStep) : (s.setAuditStep a).pending = s.pending := rfl
@[simp] theorem State.setAuditStep_mode (a : AuditStep) : (s.setAuditStep a).mode = s.mode := rfl
@[simp] theorem State.setAuditStep_clock (a : AuditStep) : (s.setAuditStep a).clock = s.clock := rfl
@[simp] theorem State.setAuditStep_watchdog (a : AuditStep) : (s.setAuditStep a).watchdog = s.watchdog := rfl
@[simp] theorem State.setAuditStep_tariff (a : AuditStep) : (s.setAuditStep a).tariff = s.tariff := rfl
@[simp] theorem State.setAuditStep_copy (a : AuditStep) : (s.setAuditStep a).copy = s.copy := rfl
@[simp] theorem State.setAuditStep_deny (a : AuditStep) : (s.setAuditStep a).deny = s.deny := rfl
@[simp] theorem State.setAuditStep_table (a : AuditStep) : (s.setAuditStep a).table = s.table := rfl
@[simp] theorem State.setAuditStep_cap (a : AuditStep) : (s.setAuditStep a).cap = s.cap := rfl
@[simp] theorem State.setAuditStep_taps (a : AuditStep) : (s.setAuditStep a).taps = s.taps := rfl
@[simp] theorem State.setAuditStep_unit (a : AuditStep) : (s.setAuditStep a).unit = s.unit := rfl
@[simp] theorem State.setAuditStep_stall (a : AuditStep) : (s.setAuditStep a).stall = s.stall := rfl
@[simp] theorem State.setAuditStep_verdicts (a : AuditStep) : (s.setAuditStep a).verdicts = s.verdicts := rfl
@[simp] theorem State.setAuditStep_records (a : AuditStep) : (s.setAuditStep a).records = s.records := rfl
@[simp] theorem State.setAuditStep_responses (a : AuditStep) : (s.setAuditStep a).responses = s.responses := rfl
@[simp] theorem State.setAuditStep_notices (a : AuditStep) : (s.setAuditStep a).notices = s.notices := rfl
@[simp] theorem State.setAuditStep_upTransit (a : AuditStep) : (s.setAuditStep a).upTransit = s.upTransit := rfl
@[simp] theorem State.setAuditStep_downTransit (a : AuditStep) : (s.setAuditStep a).downTransit = s.downTransit := rfl
@[simp] theorem State.setAuditStep_passed (a : AuditStep) : (s.setAuditStep a).passed = s.passed := rfl
@[simp] theorem State.setAuditStep_hand (a : AuditStep) : (s.setAuditStep a).hand = s.hand := rfl
@[simp] theorem State.setAuditStep_dayOp (a : AuditStep) : (s.setAuditStep a).dayOp = s.dayOp := rfl
@[simp] theorem State.setAuditStep_auditOp (a : AuditStep) : (s.setAuditStep a).auditOp = s.auditOp := rfl
@[simp] theorem State.setAuditStep_settings (a : AuditStep) : (s.setAuditStep a).settings = s.settings := rfl
@[simp] theorem State.setAuditStep_written (a : AuditStep) : (s.setAuditStep a).written = s.written := rfl
@[simp] theorem State.setAuditStep_counters (a : AuditStep) : (s.setAuditStep a).counters = s.counters := rfl
@[simp] theorem State.setAuditStep_fault (a : AuditStep) : (s.setAuditStep a).fault = s.fault := rfl
@[simp] theorem State.setAuditStep_line (a : AuditStep) : (s.setAuditStep a).line = s.line := rfl
@[simp] theorem State.setAuditStep_office (a : AuditStep) : (s.setAuditStep a).office = s.office := rfl

/-! ### State.startAge -/

@[simp] theorem State.startAge_pending : (s.startAge).pending = s.pending := rfl
@[simp] theorem State.startAge_mode : (s.startAge).mode = s.mode := rfl
@[simp] theorem State.startAge_clock : (s.startAge).clock = s.clock := rfl
@[simp] theorem State.startAge_watchdog : (s.startAge).watchdog = s.watchdog := rfl
@[simp] theorem State.startAge_tariff : (s.startAge).tariff = s.tariff := rfl
@[simp] theorem State.startAge_copy : (s.startAge).copy = s.copy := rfl
@[simp] theorem State.startAge_deny : (s.startAge).deny = s.deny := rfl
@[simp] theorem State.startAge_table : (s.startAge).table = s.table := rfl
@[simp] theorem State.startAge_cap : (s.startAge).cap = s.cap := rfl
@[simp] theorem State.startAge_taps : (s.startAge).taps = s.taps := rfl
@[simp] theorem State.startAge_unit : (s.startAge).unit = s.unit := rfl
@[simp] theorem State.startAge_stall : (s.startAge).stall = s.stall := rfl
@[simp] theorem State.startAge_verdicts : (s.startAge).verdicts = s.verdicts := rfl
@[simp] theorem State.startAge_records : (s.startAge).records = s.records := rfl
@[simp] theorem State.startAge_responses : (s.startAge).responses = s.responses := rfl
@[simp] theorem State.startAge_notices : (s.startAge).notices = s.notices := rfl
@[simp] theorem State.startAge_upTransit : (s.startAge).upTransit = s.upTransit := rfl
@[simp] theorem State.startAge_downTransit : (s.startAge).downTransit = s.downTransit := rfl
@[simp] theorem State.startAge_passed : (s.startAge).passed = s.passed := rfl
@[simp] theorem State.startAge_hand : (s.startAge).hand = s.hand := rfl
@[simp] theorem State.startAge_dayOp : (s.startAge).dayOp = s.dayOp := rfl
@[simp] theorem State.startAge_auditOp : (s.startAge).auditOp = s.auditOp := rfl
@[simp] theorem State.startAge_settings : (s.startAge).settings = s.settings := rfl
@[simp] theorem State.startAge_written : (s.startAge).written = s.written := rfl
@[simp] theorem State.startAge_counters : (s.startAge).counters = s.counters := rfl
@[simp] theorem State.startAge_fault : (s.startAge).fault = s.fault := rfl
@[simp] theorem State.startAge_line : (s.startAge).line = s.line := rfl
@[simp] theorem State.startAge_office : (s.startAge).office = s.office := rfl

/-! ### State.startForced -/

@[simp] theorem State.startForced_pending : (s.startForced).pending = s.pending := rfl
@[simp] theorem State.startForced_mode : (s.startForced).mode = s.mode := rfl
@[simp] theorem State.startForced_clock : (s.startForced).clock = s.clock := rfl
@[simp] theorem State.startForced_watchdog : (s.startForced).watchdog = s.watchdog := rfl
@[simp] theorem State.startForced_tariff : (s.startForced).tariff = s.tariff := rfl
@[simp] theorem State.startForced_copy : (s.startForced).copy = s.copy := rfl
@[simp] theorem State.startForced_deny : (s.startForced).deny = s.deny := rfl
@[simp] theorem State.startForced_table : (s.startForced).table = s.table := rfl
@[simp] theorem State.startForced_cap : (s.startForced).cap = s.cap := rfl
@[simp] theorem State.startForced_taps : (s.startForced).taps = s.taps := rfl
@[simp] theorem State.startForced_unit : (s.startForced).unit = s.unit := rfl
@[simp] theorem State.startForced_stall : (s.startForced).stall = s.stall := rfl
@[simp] theorem State.startForced_verdicts : (s.startForced).verdicts = s.verdicts := rfl
@[simp] theorem State.startForced_records : (s.startForced).records = s.records := rfl
@[simp] theorem State.startForced_responses : (s.startForced).responses = s.responses := rfl
@[simp] theorem State.startForced_notices : (s.startForced).notices = s.notices := rfl
@[simp] theorem State.startForced_upTransit : (s.startForced).upTransit = s.upTransit := rfl
@[simp] theorem State.startForced_downTransit : (s.startForced).downTransit = s.downTransit := rfl
@[simp] theorem State.startForced_passed : (s.startForced).passed = s.passed := rfl
@[simp] theorem State.startForced_hand : (s.startForced).hand = s.hand := rfl
@[simp] theorem State.startForced_dayOp : (s.startForced).dayOp = s.dayOp := rfl
@[simp] theorem State.startForced_auditOp : (s.startForced).auditOp = s.auditOp := rfl
@[simp] theorem State.startForced_settings : (s.startForced).settings = s.settings := rfl
@[simp] theorem State.startForced_written : (s.startForced).written = s.written := rfl
@[simp] theorem State.startForced_counters : (s.startForced).counters = s.counters := rfl
@[simp] theorem State.startForced_fault : (s.startForced).fault = s.fault := rfl
@[simp] theorem State.startForced_line : (s.startForced).line = s.line := rfl
@[simp] theorem State.startForced_office : (s.startForced).office = s.office := rfl

/-! ### State.noWalk -/

@[simp] theorem State.noWalk_pending : (s.noWalk).pending = s.pending := rfl
@[simp] theorem State.noWalk_mode : (s.noWalk).mode = s.mode := rfl
@[simp] theorem State.noWalk_clock : (s.noWalk).clock = s.clock := rfl
@[simp] theorem State.noWalk_watchdog : (s.noWalk).watchdog = s.watchdog := rfl
@[simp] theorem State.noWalk_tariff : (s.noWalk).tariff = s.tariff := rfl
@[simp] theorem State.noWalk_copy : (s.noWalk).copy = s.copy := rfl
@[simp] theorem State.noWalk_deny : (s.noWalk).deny = s.deny := rfl
@[simp] theorem State.noWalk_table : (s.noWalk).table = s.table := rfl
@[simp] theorem State.noWalk_cap : (s.noWalk).cap = s.cap := rfl
@[simp] theorem State.noWalk_taps : (s.noWalk).taps = s.taps := rfl
@[simp] theorem State.noWalk_unit : (s.noWalk).unit = s.unit := rfl
@[simp] theorem State.noWalk_stall : (s.noWalk).stall = s.stall := rfl
@[simp] theorem State.noWalk_verdicts : (s.noWalk).verdicts = s.verdicts := rfl
@[simp] theorem State.noWalk_records : (s.noWalk).records = s.records := rfl
@[simp] theorem State.noWalk_responses : (s.noWalk).responses = s.responses := rfl
@[simp] theorem State.noWalk_notices : (s.noWalk).notices = s.notices := rfl
@[simp] theorem State.noWalk_upTransit : (s.noWalk).upTransit = s.upTransit := rfl
@[simp] theorem State.noWalk_downTransit : (s.noWalk).downTransit = s.downTransit := rfl
@[simp] theorem State.noWalk_passed : (s.noWalk).passed = s.passed := rfl
@[simp] theorem State.noWalk_hand : (s.noWalk).hand = s.hand := rfl
@[simp] theorem State.noWalk_dayOp : (s.noWalk).dayOp = s.dayOp := rfl
@[simp] theorem State.noWalk_auditOp : (s.noWalk).auditOp = s.auditOp := rfl
@[simp] theorem State.noWalk_settings : (s.noWalk).settings = s.settings := rfl
@[simp] theorem State.noWalk_written : (s.noWalk).written = s.written := rfl
@[simp] theorem State.noWalk_counters : (s.noWalk).counters = s.counters := rfl
@[simp] theorem State.noWalk_fault : (s.noWalk).fault = s.fault := rfl
@[simp] theorem State.noWalk_line : (s.noWalk).line = s.line := rfl
@[simp] theorem State.noWalk_office : (s.noWalk).office = s.office := rfl

/-! ### State.dropRecord -/

@[simp] theorem State.dropRecord_pending : (s.dropRecord).pending = s.pending := rfl
@[simp] theorem State.dropRecord_mode : (s.dropRecord).mode = s.mode := rfl
@[simp] theorem State.dropRecord_clock : (s.dropRecord).clock = s.clock := rfl
@[simp] theorem State.dropRecord_watchdog : (s.dropRecord).watchdog = s.watchdog := rfl
@[simp] theorem State.dropRecord_tariff : (s.dropRecord).tariff = s.tariff := rfl
@[simp] theorem State.dropRecord_copy : (s.dropRecord).copy = s.copy := rfl
@[simp] theorem State.dropRecord_deny : (s.dropRecord).deny = s.deny := rfl
@[simp] theorem State.dropRecord_table : (s.dropRecord).table = s.table := rfl
@[simp] theorem State.dropRecord_cap : (s.dropRecord).cap = s.cap := rfl
@[simp] theorem State.dropRecord_taps : (s.dropRecord).taps = s.taps := rfl
@[simp] theorem State.dropRecord_unit : (s.dropRecord).unit = s.unit := rfl
@[simp] theorem State.dropRecord_sweep : (s.dropRecord).sweep = s.sweep := rfl
@[simp] theorem State.dropRecord_verdicts : (s.dropRecord).verdicts = s.verdicts := rfl
@[simp] theorem State.dropRecord_responses : (s.dropRecord).responses = s.responses := rfl
@[simp] theorem State.dropRecord_notices : (s.dropRecord).notices = s.notices := rfl
@[simp] theorem State.dropRecord_upTransit : (s.dropRecord).upTransit = s.upTransit := rfl
@[simp] theorem State.dropRecord_downTransit : (s.dropRecord).downTransit = s.downTransit := rfl
@[simp] theorem State.dropRecord_passed : (s.dropRecord).passed = s.passed := rfl
@[simp] theorem State.dropRecord_hand : (s.dropRecord).hand = s.hand := rfl
@[simp] theorem State.dropRecord_dayOp : (s.dropRecord).dayOp = s.dayOp := rfl
@[simp] theorem State.dropRecord_auditOp : (s.dropRecord).auditOp = s.auditOp := rfl
@[simp] theorem State.dropRecord_settings : (s.dropRecord).settings = s.settings := rfl
@[simp] theorem State.dropRecord_written : (s.dropRecord).written = s.written := rfl
@[simp] theorem State.dropRecord_counters : (s.dropRecord).counters = s.counters := rfl
@[simp] theorem State.dropRecord_fault : (s.dropRecord).fault = s.fault := rfl
@[simp] theorem State.dropRecord_line : (s.dropRecord).line = s.line := rfl
@[simp] theorem State.dropRecord_office : (s.dropRecord).office = s.office := rfl

/-! ### State.lineErrorAt -/

@[simp] theorem State.lineErrorAt_pending (p : Port) : (s.lineErrorAt p).pending = s.pending := rfl
@[simp] theorem State.lineErrorAt_mode (p : Port) : (s.lineErrorAt p).mode = s.mode := rfl
@[simp] theorem State.lineErrorAt_clock (p : Port) : (s.lineErrorAt p).clock = s.clock := rfl
@[simp] theorem State.lineErrorAt_watchdog (p : Port) : (s.lineErrorAt p).watchdog = s.watchdog := rfl
@[simp] theorem State.lineErrorAt_tariff (p : Port) : (s.lineErrorAt p).tariff = s.tariff := rfl
@[simp] theorem State.lineErrorAt_copy (p : Port) : (s.lineErrorAt p).copy = s.copy := rfl
@[simp] theorem State.lineErrorAt_deny (p : Port) : (s.lineErrorAt p).deny = s.deny := rfl
@[simp] theorem State.lineErrorAt_table (p : Port) : (s.lineErrorAt p).table = s.table := rfl
@[simp] theorem State.lineErrorAt_cap (p : Port) : (s.lineErrorAt p).cap = s.cap := rfl
@[simp] theorem State.lineErrorAt_taps (p : Port) : (s.lineErrorAt p).taps = s.taps := rfl
@[simp] theorem State.lineErrorAt_unit (p : Port) : (s.lineErrorAt p).unit = s.unit := rfl
@[simp] theorem State.lineErrorAt_stall (p : Port) : (s.lineErrorAt p).stall = s.stall := rfl
@[simp] theorem State.lineErrorAt_sweep (p : Port) : (s.lineErrorAt p).sweep = s.sweep := rfl
@[simp] theorem State.lineErrorAt_verdicts (p : Port) : (s.lineErrorAt p).verdicts = s.verdicts := rfl
@[simp] theorem State.lineErrorAt_records (p : Port) : (s.lineErrorAt p).records = s.records := rfl
@[simp] theorem State.lineErrorAt_responses (p : Port) : (s.lineErrorAt p).responses = s.responses := rfl
@[simp] theorem State.lineErrorAt_notices (p : Port) : (s.lineErrorAt p).notices = s.notices := rfl
@[simp] theorem State.lineErrorAt_upTransit (p : Port) : (s.lineErrorAt p).upTransit = s.upTransit := rfl
@[simp] theorem State.lineErrorAt_downTransit (p : Port) : (s.lineErrorAt p).downTransit = s.downTransit := rfl
@[simp] theorem State.lineErrorAt_passed (p : Port) : (s.lineErrorAt p).passed = s.passed := rfl
@[simp] theorem State.lineErrorAt_hand (p : Port) : (s.lineErrorAt p).hand = s.hand := rfl
@[simp] theorem State.lineErrorAt_dayOp (p : Port) : (s.lineErrorAt p).dayOp = s.dayOp := rfl
@[simp] theorem State.lineErrorAt_auditOp (p : Port) : (s.lineErrorAt p).auditOp = s.auditOp := rfl
@[simp] theorem State.lineErrorAt_settings (p : Port) : (s.lineErrorAt p).settings = s.settings := rfl
@[simp] theorem State.lineErrorAt_written (p : Port) : (s.lineErrorAt p).written = s.written := rfl
@[simp] theorem State.lineErrorAt_fault (p : Port) : (s.lineErrorAt p).fault = s.fault := rfl
@[simp] theorem State.lineErrorAt_line (p : Port) : (s.lineErrorAt p).line = s.line := rfl
@[simp] theorem State.lineErrorAt_office (p : Port) : (s.lineErrorAt p).office = s.office := rfl

/-! ### State.acceptBeacon -/

@[simp] theorem State.acceptBeacon_pending : (s.acceptBeacon).pending = s.pending := rfl
@[simp] theorem State.acceptBeacon_mode : (s.acceptBeacon).mode = s.mode := rfl
@[simp] theorem State.acceptBeacon_tariff : (s.acceptBeacon).tariff = s.tariff := rfl
@[simp] theorem State.acceptBeacon_copy : (s.acceptBeacon).copy = s.copy := rfl
@[simp] theorem State.acceptBeacon_deny : (s.acceptBeacon).deny = s.deny := rfl
@[simp] theorem State.acceptBeacon_table : (s.acceptBeacon).table = s.table := rfl
@[simp] theorem State.acceptBeacon_cap : (s.acceptBeacon).cap = s.cap := rfl
@[simp] theorem State.acceptBeacon_taps : (s.acceptBeacon).taps = s.taps := rfl
@[simp] theorem State.acceptBeacon_unit : (s.acceptBeacon).unit = s.unit := rfl
@[simp] theorem State.acceptBeacon_stall : (s.acceptBeacon).stall = s.stall := rfl
@[simp] theorem State.acceptBeacon_sweep : (s.acceptBeacon).sweep = s.sweep := rfl
@[simp] theorem State.acceptBeacon_verdicts : (s.acceptBeacon).verdicts = s.verdicts := rfl
@[simp] theorem State.acceptBeacon_records : (s.acceptBeacon).records = s.records := rfl
@[simp] theorem State.acceptBeacon_responses : (s.acceptBeacon).responses = s.responses := rfl
@[simp] theorem State.acceptBeacon_notices : (s.acceptBeacon).notices = s.notices := rfl
@[simp] theorem State.acceptBeacon_upTransit : (s.acceptBeacon).upTransit = s.upTransit := rfl
@[simp] theorem State.acceptBeacon_downTransit : (s.acceptBeacon).downTransit = s.downTransit := rfl
@[simp] theorem State.acceptBeacon_passed : (s.acceptBeacon).passed = s.passed := rfl
@[simp] theorem State.acceptBeacon_hand : (s.acceptBeacon).hand = s.hand := rfl
@[simp] theorem State.acceptBeacon_dayOp : (s.acceptBeacon).dayOp = s.dayOp := rfl
@[simp] theorem State.acceptBeacon_auditOp : (s.acceptBeacon).auditOp = s.auditOp := rfl
@[simp] theorem State.acceptBeacon_settings : (s.acceptBeacon).settings = s.settings := rfl
@[simp] theorem State.acceptBeacon_written : (s.acceptBeacon).written = s.written := rfl
@[simp] theorem State.acceptBeacon_counters : (s.acceptBeacon).counters = s.counters := rfl
@[simp] theorem State.acceptBeacon_fault : (s.acceptBeacon).fault = s.fault := rfl
@[simp] theorem State.acceptBeacon_line : (s.acceptBeacon).line = s.line := rfl
@[simp] theorem State.acceptBeacon_office : (s.acceptBeacon).office = s.office := rfl

/-! ### State.setPort -/

@[simp] theorem State.setPort_pending (p : Port) (ps : PortState) : (s.setPort p ps).pending = s.pending := by cases p <;> rfl
@[simp] theorem State.setPort_mode (p : Port) (ps : PortState) : (s.setPort p ps).mode = s.mode := by cases p <;> rfl
@[simp] theorem State.setPort_clock (p : Port) (ps : PortState) : (s.setPort p ps).clock = s.clock := by cases p <;> rfl
@[simp] theorem State.setPort_watchdog (p : Port) (ps : PortState) : (s.setPort p ps).watchdog = s.watchdog := by cases p <;> rfl
@[simp] theorem State.setPort_tariff (p : Port) (ps : PortState) : (s.setPort p ps).tariff = s.tariff := by cases p <;> rfl
@[simp] theorem State.setPort_copy (p : Port) (ps : PortState) : (s.setPort p ps).copy = s.copy := by cases p <;> rfl
@[simp] theorem State.setPort_deny (p : Port) (ps : PortState) : (s.setPort p ps).deny = s.deny := by cases p <;> rfl
@[simp] theorem State.setPort_table (p : Port) (ps : PortState) : (s.setPort p ps).table = s.table := by cases p <;> rfl
@[simp] theorem State.setPort_cap (p : Port) (ps : PortState) : (s.setPort p ps).cap = s.cap := by cases p <;> rfl
@[simp] theorem State.setPort_taps (p : Port) (ps : PortState) : (s.setPort p ps).taps = s.taps := by cases p <;> rfl
@[simp] theorem State.setPort_unit (p : Port) (ps : PortState) : (s.setPort p ps).unit = s.unit := by cases p <;> rfl
@[simp] theorem State.setPort_stall (p : Port) (ps : PortState) : (s.setPort p ps).stall = s.stall := by cases p <;> rfl
@[simp] theorem State.setPort_sweep (p : Port) (ps : PortState) : (s.setPort p ps).sweep = s.sweep := by cases p <;> rfl
@[simp] theorem State.setPort_verdicts (p : Port) (ps : PortState) : (s.setPort p ps).verdicts = s.verdicts := by cases p <;> rfl
@[simp] theorem State.setPort_records (p : Port) (ps : PortState) : (s.setPort p ps).records = s.records := by cases p <;> rfl
@[simp] theorem State.setPort_responses (p : Port) (ps : PortState) : (s.setPort p ps).responses = s.responses := by cases p <;> rfl
@[simp] theorem State.setPort_notices (p : Port) (ps : PortState) : (s.setPort p ps).notices = s.notices := by cases p <;> rfl
@[simp] theorem State.setPort_upTransit (p : Port) (ps : PortState) : (s.setPort p ps).upTransit = s.upTransit := by cases p <;> rfl
@[simp] theorem State.setPort_downTransit (p : Port) (ps : PortState) : (s.setPort p ps).downTransit = s.downTransit := by cases p <;> rfl
@[simp] theorem State.setPort_passed (p : Port) (ps : PortState) : (s.setPort p ps).passed = s.passed := by cases p <;> rfl
@[simp] theorem State.setPort_hand (p : Port) (ps : PortState) : (s.setPort p ps).hand = s.hand := by cases p <;> rfl
@[simp] theorem State.setPort_dayOp (p : Port) (ps : PortState) : (s.setPort p ps).dayOp = s.dayOp := by cases p <;> rfl
@[simp] theorem State.setPort_auditOp (p : Port) (ps : PortState) : (s.setPort p ps).auditOp = s.auditOp := by cases p <;> rfl
@[simp] theorem State.setPort_settings (p : Port) (ps : PortState) : (s.setPort p ps).settings = s.settings := by cases p <;> rfl
@[simp] theorem State.setPort_written (p : Port) (ps : PortState) : (s.setPort p ps).written = s.written := by cases p <;> rfl
@[simp] theorem State.setPort_counters (p : Port) (ps : PortState) : (s.setPort p ps).counters = s.counters := by cases p <;> rfl
@[simp] theorem State.setPort_fault (p : Port) (ps : PortState) : (s.setPort p ps).fault = s.fault := by cases p <;> rfl

/-! ### State.pushTransit -/

@[simp] theorem State.pushTransit_pending (p : Port) (f : Frame) : (s.pushTransit p f).pending = s.pending := by cases p <;> rfl
@[simp] theorem State.pushTransit_mode (p : Port) (f : Frame) : (s.pushTransit p f).mode = s.mode := by cases p <;> rfl
@[simp] theorem State.pushTransit_clock (p : Port) (f : Frame) : (s.pushTransit p f).clock = s.clock := by cases p <;> rfl
@[simp] theorem State.pushTransit_watchdog (p : Port) (f : Frame) : (s.pushTransit p f).watchdog = s.watchdog := by cases p <;> rfl
@[simp] theorem State.pushTransit_tariff (p : Port) (f : Frame) : (s.pushTransit p f).tariff = s.tariff := by cases p <;> rfl
@[simp] theorem State.pushTransit_copy (p : Port) (f : Frame) : (s.pushTransit p f).copy = s.copy := by cases p <;> rfl
@[simp] theorem State.pushTransit_deny (p : Port) (f : Frame) : (s.pushTransit p f).deny = s.deny := by cases p <;> rfl
@[simp] theorem State.pushTransit_table (p : Port) (f : Frame) : (s.pushTransit p f).table = s.table := by cases p <;> rfl
@[simp] theorem State.pushTransit_cap (p : Port) (f : Frame) : (s.pushTransit p f).cap = s.cap := by cases p <;> rfl
@[simp] theorem State.pushTransit_taps (p : Port) (f : Frame) : (s.pushTransit p f).taps = s.taps := by cases p <;> rfl
@[simp] theorem State.pushTransit_unit (p : Port) (f : Frame) : (s.pushTransit p f).unit = s.unit := by cases p <;> rfl
@[simp] theorem State.pushTransit_stall (p : Port) (f : Frame) : (s.pushTransit p f).stall = s.stall := by cases p <;> rfl
@[simp] theorem State.pushTransit_sweep (p : Port) (f : Frame) : (s.pushTransit p f).sweep = s.sweep := by cases p <;> rfl
@[simp] theorem State.pushTransit_verdicts (p : Port) (f : Frame) : (s.pushTransit p f).verdicts = s.verdicts := by cases p <;> rfl
@[simp] theorem State.pushTransit_records (p : Port) (f : Frame) : (s.pushTransit p f).records = s.records := by cases p <;> rfl
@[simp] theorem State.pushTransit_responses (p : Port) (f : Frame) : (s.pushTransit p f).responses = s.responses := by cases p <;> rfl
@[simp] theorem State.pushTransit_notices (p : Port) (f : Frame) : (s.pushTransit p f).notices = s.notices := by cases p <;> rfl
@[simp] theorem State.pushTransit_passed (p : Port) (f : Frame) : (s.pushTransit p f).passed = s.passed := by cases p <;> rfl
@[simp] theorem State.pushTransit_hand (p : Port) (f : Frame) : (s.pushTransit p f).hand = s.hand := by cases p <;> rfl
@[simp] theorem State.pushTransit_dayOp (p : Port) (f : Frame) : (s.pushTransit p f).dayOp = s.dayOp := by cases p <;> rfl
@[simp] theorem State.pushTransit_auditOp (p : Port) (f : Frame) : (s.pushTransit p f).auditOp = s.auditOp := by cases p <;> rfl
@[simp] theorem State.pushTransit_settings (p : Port) (f : Frame) : (s.pushTransit p f).settings = s.settings := by cases p <;> rfl
@[simp] theorem State.pushTransit_written (p : Port) (f : Frame) : (s.pushTransit p f).written = s.written := by cases p <;> rfl
@[simp] theorem State.pushTransit_counters (p : Port) (f : Frame) : (s.pushTransit p f).counters = s.counters := by cases p <;> rfl
@[simp] theorem State.pushTransit_fault (p : Port) (f : Frame) : (s.pushTransit p f).fault = s.fault := by cases p <;> rfl
@[simp] theorem State.pushTransit_line (p : Port) (f : Frame) : (s.pushTransit p f).line = s.line := by cases p <;> rfl
@[simp] theorem State.pushTransit_office (p : Port) (f : Frame) : (s.pushTransit p f).office = s.office := by cases p <;> rfl

/-! ### State.respond -/

@[simp] theorem State.respond_pending (r : Response) : (s.respond r).pending = s.pending := by unfold State.respond; split <;> rfl
@[simp] theorem State.respond_mode (r : Response) : (s.respond r).mode = s.mode := by unfold State.respond; split <;> rfl
@[simp] theorem State.respond_clock (r : Response) : (s.respond r).clock = s.clock := by unfold State.respond; split <;> rfl
@[simp] theorem State.respond_watchdog (r : Response) : (s.respond r).watchdog = s.watchdog := by unfold State.respond; split <;> rfl
@[simp] theorem State.respond_tariff (r : Response) : (s.respond r).tariff = s.tariff := by unfold State.respond; split <;> rfl
@[simp] theorem State.respond_copy (r : Response) : (s.respond r).copy = s.copy := by unfold State.respond; split <;> rfl
@[simp] theorem State.respond_deny (r : Response) : (s.respond r).deny = s.deny := by unfold State.respond; split <;> rfl
@[simp] theorem State.respond_table (r : Response) : (s.respond r).table = s.table := by unfold State.respond; split <;> rfl
@[simp] theorem State.respond_cap (r : Response) : (s.respond r).cap = s.cap := by unfold State.respond; split <;> rfl
@[simp] theorem State.respond_taps (r : Response) : (s.respond r).taps = s.taps := by unfold State.respond; split <;> rfl
@[simp] theorem State.respond_unit (r : Response) : (s.respond r).unit = s.unit := by unfold State.respond; split <;> rfl
@[simp] theorem State.respond_stall (r : Response) : (s.respond r).stall = s.stall := by unfold State.respond; split <;> rfl
@[simp] theorem State.respond_sweep (r : Response) : (s.respond r).sweep = s.sweep := by unfold State.respond; split <;> rfl
@[simp] theorem State.respond_verdicts (r : Response) : (s.respond r).verdicts = s.verdicts := by unfold State.respond; split <;> rfl
@[simp] theorem State.respond_records (r : Response) : (s.respond r).records = s.records := by unfold State.respond; split <;> rfl
@[simp] theorem State.respond_notices (r : Response) : (s.respond r).notices = s.notices := by unfold State.respond; split <;> rfl
@[simp] theorem State.respond_upTransit (r : Response) : (s.respond r).upTransit = s.upTransit := by unfold State.respond; split <;> rfl
@[simp] theorem State.respond_downTransit (r : Response) : (s.respond r).downTransit = s.downTransit := by unfold State.respond; split <;> rfl
@[simp] theorem State.respond_passed (r : Response) : (s.respond r).passed = s.passed := by unfold State.respond; split <;> rfl
@[simp] theorem State.respond_dayOp (r : Response) : (s.respond r).dayOp = s.dayOp := by unfold State.respond; split <;> rfl
@[simp] theorem State.respond_auditOp (r : Response) : (s.respond r).auditOp = s.auditOp := by unfold State.respond; split <;> rfl
@[simp] theorem State.respond_settings (r : Response) : (s.respond r).settings = s.settings := by unfold State.respond; split <;> rfl
@[simp] theorem State.respond_written (r : Response) : (s.respond r).written = s.written := by unfold State.respond; split <;> rfl
@[simp] theorem State.respond_counters (r : Response) : (s.respond r).counters = s.counters := by unfold State.respond; split <;> rfl
@[simp] theorem State.respond_fault (r : Response) : (s.respond r).fault = s.fault := by unfold State.respond; split <;> rfl
@[simp] theorem State.respond_line (r : Response) : (s.respond r).line = s.line := by unfold State.respond; split <;> rfl
@[simp] theorem State.respond_office (r : Response) : (s.respond r).office = s.office := by unfold State.respond; split <;> rfl

/-! ### State.offerVerdict -/

@[simp] theorem State.offerVerdict_pending (n : Nat) (v : Verdict) : (s.offerVerdict n v).pending = s.pending := by unfold State.offerVerdict; split <;> rfl
@[simp] theorem State.offerVerdict_mode (n : Nat) (v : Verdict) : (s.offerVerdict n v).mode = s.mode := by unfold State.offerVerdict; split <;> rfl
@[simp] theorem State.offerVerdict_clock (n : Nat) (v : Verdict) : (s.offerVerdict n v).clock = s.clock := by unfold State.offerVerdict; split <;> rfl
@[simp] theorem State.offerVerdict_watchdog (n : Nat) (v : Verdict) : (s.offerVerdict n v).watchdog = s.watchdog := by unfold State.offerVerdict; split <;> rfl
@[simp] theorem State.offerVerdict_tariff (n : Nat) (v : Verdict) : (s.offerVerdict n v).tariff = s.tariff := by unfold State.offerVerdict; split <;> rfl
@[simp] theorem State.offerVerdict_copy (n : Nat) (v : Verdict) : (s.offerVerdict n v).copy = s.copy := by unfold State.offerVerdict; split <;> rfl
@[simp] theorem State.offerVerdict_deny (n : Nat) (v : Verdict) : (s.offerVerdict n v).deny = s.deny := by unfold State.offerVerdict; split <;> rfl
@[simp] theorem State.offerVerdict_table (n : Nat) (v : Verdict) : (s.offerVerdict n v).table = s.table := by unfold State.offerVerdict; split <;> rfl
@[simp] theorem State.offerVerdict_cap (n : Nat) (v : Verdict) : (s.offerVerdict n v).cap = s.cap := by unfold State.offerVerdict; split <;> rfl
@[simp] theorem State.offerVerdict_taps (n : Nat) (v : Verdict) : (s.offerVerdict n v).taps = s.taps := by unfold State.offerVerdict; split <;> rfl
@[simp] theorem State.offerVerdict_unit (n : Nat) (v : Verdict) : (s.offerVerdict n v).unit = s.unit := by unfold State.offerVerdict; split <;> rfl
@[simp] theorem State.offerVerdict_stall (n : Nat) (v : Verdict) : (s.offerVerdict n v).stall = s.stall := by unfold State.offerVerdict; split <;> rfl
@[simp] theorem State.offerVerdict_sweep (n : Nat) (v : Verdict) : (s.offerVerdict n v).sweep = s.sweep := by unfold State.offerVerdict; split <;> rfl
@[simp] theorem State.offerVerdict_records (n : Nat) (v : Verdict) : (s.offerVerdict n v).records = s.records := by unfold State.offerVerdict; split <;> rfl
@[simp] theorem State.offerVerdict_responses (n : Nat) (v : Verdict) : (s.offerVerdict n v).responses = s.responses := by unfold State.offerVerdict; split <;> rfl
@[simp] theorem State.offerVerdict_notices (n : Nat) (v : Verdict) : (s.offerVerdict n v).notices = s.notices := by unfold State.offerVerdict; split <;> rfl
@[simp] theorem State.offerVerdict_upTransit (n : Nat) (v : Verdict) : (s.offerVerdict n v).upTransit = s.upTransit := by unfold State.offerVerdict; split <;> rfl
@[simp] theorem State.offerVerdict_downTransit (n : Nat) (v : Verdict) : (s.offerVerdict n v).downTransit = s.downTransit := by unfold State.offerVerdict; split <;> rfl
@[simp] theorem State.offerVerdict_passed (n : Nat) (v : Verdict) : (s.offerVerdict n v).passed = s.passed := by unfold State.offerVerdict; split <;> rfl
@[simp] theorem State.offerVerdict_hand (n : Nat) (v : Verdict) : (s.offerVerdict n v).hand = s.hand := by unfold State.offerVerdict; split <;> rfl
@[simp] theorem State.offerVerdict_dayOp (n : Nat) (v : Verdict) : (s.offerVerdict n v).dayOp = s.dayOp := by unfold State.offerVerdict; split <;> rfl
@[simp] theorem State.offerVerdict_auditOp (n : Nat) (v : Verdict) : (s.offerVerdict n v).auditOp = s.auditOp := by unfold State.offerVerdict; split <;> rfl
@[simp] theorem State.offerVerdict_settings (n : Nat) (v : Verdict) : (s.offerVerdict n v).settings = s.settings := by unfold State.offerVerdict; split <;> rfl
@[simp] theorem State.offerVerdict_written (n : Nat) (v : Verdict) : (s.offerVerdict n v).written = s.written := by unfold State.offerVerdict; split <;> rfl
@[simp] theorem State.offerVerdict_fault (n : Nat) (v : Verdict) : (s.offerVerdict n v).fault = s.fault := by unfold State.offerVerdict; split <;> rfl
@[simp] theorem State.offerVerdict_line (n : Nat) (v : Verdict) : (s.offerVerdict n v).line = s.line := by unfold State.offerVerdict; split <;> rfl
@[simp] theorem State.offerVerdict_office (n : Nat) (v : Verdict) : (s.offerVerdict n v).office = s.office := by unfold State.offerVerdict; split <;> rfl

/-! ### State.startSequence -/

@[simp] theorem State.startSequence_pending : (s.startSequence).pending = s.pending := by
  obtain ⟨_, h⟩ := s.startSequence_eq
  rw [h]
@[simp] theorem State.startSequence_mode : (s.startSequence).mode = s.mode := by
  obtain ⟨_, h⟩ := s.startSequence_eq
  rw [h]
@[simp] theorem State.startSequence_clock : (s.startSequence).clock = s.clock := by
  obtain ⟨_, h⟩ := s.startSequence_eq
  rw [h]
@[simp] theorem State.startSequence_watchdog : (s.startSequence).watchdog = s.watchdog := by
  obtain ⟨_, h⟩ := s.startSequence_eq
  rw [h]
@[simp] theorem State.startSequence_tariff : (s.startSequence).tariff = s.tariff := by
  obtain ⟨_, h⟩ := s.startSequence_eq
  rw [h]
@[simp] theorem State.startSequence_copy : (s.startSequence).copy = s.copy := by
  obtain ⟨_, h⟩ := s.startSequence_eq
  rw [h]
@[simp] theorem State.startSequence_deny : (s.startSequence).deny = s.deny := by
  obtain ⟨_, h⟩ := s.startSequence_eq
  rw [h]
@[simp] theorem State.startSequence_table : (s.startSequence).table = s.table := by
  obtain ⟨_, h⟩ := s.startSequence_eq
  rw [h]
@[simp] theorem State.startSequence_cap : (s.startSequence).cap = s.cap := by
  obtain ⟨_, h⟩ := s.startSequence_eq
  rw [h]
@[simp] theorem State.startSequence_taps : (s.startSequence).taps = s.taps := by
  obtain ⟨_, h⟩ := s.startSequence_eq
  rw [h]
@[simp] theorem State.startSequence_unit : (s.startSequence).unit = s.unit := by
  obtain ⟨_, h⟩ := s.startSequence_eq
  rw [h]
@[simp] theorem State.startSequence_stall : (s.startSequence).stall = s.stall := by
  obtain ⟨_, h⟩ := s.startSequence_eq
  rw [h]
@[simp] theorem State.startSequence_verdicts : (s.startSequence).verdicts = s.verdicts := by
  obtain ⟨_, h⟩ := s.startSequence_eq
  rw [h]
@[simp] theorem State.startSequence_records : (s.startSequence).records = s.records := by
  obtain ⟨_, h⟩ := s.startSequence_eq
  rw [h]
@[simp] theorem State.startSequence_responses : (s.startSequence).responses = s.responses := by
  obtain ⟨_, h⟩ := s.startSequence_eq
  rw [h]
@[simp] theorem State.startSequence_notices : (s.startSequence).notices = s.notices := by
  obtain ⟨_, h⟩ := s.startSequence_eq
  rw [h]
@[simp] theorem State.startSequence_upTransit : (s.startSequence).upTransit = s.upTransit := by
  obtain ⟨_, h⟩ := s.startSequence_eq
  rw [h]
@[simp] theorem State.startSequence_downTransit : (s.startSequence).downTransit = s.downTransit := by
  obtain ⟨_, h⟩ := s.startSequence_eq
  rw [h]
@[simp] theorem State.startSequence_passed : (s.startSequence).passed = s.passed := by
  obtain ⟨_, h⟩ := s.startSequence_eq
  rw [h]
@[simp] theorem State.startSequence_hand : (s.startSequence).hand = s.hand := by
  obtain ⟨_, h⟩ := s.startSequence_eq
  rw [h]
@[simp] theorem State.startSequence_dayOp : (s.startSequence).dayOp = s.dayOp := by
  obtain ⟨_, h⟩ := s.startSequence_eq
  rw [h]
@[simp] theorem State.startSequence_auditOp : (s.startSequence).auditOp = s.auditOp := by
  obtain ⟨_, h⟩ := s.startSequence_eq
  rw [h]
@[simp] theorem State.startSequence_settings : (s.startSequence).settings = s.settings := by
  obtain ⟨_, h⟩ := s.startSequence_eq
  rw [h]
@[simp] theorem State.startSequence_written : (s.startSequence).written = s.written := by
  obtain ⟨_, h⟩ := s.startSequence_eq
  rw [h]
@[simp] theorem State.startSequence_counters : (s.startSequence).counters = s.counters := by
  obtain ⟨_, h⟩ := s.startSequence_eq
  rw [h]
@[simp] theorem State.startSequence_fault : (s.startSequence).fault = s.fault := by
  obtain ⟨_, h⟩ := s.startSequence_eq
  rw [h]
@[simp] theorem State.startSequence_line : (s.startSequence).line = s.line := by
  obtain ⟨_, h⟩ := s.startSequence_eq
  rw [h]
@[simp] theorem State.startSequence_office : (s.startSequence).office = s.office := by
  obtain ⟨_, h⟩ := s.startSequence_eq
  rw [h]

/-! ### State.endPass -/

@[simp] theorem State.endPass_pending : (s.endPass).pending = s.pending := by unfold State.endPass; split <;> rfl
@[simp] theorem State.endPass_mode : (s.endPass).mode = s.mode := by unfold State.endPass; split <;> rfl
@[simp] theorem State.endPass_clock : (s.endPass).clock = s.clock := by unfold State.endPass; split <;> rfl
@[simp] theorem State.endPass_watchdog : (s.endPass).watchdog = s.watchdog := by unfold State.endPass; split <;> rfl
@[simp] theorem State.endPass_tariff : (s.endPass).tariff = s.tariff := by unfold State.endPass; split <;> rfl
@[simp] theorem State.endPass_copy : (s.endPass).copy = s.copy := by unfold State.endPass; split <;> rfl
@[simp] theorem State.endPass_deny : (s.endPass).deny = s.deny := by unfold State.endPass; split <;> rfl
@[simp] theorem State.endPass_table : (s.endPass).table = s.table := by unfold State.endPass; split <;> rfl
@[simp] theorem State.endPass_cap : (s.endPass).cap = s.cap := by unfold State.endPass; split <;> rfl
@[simp] theorem State.endPass_taps : (s.endPass).taps = s.taps := by unfold State.endPass; split <;> rfl
@[simp] theorem State.endPass_unit : (s.endPass).unit = s.unit := by unfold State.endPass; split <;> rfl
@[simp] theorem State.endPass_stall : (s.endPass).stall = s.stall := by unfold State.endPass; split <;> rfl
@[simp] theorem State.endPass_verdicts : (s.endPass).verdicts = s.verdicts := by unfold State.endPass; split <;> rfl
@[simp] theorem State.endPass_records : (s.endPass).records = s.records := by unfold State.endPass; split <;> rfl
@[simp] theorem State.endPass_responses : (s.endPass).responses = s.responses := by unfold State.endPass; split <;> rfl
@[simp] theorem State.endPass_notices : (s.endPass).notices = s.notices := by unfold State.endPass; split <;> rfl
@[simp] theorem State.endPass_upTransit : (s.endPass).upTransit = s.upTransit := by unfold State.endPass; split <;> rfl
@[simp] theorem State.endPass_downTransit : (s.endPass).downTransit = s.downTransit := by unfold State.endPass; split <;> rfl
@[simp] theorem State.endPass_passed : (s.endPass).passed = s.passed := by unfold State.endPass; split <;> rfl
@[simp] theorem State.endPass_hand : (s.endPass).hand = s.hand := by unfold State.endPass; split <;> rfl
@[simp] theorem State.endPass_dayOp : (s.endPass).dayOp = s.dayOp := by unfold State.endPass; split <;> rfl
@[simp] theorem State.endPass_auditOp : (s.endPass).auditOp = s.auditOp := by unfold State.endPass; split <;> rfl
@[simp] theorem State.endPass_settings : (s.endPass).settings = s.settings := by unfold State.endPass; split <;> rfl
@[simp] theorem State.endPass_written : (s.endPass).written = s.written := by unfold State.endPass; split <;> rfl
@[simp] theorem State.endPass_counters : (s.endPass).counters = s.counters := by unfold State.endPass; split <;> rfl
@[simp] theorem State.endPass_fault : (s.endPass).fault = s.fault := by unfold State.endPass; split <;> rfl
@[simp] theorem State.endPass_line : (s.endPass).line = s.line := by unfold State.endPass; split <;> rfl
@[simp] theorem State.endPass_office : (s.endPass).office = s.office := by unfold State.endPass; split <;> rfl

/-! ### What the basic updates write -/

@[simp] theorem State.raise_notices (d : NoticeDetail) :
    (s.raise d).notices = raiseIn s.notices d s.clock.time := rfl
@[simp] theorem State.writeFault_fault (c : FaultCode) (n : Nat) :
    (s.writeFault c n).fault = some ⟨c, n, s.clock.time⟩ := rfl
@[simp] theorem State.appendRecord_records (r : JourneyRecord) :
    (s.appendRecord r).records = s.records ++ [r] := rfl
@[simp] theorem State.appendRecord_counters (r : JourneyRecord) :
    (s.appendRecord r).counters = s.counters.countRecord r.kind := rfl
@[simp] theorem State.setOrder_order (o : OrphanOrder) : (s.setOrder o).table.order = o := rfl
@[simp] theorem State.port_setPort_self (p : Port) (ps : PortState) : (s.setPort p ps).port p = ps := by
  cases p <;> rfl
@[simp] theorem State.port_setPort_other (p q : Port) (ps : PortState) (h : q ≠ p) :
    (s.setPort p ps).port q = s.port q := by
  cases p <;> cases q <;> first | rfl | exact absurd rfl h

end Sys2Proof.Machine
end

