-- ==== Sys2Proof/Laws/Journey.lean ====
section
/-! SUPPORT. What the Journey Table's operations can do, said once: whatever their basic updates keep (rewriting a slot,
quarantining one, setting a bucket head or the orphan order, an allocation, a release, a charge, an audit mark and the
audit counts), every operation built from them keeps. -/

namespace Sys2Proof.Machine

/-- A property of the state that the basic updates of the Journey Table and the Cap Table keep. -/
structure JourneyClosed (P : State → Prop) : Prop where
  rewrite : ∀ s n c, P s → P (s.rewrite n c)
  quarantine : ∀ s n c, s.slot n = some (.allocated c false) → P s → P (s.quarantine n)
  setBucketHead : ∀ s b h, P s → P (s.setBucketHead b h)
  setOrder : ∀ s o, P s → P (s.setOrder o)
  allocate : ∀ s c, P s → P (s.allocate c).2
  releaseSlot : ∀ s n, P s → P (s.releaseSlot n)
  charge : ∀ s t d k f, P s → P (s.charge t d k f).2
  mark : ∀ s n, P s → P (s.mark n)
  setAuditCounts : ∀ s c, P s → P (s.setAuditCounts c)

namespace JourneyClosed

variable {P : State → Prop} (H : JourneyClosed P) {s : State}

include H

/-! ### Chains -/

theorem readSlot (n : Nat) (h : P s) : P (s.readSlot n).2 := by
  unfold State.readSlot
  split
  · exact h
  · exact H.quarantine _ _ _ ‹_› h
  · exact h
  · exact h

theorem setNext (n : Nat) (next : Option Nat) (h : P s) : P (s.setNext n next) := by
  unfold State.setNext
  split
  · exact H.rewrite _ _ _ h
  · exact h

theorem setChainLink (b : Nat) (prev next : Option Nat) (h : P s) : P (s.setChainLink b prev next) := by
  cases prev with
  | none => exact H.setBucketHead _ _ _ h
  | some p => exact H.setNext _ _ h

theorem chainLookup (b : Nat) (token : Token) (fuel : Nat) :
    ∀ (prev at_ : Option Nat) (s : State), P s → P (chainLookup b token fuel prev at_ s).2 := by
  induction fuel with
  | zero => intro _ _ _ h; exact h
  | succ fuel ih =>
    intro prev at_ s h
    cases at_ with
    | none => exact h
    | some n =>
      have hr := H.readSlot n h
      unfold Machine.chainLookup
      split
      · rename_i s' e; rw [e] at hr; exact H.setChainLink _ _ _ hr
      · rename_i c s' e
        rw [e] at hr
        split
        · exact H.setChainLink _ _ _ hr
        · split
          · exact hr
          · exact ih _ _ _ hr

theorem lookup (token : Token) (h : P s) : P (s.lookup token).2 := H.chainLookup _ _ _ _ _ _ h

theorem chainUnlink (b target : Nat) (fuel : Nat) :
    ∀ (prev at_ : Option Nat) (s : State), P s → P (chainUnlink b target fuel prev at_ s) := by
  induction fuel with
  | zero => intro _ _ _ h; exact h
  | succ fuel ih =>
    intro prev at_ s h
    cases at_ with
    | none => exact h
    | some n =>
      have hr := H.readSlot n h
      unfold Machine.chainUnlink
      split
      · exact H.setChainLink _ _ _ h
      · split
        · rename_i s' e; rw [e] at hr; exact H.setChainLink _ _ _ hr
        · rename_i c s' e
          rw [e] at hr
          split
          · exact H.setChainLink _ _ _ hr
          · exact ih _ _ _ hr

theorem unlink (target : Nat) (token : Token) (before : Predecessor) (h : P s) : P (s.unlink target token before) := by
  cases before with
  | known prev => exact H.setChainLink _ _ _ h
  | sought => exact H.chainUnlink _ _ _ _ _ _ h

/-! ### The orphan order -/

theorem setNextOrder (n : Nat) (next : Option Nat) (h : P s) : P (s.setNextOrder n next) := by
  unfold State.setNextOrder
  split
  · exact H.rewrite _ _ _ h
  · exact h

theorem cutOrder (prev : Option Nat) (count : Nat) (h : P s) : P (s.cutOrder prev count) := by
  cases prev with
  | none => exact H.setOrder _ _ h
  | some p => exact H.setOrder _ _ (H.setNextOrder _ _ h)

theorem orderWalk (target : Option Nat) (fuel : Nat) :
    ∀ (prev : Option Nat) (count : Nat) (at_ : Option Nat) (s : State), P s →
      P (orderWalk target fuel prev count at_ s).2.2 := by
  induction fuel with
  | zero => intro _ _ _ _ h; exact h
  | succ fuel ih =>
    intro prev count at_ s h
    cases at_ with
    | none => exact h
    | some n =>
      have hr := H.readSlot n h
      unfold Machine.orderWalk
      split
      · exact h
      · split
        · rename_i o s' e
          rw [e] at hr
          split
          · exact hr
          · exact ih _ _ _ _ hr
        · rename_i c s' _ e
          rw [e] at hr
          exact H.cutOrder _ _ hr

theorem walkOrder (target : Option Nat) (h : P s) : P (s.walkOrder target).2.2 := H.orderWalk _ _ _ _ _ _ h

theorem removeFromOrder (n : Nat) (h : P s) : P (s.removeFromOrder n) := by
  have hw := H.walkOrder (some n) h
  unfold State.removeFromOrder
  split
  · rename_i e; rw [e] at hw; exact hw
  · rename_i prev s' e
    rw [e] at hw
    cases prev with
    | none => exact H.setOrder _ _ hw
    | some p => exact H.setOrder _ _ (H.setNextOrder _ _ hw)

theorem linkAtTail (n : Nat) (tail : Option Nat) (h : P s) : P (s.linkAtTail n tail) := by
  cases tail with
  | none => exact H.setOrder _ _ h
  | some t => exact H.setOrder _ _ (H.setNextOrder _ _ h)

theorem appendToOrder (n : Nat) (h : P s) : P (s.appendToOrder n) := by
  unfold State.appendToOrder
  split
  · exact H.linkAtTail _ _ h
  · rename_i t _
    have hr := H.readSlot t h
    split
    · rename_i e; rw [e] at hr; exact H.linkAtTail _ _ hr
    · rename_i e; rw [e] at hr; exact H.linkAtTail _ _ (H.walkOrder _ hr)

/-! ### Allocation, release, extensions -/

theorem allocateLinked (token : Token) (c : Content) (h : P s) : P (s.allocateLinked token c).2 := by
  have ha := H.allocate s (c.withNext (s.bucketHead (bucketOf token))) h
  unfold State.allocateLinked
  dsimp only
  split
  · rename_i e; rw [e] at ha; exact ha
  · rename_i n s' e; rw [e] at ha; exact H.setBucketHead s' (bucketOf token) (some n) ha

theorem foldl_releaseSlot (es : List Nat) : ∀ {s : State}, P s → P (es.foldl State.releaseSlot s) := by
  induction es with
  | nil => intro _ h; exact h
  | cons n rest ih => intro _ h; exact ih (H.releaseSlot _ _ h)

theorem releaseJourney (n : Nat) (token : Token) (es : List Nat) (before : Predecessor) (h : P s) :
    P (s.releaseJourney n token es before) :=
  H.foldl_releaseSlot _ (H.releaseSlot _ _ (H.unlink _ _ _ h))

theorem releaseOrphan (n : Nat) (token : Token) (before : Predecessor) (h : P s) :
    P (s.releaseOrphan n token before) :=
  H.releaseSlot _ _ (H.removeFromOrder _ (H.unlink _ _ _ h))

theorem readExtension (n : Nat) (h : P s) : P (s.readExtension n).2 := by
  have hr := H.readSlot n h
  unfold State.readExtension
  split <;> rename_i e <;> rw [e] at hr <;> exact hr

theorem readExtensions (ns : List Nat) : ∀ {s : State}, P s → P (readExtensions ns s).2 := by
  induction ns with
  | nil => intro _ h; exact h
  | cons n rest ih => intro _ h; exact ih (H.readExtension n h)

/-! ### Settlement -/

theorem chargeRecord (x : Reckoned) (h : P s) : P (s.chargeRecord x).2 := by
  unfold State.chargeRecord
  split
  · exact h
  · rename_i k _
    have hc := H.charge s x.record.token x.record.day k x.record.classFare h
    split <;> rename_i e <;> rw [e] at hc <;> exact hc

theorem settle (q : SettlementRequest) (h : P s) : P (s.settle q).2 := H.chargeRecord _ h

theorem closeJourney (n : Nat) (c : Core) (how : Closing) (extra : Flags) (before : Predecessor) (h : P s) :
    P (s.closeJourney n c how extra before).2 := H.releaseJourney _ _ _ _ (H.readExtensions _ h)

theorem settleCore (n : Nat) (c : Core) (how : Closing) (extra : Flags) (before : Predecessor) (h : P s) :
    P (s.settleCore n c how extra before).2 := H.settle _ (H.closeJourney _ _ _ _ _ h)

theorem settleOrphan (n : Nat) (o : Orphan) (extra : Flags) (before : Predecessor) (h : P s) :
    P (s.settleOrphan n o extra before).2 :=
  H.releaseOrphan _ _ _ h

/-! ### Card operations -/

theorem openCore (x : Handling) (h : P s) : P (s.openCore x).2 := by
  have ha := H.allocateLinked x.context.token (.core x.context.core) h
  unfold State.openCore
  dsimp only
  split <;> exact ha

theorem holdLeg (x : Handling) (before : Predecessor) (n : Nat) (c : Core) (h : P s) : P (s.holdLeg x before n c).2 := by
  have ha := H.allocate s (.extension (x.context.extension s.tariff.liveBank n c)) h
  unfold State.holdLeg
  dsimp only
  split <;> exact ha

theorem makeRoom (x : Handling) (h : P s) : P (s.makeRoom x).2 := by
  unfold State.makeRoom
  split
  · exact h
  · split
    · exact h
    · rename_i n _
      have hr := H.readSlot n h
      split
      · rename_i e; rw [e] at hr; exact hr
      · rename_i s' _ e; rw [e] at hr; exact H.cutOrder (s := s') none 0 hr

theorem storeOrphan (x : Handling) (h : P s) : P (s.storeOrphan x).2 := by
  have ha := H.allocateLinked x.context.token (.orphan x.context.orphan) h
  unfold State.storeOrphan
  dsimp only
  split <;> exact ha

/-- Each step of a card operation keeps what the basic updates keep. -/
theorem cardStep (x : Handling) (step : CardStep) (h : P s) : P (s.cardStep x step).2 := by
  cases step with
  | lookup => exact H.lookup _ h
  | closeJourney n c how extra own before => exact H.closeJourney n c how extra before h
  | closeOrphan n o before => exact H.releaseOrphan _ _ _ h
  | matchOrphan n o before => exact H.releaseOrphan _ _ _ h
  | reckon q own => exact h
  | charge r own => exact H.chargeRecord _ h
  | openCore => exact H.openCore _ h
  | holdLeg n c before => exact H.holdLeg _ _ _ _ h
  | rewriteCore n c => exact H.rewrite _ _ _ h
  | makeRoom => exact H.makeRoom _ h
  | storeOrphan => exact H.storeOrphan _ h
  | joinOrder n => exact H.appendToOrder _ h

/-! ### Walks, the audit and the query -/

theorem walkSettle (n : Nat) (extra : Flags) (c : Content) (h : P s) : P (s.walkSettle n extra c).2 := by
  cases c with
  | core c => exact H.settleCore _ _ _ _ _ h
  | extension e => exact h
  | orphan o => exact H.settleOrphan n o extra _ h

theorem examineByAge (n : Nat) (f : Option Nat) (h : P s) : P (s.examineByAge n f).2 := by
  have hr := H.readSlot n h
  unfold State.examineByAge
  split
  · rename_i e; rw [e] at hr; exact hr
  · rename_i e
    rw [e] at hr
    split
    · exact hr
    · exact H.walkSettle _ _ _ hr

theorem examineByDay (n : Nat) (h : P s) : P (s.examineByDay n).2 := by
  have hr := H.readSlot n h
  unfold State.examineByDay
  split
  · rename_i e; rw [e] at hr; exact hr
  · rename_i e
    rw [e] at hr
    split
    · exact H.walkSettle _ _ _ hr
    · exact hr

theorem foldl_mark (ns : List Nat) : ∀ {s : State}, P s → P (ns.foldl State.mark s) := by
  induction ns with
  | nil => intro _ h; exact h
  | cons n rest ih => intro _ h; exact ih (H.mark _ _ h)

theorem auditChainSlot (b : Nat) (passed : Option Nat) (n : Nat) (h : P s) :
    P (s.auditChainSlot b passed n).2.2 := by
  have hr := H.readSlot n h
  unfold State.auditChainSlot
  split
  · rename_i c s' e
    rw [e] at hr
    have he := H.readExtensions c.extensions hr
    dsimp only
    split
    · exact H.setAuditCounts _ _ (H.settleCore _ _ _ _ _ he)
    · exact H.foldl_mark _ (H.mark _ _ he)
  · rename_i e; rw [e] at hr; exact H.mark _ _ hr
  · rename_i e; rw [e] at hr; exact H.setChainLink _ _ _ hr

theorem ownedBy (n owner : Nat) (h : P s) : P (s.ownedBy n owner).2 := by
  have hr := H.readSlot owner h
  unfold State.ownedBy
  split
  · split <;> rename_i e <;> rw [e] at hr <;> exact hr
  · exact h

theorem auditSlot (n : Nat) (h : P s) : P (s.auditSlot n).2 := by
  have hr := H.readSlot n h
  unfold State.auditSlot
  split
  · rename_i e; rw [e] at hr; exact hr
  · rename_i e; rw [e] at hr; exact H.setAuditCounts _ _ (H.settleCore _ _ _ _ _ hr)
  · rename_i e; rw [e] at hr; exact H.setAuditCounts _ _ (H.settleOrphan _ _ _ _ hr)
  · rename_i x s' e
    rw [e] at hr
    have ho := H.ownedBy n x.owner hr
    split
    · rename_i e'; rw [e'] at ho; exact ho
    · rename_i e'; rw [e'] at ho; exact H.setAuditCounts _ _ (H.releaseSlot _ _ ho)

theorem gatherOrphan (n : Nat) (found : List (Nat × Nat)) (h : P s) : P (s.gatherOrphan n found).2 := by
  have hr := H.readSlot n h
  unfold State.gatherOrphan
  split <;> rename_i e <;> rw [e] at hr <;> exact hr

theorem shedOrphan (n : Nat) (h : P s) : P (s.shedOrphan n).2 := by
  have hr := H.readSlot n h
  unfold State.shedOrphan
  split
  · rename_i e; rw [e] at hr; exact H.setAuditCounts _ _ (H.settleOrphan _ _ _ _ hr)
  · rename_i e; rw [e] at hr; exact hr

theorem linkOrphan (n : Nat) (h : P s) : P (s.linkOrphan n) := by
  have hr := H.readSlot n h
  unfold State.linkOrphan
  split
  · rename_i e; rw [e] at hr; exact H.appendToOrder _ (H.setNextOrder _ _ hr)
  · rename_i e; rw [e] at hr; exact hr

theorem queryJourney (token : Token) (h : P s) : P (s.queryJourney token).2 := by
  have hl := H.lookup token h
  unfold State.queryJourney
  split
  · rename_i e; rw [e] at hl; exact H.readExtensions _ hl
  · rename_i e; rw [e] at hl; exact H.walkOrder _ hl
  · rename_i e; rw [e] at hl; exact hl

end JourneyClosed

/-! ### The frame of the Journey Table's operations -/

/-- `t` differs from `s` at most in the Journey Table, the Cap Table, the Sweep Unit, the notices, the fault record and
the counters. -/
def JourneyFrame (s t : State) : Prop :=
  t = { s with
    table := t.table, cap := t.cap, sweep := t.sweep, notices := t.notices, fault := t.fault, counters := t.counters }

theorem JourneyFrame.refl (s : State) : JourneyFrame s s := rfl

theorem JourneyFrame.trans {s t u : State} (h : JourneyFrame s t) (k : JourneyFrame t u) : JourneyFrame s u := by
  unfold JourneyFrame at *
  rw [k, h]

theorem judgeShortage_frame (s : State) : JourneyFrame s s.judgeShortage := by
  unfold State.judgeShortage
  split
  · unfold JourneyFrame State.startSequence
    split
    · dsimp only
      split <;> rfl
    · rfl
  · exact .refl s

theorem judgeCleared_frame (s : State) : JourneyFrame s s.judgeCleared := by
  unfold State.judgeCleared
  split <;> rfl

/-- Every operation of the Journey Table and the Cap Table stays inside that frame. -/
theorem journeyFrame_closed (s : State) : JourneyClosed (JourneyFrame s) where
  rewrite t n c h := by
    refine h.trans ?_
    unfold State.rewrite
    split
    · rfl
    · exact .refl t
  quarantine _ _ _ _ h := h.trans rfl
  setBucketHead _ _ _ h := h.trans rfl
  setOrder _ _ h := h.trans rfl
  allocate t c h := by
    refine h.trans ?_
    unfold State.allocate
    split
    · exact .refl t
    · rename_i n f _
      have hs : JourneyFrame t { t with table := { t.table with
        free := f
        slots := sparsePut t.table.slots n (.allocated c true)
        counts := t.table.counts.move .free c.kind } } := rfl
      exact hs.trans (judgeShortage_frame _)
  releaseSlot t n h := by
    refine h.trans ?_
    unfold State.releaseSlot
    split
    · exact .refl t
    have hs : JourneyFrame t { t with table := { t.table with
      slots := sparseErase t.table.slots n
      free := t.table.free.give n
      counts := t.table.counts.move (t.kind n) .free } } := rfl
    exact hs.trans (judgeCleared_frame _)
  charge t _ _ _ _ h := by
    refine h.trans ?_
    unfold State.charge
    split
    · exact .refl t
    · split
      · rfl
      · split <;> rfl
  mark _ _ h := h.trans rfl
  setAuditCounts _ _ h := h.trans rfl

end Sys2Proof.Machine
end

