-- ==== Sys2Proof/Laws/Sparse.lean ====
section
/-! SUPPORT. Laws of the stores indexed by number: a read after a write, and the canonical form, which every operation
keeps. -/

namespace Sys2Proof.Machine

variable {α : Type}

/-- The canonical form as a fact about the numbers: they strictly rise. -/
theorem sparseWf_iff (m : List (Nat × α)) : sparseWf m = true ↔ m.Pairwise fun a b => a.1 < b.1 := by
  induction m with
  | nil => simp [sparseWf]
  | cons a rest ih =>
    cases rest with
    | nil => simp [sparseWf]
    | cons b rest =>
      simp only [sparseWf, Bool.and_eq_true, decide_eq_true_eq, ih, List.pairwise_cons]
      constructor
      · rintro ⟨hab, hb, hr⟩
        refine ⟨?_, hb, hr⟩
        intro c hc
        rcases List.mem_cons.1 hc with rfl | hc
        · exact hab
        · exact Nat.lt_trans hab (hb c hc)
      · rintro ⟨ha, hb, hr⟩
        exact ⟨ha b (by simp), hb, hr⟩

/-- What a write lists: the entry written, and entries listed before. -/
theorem mem_sparsePut (m : List (Nat × α)) (k : Nat) (v : α) (x : Nat × α) (h : x ∈ sparsePut m k v) :
    x = (k, v) ∨ x ∈ m := by
  induction m with
  | nil => simpa [sparsePut] using h
  | cons a rest ih =>
    obtain ⟨j, w⟩ := a
    unfold sparsePut at h
    split at h
    · rcases List.mem_cons.1 h with h | h
      · exact .inl h
      · exact .inr (List.mem_cons_of_mem _ h)
    · split at h
      · rcases List.mem_cons.1 h with h | h
        · exact .inl h
        · exact .inr h
      · rcases List.mem_cons.1 h with h | h
        · exact .inr (by simp [h])
        · exact (ih h).imp id (List.mem_cons_of_mem _)

/-- What a removal leaves listed was listed. -/
theorem mem_sparseErase (m : List (Nat × α)) (k : Nat) (x : Nat × α) (h : x ∈ sparseErase m k) : x ∈ m := by
  induction m with
  | nil => exact h
  | cons a rest ih =>
    obtain ⟨j, w⟩ := a
    unfold sparseErase at h
    split at h
    · exact List.mem_cons_of_mem _ h
    · split at h
      · exact h
      · rcases List.mem_cons.1 h with h | h
        · simp [h]
        · exact List.mem_cons_of_mem _ (ih h)

/-- A write keeps the canonical form. -/
theorem sparsePut_wf (m : List (Nat × α)) (k : Nat) (v : α) (h : sparseWf m = true) :
    sparseWf (sparsePut m k v) = true := by
  rw [sparseWf_iff] at *
  induction m with
  | nil => simp [sparsePut]
  | cons a rest ih =>
    obtain ⟨j, w⟩ := a
    obtain ⟨ha, hr⟩ := List.pairwise_cons.1 h
    unfold sparsePut
    split
    · rename_i e
      subst e
      exact List.pairwise_cons.2 ⟨ha, hr⟩
    · split
      · rename_i hk
        refine List.pairwise_cons.2 ⟨?_, h⟩
        intro b hb
        rcases List.mem_cons.1 hb with rfl | hb
        · exact hk
        · exact Nat.lt_trans hk (ha b hb)
      · rename_i hne hk
        refine List.pairwise_cons.2 ⟨?_, ih hr⟩
        intro b hb
        rcases mem_sparsePut _ _ _ _ hb with rfl | hb
        · exact Nat.lt_of_le_of_ne (Nat.le_of_not_lt hk) hne
        · exact ha b hb

/-- A removal keeps the canonical form. -/
theorem sparseErase_wf (m : List (Nat × α)) (k : Nat) (h : sparseWf m = true) :
    sparseWf (sparseErase m k) = true := by
  rw [sparseWf_iff] at *
  induction m with
  | nil => simp [sparseErase]
  | cons a rest ih =>
    obtain ⟨j, w⟩ := a
    obtain ⟨ha, hr⟩ := List.pairwise_cons.1 h
    unfold sparseErase
    split
    · exact hr
    · split
      · exact h
      · exact List.pairwise_cons.2 ⟨fun b hb => ha b (mem_sparseErase _ _ _ hb), ih hr⟩

/-- A read of the number written gives the value written. -/
@[simp] theorem sparseGet_put_self (m : List (Nat × α)) (k : Nat) (v : α) : sparseGet (sparsePut m k v) k = some v := by
  induction m with
  | nil => simp [sparsePut, sparseGet]
  | cons a rest ih =>
    obtain ⟨j, w⟩ := a
    unfold sparsePut
    split
    · simp [sparseGet]
    · split
      · simp [sparseGet]
      · rename_i hne hk
        simp [sparseGet, hne, hk, ih]

/-- A read of another number gives what it gave before the write. -/
theorem sparseGet_put_other (m : List (Nat × α)) (k i : Nat) (v : α) (hi : i ≠ k) :
    sparseGet (sparsePut m k v) i = sparseGet m i := by
  induction m with
  | nil =>
    simp only [sparsePut, sparseGet]
    rw [if_neg (Ne.symm hi)]
    split <;> rfl
  | cons a rest ih =>
    obtain ⟨j, w⟩ := a
    unfold sparsePut
    split
    · rename_i e
      subst e
      simp only [sparseGet]
      rw [if_neg (Ne.symm hi), if_neg (Ne.symm hi)]
    · split
      · rename_i hk
        simp only [sparseGet]
        rw [if_neg (Ne.symm hi)]
        split
        · rename_i hik
          rw [if_neg (by omega), if_pos (by omega)]
        · rfl
      · simp only [sparseGet, ih]

/-- Nothing is listed below the first number of a canonical store. -/
theorem sparseGet_of_lt (m : List (Nat × α)) (k : Nat) (h : ∀ x ∈ m, k < x.1) : sparseGet m k = none := by
  cases m with
  | nil => rfl
  | cons a rest =>
    obtain ⟨j, w⟩ := a
    have := h (j, w) (by simp)
    simp only at this
    simp only [sparseGet]
    rw [if_neg (by omega), if_pos this]

/-- A read of a number removed from a canonical store gives nothing. -/
theorem sparseGet_erase_self (m : List (Nat × α)) (k : Nat) (h : sparseWf m = true) :
    sparseGet (sparseErase m k) k = none := by
  rw [sparseWf_iff] at h
  induction m with
  | nil => rfl
  | cons a rest ih =>
    obtain ⟨j, w⟩ := a
    obtain ⟨ha, hr⟩ := List.pairwise_cons.1 h
    unfold sparseErase
    split
    · rename_i e
      subst e
      exact sparseGet_of_lt _ _ ha
    · split
      · rename_i hne hk
        simp [sparseGet, hne, hk]
      · rename_i hne hk
        simp [sparseGet, hne, hk, ih hr]

/-- A read of another number gives what it gave before the removal. -/
theorem sparseGet_erase_other (m : List (Nat × α)) (k i : Nat) (h : sparseWf m = true) (hi : i ≠ k) :
    sparseGet (sparseErase m k) i = sparseGet m i := by
  rw [sparseWf_iff] at h
  induction m with
  | nil => rfl
  | cons a rest ih =>
    obtain ⟨j, w⟩ := a
    obtain ⟨ha, hr⟩ := List.pairwise_cons.1 h
    unfold sparseErase
    split
    · rename_i e
      subst e
      simp only [sparseGet]
      rw [if_neg (Ne.symm hi)]
      split
      · rename_i hij
        exact sparseGet_of_lt _ _ fun x hx => Nat.lt_trans hij (ha x hx)
      · rfl
    · split
      · rfl
      · simp only [sparseGet, ih hr]

/-- Nothing is removed where nothing is listed. -/
theorem sparseErase_of_none (m : List (Nat × α)) (k : Nat) (h : sparseGet m k = none) : sparseErase m k = m := by
  induction m with
  | nil => rfl
  | cons a rest ih =>
    obtain ⟨j, w⟩ := a
    simp only [sparseGet, sparseErase] at *
    split at h
    · cases h
    · rename_i hj
      rw [if_neg hj]
      split
      · rfl
      · rename_i hk; rw [if_neg hk] at h; rw [ih h]

/-- How many listed values a predicate takes, after an entry is put: the new value is counted in place of the old. -/
theorem sparse_count_put (p : α → Bool) (m : List (Nat × α)) (k : Nat) (v : α) :
    ((sparsePut m k v).filter fun x => p x.2).length + ((sparseGet m k).elim 0 fun w => (p w).toNat) =
      (m.filter fun x => p x.2).length + (p v).toNat := by
  induction m with
  | nil => cases h : p v <;> simp [sparsePut, sparseGet, h]
  | cons a rest ih =>
    obtain ⟨j, w⟩ := a
    simp only [sparsePut, sparseGet]
    by_cases e : j = k
    · subst e; cases h : p v <;> cases h2 : p w <;> simp [List.filter, h, h2]
    · by_cases e2 : k < j
      · cases h : p v <;> simp [e, e2, List.filter, h]
      · simp only [e, e2, if_false, List.filter]
        cases h2 : p w <;> simp <;> omega

/-- How many listed values a predicate takes, after an entry is removed: the old value is counted no more. -/
theorem sparse_count_erase (p : α → Bool) (m : List (Nat × α)) (k : Nat) :
    ((sparseErase m k).filter fun x => p x.2).length + ((sparseGet m k).elim 0 fun w => (p w).toNat) =
      (m.filter fun x => p x.2).length := by
  induction m with
  | nil => simp [sparseErase, sparseGet]
  | cons a rest ih =>
    obtain ⟨j, w⟩ := a
    simp only [sparseErase, sparseGet]
    by_cases e : j = k
    · subst e; cases h2 : p w <;> simp [List.filter, h2]
    · by_cases e2 : k < j
      · simp [e, e2]
      · simp only [e, e2, if_false, List.filter]
        cases h2 : p w <;> simp <;> omega

/-- What is read from a store is listed in it. -/
theorem mem_of_sparseGet (m : List (Nat × α)) (k : Nat) (v : α) (h : sparseGet m k = some v) : (k, v) ∈ m := by
  induction m with
  | nil => simp [sparseGet] at h
  | cons a rest ih =>
    obtain ⟨j, w⟩ := a
    unfold sparseGet at h
    split at h
    · rename_i e
      subst e
      simp at h
      simp [h]
    · split at h
      · simp at h
      · exact List.mem_cons_of_mem _ (ih h)

end Sys2Proof.Machine
end

