-- ==== Sys2Proof/Laws/Ops.lean ====
section
/-! SUPPORT. What the shared operations do, said once each, so that a proof cites these lemmas and does not unfold the
operation: responses, records, and verdicts; finding a slot; the free list, allocation and release; reading a
journey's extensions and releasing a whole journey. -/

namespace Sys2Proof.Machine

/-! ### Responses, records and verdicts -/

/-- A response goes to the response queue or to hand, and nowhere else. -/
theorem State.respond_eq (s : State) (r : Response) :
    ∃ queue hand, s.respond r = { s with responses := queue, hand := hand } := by
  unfold State.respond; split <;> exact ⟨_, _, rfl⟩

/-- A verdict offered touches the verdict queue and the counter of stale verdicts alone. -/
theorem State.offerVerdict_eq (s : State) (stamp : Nat) (v : Verdict) :
    ∃ queue stale, s.offerVerdict stamp v =
      { s with verdicts := queue, counters := { s.counters with staleVerdicts := stale } } := by
  unfold State.offerVerdict; split <;> exact ⟨_, _, rfl⟩

/-- The fate of a verdict rests on the clock, the settings, the verdict queue and its own counter alone. -/
theorem State.offerVerdict_congr (s t : State) (stamp : Nat) (v : Verdict) (clock : t.clock = s.clock)
    (settings : t.settings = s.settings) (verdicts : t.verdicts = s.verdicts)
    (stale : t.counters.staleVerdicts = s.counters.staleVerdicts) :
    (t.offerVerdict stamp v).verdicts = (s.offerVerdict stamp v).verdicts ∧
    (t.offerVerdict stamp v).counters =
      { t.counters with staleVerdicts := (s.offerVerdict stamp v).counters.staleVerdicts } := by
  unfold State.offerVerdict; rw [clock, settings, verdicts]; split
  · simp [stale]
  · exact ⟨rfl, by rw [← stale]⟩

/-- Appending while there is room touches the record queue, the counters and the stall mark alone. -/
theorem appendWhileRoom_eq (rs : List JourneyRecord) : ∀ s : State, ∃ records counters stall,
    (appendWhileRoom rs s).2 = { s with records := records, counters := counters, stall := stall } := by
  induction rs with
  | nil => exact fun s => ⟨_, _, _, rfl⟩
  | cons r rs ih =>
    intro s
    simp only [appendWhileRoom]
    split
    · obtain ⟨records, counters, stall, h⟩ := ih (s.appendRecord r)
      exact ⟨records, counters, stall, h⟩
    · exact ⟨_, _, _, rfl⟩

/-- The records a walk hands over touch what an append touches, and the records that wait. -/
theorem State.walkRecords_eq (s : State) (rs : List JourneyRecord) : ∃ records counters stall waiting,
    s.walkRecords rs = { s with
      records := records, counters := counters, stall := stall, sweep := { s.sweep with waiting := waiting } } := by
  unfold State.walkRecords
  split
  · obtain ⟨records, counters, stall, h⟩ := appendWhileRoom_eq rs s
    exact ⟨records, counters, stall, (appendWhileRoom rs s).1, by dsimp only; rw [h]⟩
  · exact ⟨_, _, _, _, rfl⟩

/-- A walk that hands over no record, with none waiting, leaves the state as it is. -/
theorem State.walkRecords_nil (s : State) (h : s.sweep.waiting = []) : s.walkRecords [] = s := by
  have hs : { s.sweep with waiting := [] } = s.sweep := by rw [← h]
  unfold State.walkRecords
  split
  · exact congrArg (fun w => ({ s with sweep := w } : State)) hs
  · rw [h]; exact congrArg (fun w => ({ s with sweep := w } : State)) hs

/-! ### Finding the next slot of a kind -/

/-- A search of a store from number `n` finds `m`, the least listed number from there that the predicate takes. -/
theorem sparse_find_least {α : Type} (l : List (Nat × α)) (hw : sparseWf l = true) (p : α → Nat → Bool) (n m : Nat)
    (v : α) (hm : sparseGet l m = some v) (hp : p v m = true) (hn : n ≤ m)
    (least : ∀ j v, n ≤ j → j < m → sparseGet l j = some v → p v j = false) :
    (l.find? fun x => decide (n ≤ x.1) && p x.2 x.1).map (·.1) = some m := by
  rw [sparseWf_iff] at hw
  induction l with
  | nil => simp [sparseGet] at hm
  | cons a l ih =>
    obtain ⟨j, w⟩ := a
    simp only [sparseGet] at hm
    by_cases e : j = m
    · subst e; simp at hm; subst hm
      simp [List.find?, hn, hp]
    · simp [e] at hm
      have hw2 := (List.pairwise_cons.1 hw).2
      have hjm : j < m := by
        by_contra h
        have := mem_of_sparseGet l m v hm.2
        have := (List.pairwise_cons.1 hw).1 _ this
        simp at this; omega
      have hf : (decide (n ≤ j) && p w j) = false := by
        by_cases h : n ≤ j
        · have := least j w h hjm (by simp [sparseGet]); simp [this]
        · simp [h]
      simp only [List.find?, hf]
      apply ih hw2 hm.2
      intro i u hi1 hi2 hg
      apply least i u hi1 hi2
      have := mem_of_sparseGet l i u hg
      have h9 := (List.pairwise_cons.1 hw).1 _ this
      simp at h9
      simp [sparseGet]; rw [if_neg (by omega), if_neg (by omega)]; exact hg

/-- A search of a store from number `n` finds nothing when the predicate takes no listed number from there. -/
theorem sparse_find_none {α : Type} (l : List (Nat × α)) (hw : sparseWf l = true) (p : α → Nat → Bool) (n : Nat)
    (none_ : ∀ j v, n ≤ j → sparseGet l j = some v → p v j = false) :
    (l.find? fun x => decide (n ≤ x.1) && p x.2 x.1).map (·.1) = none := by
  rw [sparseWf_iff] at hw
  simp
  intro a b hab hna
  apply none_ a b hna
  clear none_
  induction l with
  | nil => simp at hab
  | cons c l ih =>
    obtain ⟨j, w⟩ := c
    simp at hab
    rcases hab with ⟨rfl, rfl⟩ | hab
    · simp [sparseGet]
    · have h9 := (List.pairwise_cons.1 hw).1 _ hab
      simp at h9
      simp [sparseGet]; rw [if_neg (by omega), if_neg (by omega)]; exact ih (List.pairwise_cons.1 hw).2 hab

/-- A slot number put among the audit marks is marked, and so is whatever was. -/
theorem mem_markIn (l : List Nat) (n m : Nat) : m ∈ markIn l n ↔ m = n ∨ m ∈ l := by
  induction l with
  | nil => simp [markIn]
  | cons a l ih =>
    simp only [markIn]; split
    · rename_i h; subst h; simp
    · split
      · simp
      · simp [ih]; tauto

/-! ### The free list, allocation and release -/

/-- Judging shortage after an allocation leaves the slots, the heads, the lists, the accounts and the counters. -/
theorem State.judgeShortage_keeps (s : State) :
    s.judgeShortage.table.slots = s.table.slots ∧ s.judgeShortage.table.heads = s.table.heads ∧
    s.judgeShortage.table.free = s.table.free ∧ s.judgeShortage.table.counts = s.table.counts ∧
    s.judgeShortage.table.order = s.table.order ∧ s.judgeShortage.table.marks = s.table.marks ∧
    s.judgeShortage.cap = s.cap ∧ s.judgeShortage.counters = s.counters := by
  unfold State.judgeShortage State.startSequence; split
  · dsimp only; split
    · split <;> exact ⟨rfl, rfl, rfl, rfl, rfl, rfl, rfl, rfl⟩
    · exact ⟨rfl, rfl, rfl, rfl, rfl, rfl, rfl, rfl⟩
  · exact ⟨rfl, rfl, rfl, rfl, rfl, rfl, rfl, rfl⟩

/-- Judging shortage after a release leaves the slots, the heads, the lists and the accounts. -/
theorem State.judgeCleared_keeps (s : State) :
    s.judgeCleared.table.slots = s.table.slots ∧ s.judgeCleared.table.heads = s.table.heads ∧
    s.judgeCleared.table.free = s.table.free ∧ s.judgeCleared.table.counts = s.table.counts ∧
    s.judgeCleared.table.order = s.table.order ∧ s.judgeCleared.table.marks = s.table.marks ∧
    s.judgeCleared.cap = s.cap := by
  unfold State.judgeCleared; split <;> exact ⟨rfl, rfl, rfl, rfl, rfl, rfl, rfl⟩

/-- A slot is of kind FREE exactly when it holds nothing. -/
theorem State.kind_eq_free (s : State) (n : Nat) : s.kind n = .free ↔ s.slot n = none := by
  unfold State.kind
  cases h : s.slot n with
  | none => simp
  | some x =>
    cases x with
    | quarantined => simp [Slot.kind]
    | allocated c k => cases c <;> simp [Slot.kind, Content.kind]

/-- A FREE slot is not released. -/
theorem State.releaseSlot_of_free {s : State} {n : Nat} (h : s.slot n = none) : s.releaseSlot n = s := by
  unfold State.releaseSlot; rw [if_pos ((s.kind_eq_free n).2 h)]

@[simp] theorem State.releaseSlot_slots (s : State) (n : Nat) :
    (s.releaseSlot n).table.slots = sparseErase s.table.slots n := by
  unfold State.releaseSlot
  split
  · rename_i h; exact (sparseErase_of_none _ _ ((s.kind_eq_free n).1 h)).symm
  · rw [(State.judgeCleared_keeps _).1]

@[simp] theorem State.releaseSlot_heads (s : State) (n : Nat) : (s.releaseSlot n).table.heads = s.table.heads := by
  unfold State.releaseSlot; split
  · rfl
  · rw [(State.judgeCleared_keeps _).2.1]

@[simp] theorem State.releaseSlot_free (s : State) (n : Nat) :
    (s.releaseSlot n).table.free = if s.kind n = .free then s.table.free else s.table.free.give n := by
  unfold State.releaseSlot; split
  · rfl
  · rw [(State.judgeCleared_keeps _).2.2.1]

@[simp] theorem State.releaseSlot_counts (s : State) (n : Nat) :
    (s.releaseSlot n).table.counts =
      if s.kind n = .free then s.table.counts else s.table.counts.move (s.kind n) .free := by
  unfold State.releaseSlot; split
  · rfl
  · rw [(State.judgeCleared_keeps _).2.2.2.1]

@[simp] theorem State.releaseSlot_marks (s : State) (n : Nat) : (s.releaseSlot n).table.marks = s.table.marks := by
  unfold State.releaseSlot; split
  · rfl
  · rw [(State.judgeCleared_keeps _).2.2.2.2.2.1]

@[simp] theorem State.releaseSlot_order (s : State) (n : Nat) : (s.releaseSlot n).table.order = s.table.order := by
  unfold State.releaseSlot; split
  · rfl
  · rw [(State.judgeCleared_keeps _).2.2.2.2.1]

@[simp] theorem State.releaseSlot_cap (s : State) (n : Nat) : (s.releaseSlot n).cap = s.cap := by
  unfold State.releaseSlot; split
  · rfl
  · rw [(State.judgeCleared_keeps _).2.2.2.2.2.2]

/-- A rewriting into a slot of its kind writes that slot. -/
theorem State.rewrite_eq {s : State} {n : Nat} {c : Content} (h : s.kind n = c.kind) :
    s.rewrite n c = { s with table := { s.table with slots := sparsePut s.table.slots n (.allocated c true) } } := by
  unfold State.rewrite; rw [if_pos h]

/-- A slot given back stands at the head of the free list. -/
theorem FreeList.give_toList (f : FreeList) (n : Nat) (h : n < 12288) : (f.give n).toList = n :: f.toList := by
  unfold FreeList.give
  split
  · rename_i h2
    obtain ⟨h3, h4⟩ := h2
    simp [FreeList.toList, h3, ← h4]
    have : Config.slotCount - n = (Config.slotCount - (n + 1)) + 1 := by simp [Config.slotCount]; omega
    rw [this, List.range'_succ]
  · simp [FreeList.toList]

/-- The slots of a list released one after another: each is FREE, every other slot stays, the bucket heads stay, and the
last one released heads the free list. -/
theorem foldl_releaseSlot_spec : ∀ (ms : List Nat) (s : State), sparseWf s.table.slots = true →
    (∀ m ∈ ms, m < 12288 ∧ s.slot m ≠ none) → ms.Nodup →
    (∀ m, (ms.foldl State.releaseSlot s).slot m = if m ∈ ms then none else s.slot m) ∧
    (ms.foldl State.releaseSlot s).table.heads = s.table.heads ∧
    (ms.foldl State.releaseSlot s).table.free.toList = ms.reverse ++ s.table.free.toList := by
  intro ms
  induction ms with
  | nil => intro s _ _ _; simp
  | cons a ms ih =>
    intro s hw hl hd
    rw [List.nodup_cons] at hd
    have hw' : sparseWf (s.releaseSlot a).table.slots = true := by
      rw [State.releaseSlot_slots]; exact sparseErase_wf _ _ hw
    obtain ⟨h1, h2, h3⟩ := ih (s.releaseSlot a) hw' (fun m hm => by
      refine ⟨(hl m (List.mem_cons_of_mem _ hm)).1, ?_⟩
      have hne : m ≠ a := fun e => hd.1 (e ▸ hm)
      have := (hl m (List.mem_cons_of_mem _ hm)).2
      rwa [State.slot, State.releaseSlot_slots, sparseGet_erase_other _ _ _ hw hne]) hd.2
    refine ⟨?_, ?_, ?_⟩
    · intro m
      simp only [List.foldl]; rw [h1]
      by_cases e : m = a
      · subst e; simp [State.slot, sparseGet_erase_self _ _ hw]
      · simp [e, State.slot, sparseGet_erase_other _ _ _ hw e]
    · simp only [List.foldl]; rw [h2, State.releaseSlot_heads]
    · simp only [List.foldl]
      rw [h3, State.releaseSlot_free, if_neg (fun e => (hl a (by simp)).2 ((s.kind_eq_free a).1 e)),
        FreeList.give_toList _ _ (hl a (by simp)).1]; simp

/-! ### A journey's extensions and its chain -/

/-- Reading extensions that all pass or are QUARANTINED answers them in order and changes nothing. -/
theorem readExtensions_eq (s : State) : ∀ es : List (Nat × Option Extension), (∀ x ∈ es, s.slot x.1 =
      match x.2 with
      | some l => some (.allocated (.extension l) true)
      | none => some .quarantined) → readExtensions (es.map (·.1)) s = (es, s) := by
  intro es
  induction es with
  | nil => intro _; rfl
  | cons a es ih =>
    intro h
    have ha := h a (by simp)
    have : s.readExtension a.1 = (a.2, s) := by
      obtain ⟨i, o⟩ := a
      cases o <;> simp at ha <;> simp [State.readExtension, State.readSlot, ha]
    simp only [List.map, readExtensions, this]
    rw [ih (fun x hx => h x (List.mem_cons_of_mem _ hx))]

/-- A bucket head reads back as it was set. -/
theorem State.bucketHead_setBucketHead (s : State) (b : Nat) (h : Option Nat) (hw : sparseWf s.table.heads = true) :
    (s.setBucketHead b h).bucketHead b = h := by
  cases h <;> simp [State.setBucketHead, State.bucketHead, sparseGet_erase_self _ _ hw]

/-- The head of a chain is unlinked by setting the bucket head to its next record. -/
theorem State.unlink_head {s : State} {n : Nat} {token : Token} (h : s.bucketHead (bucketOf token) = some n) :
    s.unlink n token = s.setBucketHead (bucketOf token) (s.nextOf n) := by
  unfold State.unlink; dsimp only; rw [h]; simp [chainUnlink, State.setChainLink]

/-- A settlement of a core changes the Journey Table, the accounts, the sweep, the notices, the fault record and the
counters at most. -/
theorem State.settleCore_frame (s : State) (n : Nat) (c : Core) (how : Closing) (f : Flags) (p : Predecessor) :
    JourneyFrame s (s.settleCore n c how f p).2 :=
  (journeyFrame_closed s).settleCore n c how f p (JourneyFrame.refl s)

end Sys2Proof.Machine
end

