-- ==== Sys2Proof/Laws/Chains.lean ====
section
/-! SUPPORT. What the walks of the bucket chains, of the orphan order and of the account chains do, said once each: over
records that are intact and not sought a walk changes nothing and goes on from where the last of them leads. -/

namespace Sys2Proof.Machine

variable {s : State}

/-- The slot of the last record listed. -/
abbrev lastSlot {α : Type} (xs : List (Nat × α)) : Option Nat := xs.getLast?.map (·.1)

theorem lastSlot_cons_or {α : Type} (x : Nat × α) (xs : List (Nat × α)) (prev : Option Nat) :
    (lastSlot xs).or (some x.1) = (lastSlot (x :: xs)).or prev := by
  cases xs with
  | nil => rfl
  | cons y ys => simp [lastSlot, List.getLast?_cons]

/-- An intact record is read as it is, and nothing changes. -/
theorem State.readSlot_of_intact {n : Nat} {c : Content} (h : s.slot n = some (.allocated c true)) :
    s.readSlot n = (some c, s) := by
  unfold State.readSlot; rw [h]

/-- A record on a chain has a link. -/
theorem Content.link_of_inBucket {c : Content} {next : Option Nat} (h : c.inBucket = some next) :
    ∃ token, c.link = some (token, next) := by
  unfold Content.inBucket at h
  cases e : c.link with
  | none => rw [e] at h; cases h
  | some l => rw [e] at h; cases h; exact ⟨l.1, rfl⟩

/-- A lookup passes over intact records of other tokens. -/
theorem chainLookup_passes (b k : Nat) (token : Token) (stop : Option Nat) :
    ∀ (before : List (Nat × Content)) (prev link : Option Nat), s.Leads Content.inBucket link before stop →
      (∀ x ∈ before, ∀ next, x.2.link ≠ some (token, next)) →
      chainLookup b token (before.length + k) prev link s = chainLookup b token k ((lastSlot before).or prev) stop s := by
  intro before
  induction before with
  | nil => intro prev link h _; cases h; simp [lastSlot]
  | cons x rest ih =>
    intro prev link h other
    obtain ⟨rfl, intact, next, hn, h⟩ := h
    obtain ⟨t, hl⟩ := Content.link_of_inBucket hn
    have ht : t ≠ token := fun e => other x (by simp) next (e ▸ hl)
    rw [show (x :: rest).length + k = (rest.length + k) + 1 by simp; omega]
    simp only [chainLookup, State.readSlot_of_intact intact, hl, if_neg ht]
    rw [ih (some x.1) next h (fun y hy => other y (List.mem_cons_of_mem _ hy)), lastSlot_cons_or x rest prev]

/-- A walk that unlinks a record passes over intact records. -/
theorem chainUnlink_passes (b target k : Nat) (stop : Option Nat) :
    ∀ (before : List (Nat × Content)) (prev link : Option Nat), s.Leads Content.inBucket link before stop →
      (∀ x ∈ before, x.1 ≠ target) →
      chainUnlink b target (before.length + k) prev link s = chainUnlink b target k ((lastSlot before).or prev) stop s := by
  intro before
  induction before with
  | nil => intro prev link h _; cases h; simp [lastSlot]
  | cons x rest ih =>
    intro prev link h other
    obtain ⟨rfl, intact, next, hn, h⟩ := h
    obtain ⟨t, hl⟩ := Content.link_of_inBucket hn
    rw [show (x :: rest).length + k = (rest.length + k) + 1 by simp; omega]
    simp only [chainUnlink, if_neg (other x (by simp)), State.readSlot_of_intact intact, hl]
    rw [ih (some x.1) next h (fun y hy => other y (List.mem_cons_of_mem _ hy)), lastSlot_cons_or x rest prev]

/-- A walk of the orphan order passes over intact orphans that are neither sought nor the tail. -/
theorem orderWalk_passes (target : Option Nat) (k : Nat) (stop : Option Nat) :
    ∀ (before : List (Nat × Content)) (prev link : Option Nat) (count : Nat),
      s.Leads Content.inOrder link before stop →
      (∀ x ∈ before, target ≠ some x.1 ∧ s.table.order.tail ≠ some x.1) →
      orderWalk target (before.length + k) prev count link s =
        orderWalk target k ((lastSlot before).or prev) (count + before.length) stop s := by
  intro before
  induction before with
  | nil => intro prev link count h _; cases h; simp [lastSlot]
  | cons x rest ih =>
    intro prev link count h other
    obtain ⟨rfl, intact, next, hn, h⟩ := h
    obtain ⟨o, ho⟩ : ∃ o, x.2 = .orphan o := by
      cases e : x.2 with
      | core c => rw [e] at hn; cases hn
      | extension c => rw [e] at hn; cases hn
      | orphan o => exact ⟨o, rfl⟩
    rw [ho] at intact hn
    cases hn
    rw [show (x :: rest).length + k = (rest.length + k) + 1 by simp; omega]
    simp only [orderWalk, if_neg (other x (by simp)).1, State.readSlot_of_intact intact, if_neg (other x (by simp)).2]
    rw [ih (some x.1) _ (count + 1) h (fun y hy => other y (List.mem_cons_of_mem _ hy)), lastSlot_cons_or x rest prev]
    congr 1; simp; omega

/-- A walk of an account chain passes over the accounts of other tokens. -/
theorem accountWalk_passes (c : CapTable) (token : Token) (k : Nat) (stop : Option Nat) :
    ∀ (before : List (Nat × Account)) (link : Option Nat), c.Leads link before stop →
      (∀ x ∈ before, x.2.token ≠ token) →
      accountWalk c token (before.length + k) link = accountWalk c token k stop := by
  intro before
  induction before with
  | nil => intro link h _; cases h; simp
  | cons x rest ih =>
    intro link h other
    obtain ⟨rfl, listed, h⟩ := h
    rw [show (x :: rest).length + k = (rest.length + k) + 1 by simp; omega]
    simp only [accountWalk, listed, if_neg (other x (by simp))]
    exact ih _ h (fun y hy => other y (List.mem_cons_of_mem _ hy))

/-! ### The links rewritten -/

@[simp] theorem Content.withNext_kind (c : Content) (next : Option Nat) : (c.withNext next).kind = c.kind := by
  cases c <;> rfl

/-- The next-in-bucket of an allocated slot rewritten: the slot is written whole, and nothing else changes. -/
theorem State.setNext_eq {m : Nat} {c : Content} {intact : Bool} (h : s.slot m = some (.allocated c intact))
    (next : Option Nat) : s.setNext m next =
      { s with table := { s.table with slots := sparsePut s.table.slots m (.allocated (c.withNext next) true) } } := by
  unfold State.setNext
  rw [h]
  exact State.rewrite_eq (by simp [State.kind, h, Slot.kind])

/-- The next-in-orphan-order of an orphan rewritten: the slot is written whole, and nothing else changes. -/
theorem State.setNextOrder_eq {m : Nat} {o : Orphan} {intact : Bool}
    (h : s.slot m = some (.allocated (.orphan o) intact)) (next : Option Nat) : s.setNextOrder m next =
      { s with table := { s.table with
        slots := sparsePut s.table.slots m (.allocated (.orphan { o with nextOrder := next }) true) } } := by
  unfold State.setNextOrder
  rw [h]
  exact State.rewrite_eq (by simp [State.kind, h, Slot.kind, Content.kind])

/-- The next-in-bucket of an allocated record as it stands. -/
theorem State.nextOf_eq {n : Nat} {c : Content} {intact : Bool} {token : Token} {next : Option Nat}
    (h : s.slot n = some (.allocated c intact)) (hl : c.link = some (token, next)) : s.nextOf n = next := by
  unfold State.nextOf; rw [h]; simp [hl]

/-- The last record of those that lead somewhere is intact. -/
theorem State.Leads.last {f : Content → Option (Option Nat)} {stop : Option Nat} :
    ∀ {xs : List (Nat × Content)} {link : Option Nat}, s.Leads f link xs stop →
      ∀ y, xs.getLast? = some y → s.slot y.1 = some (.allocated y.2 true) ∧ f y.2 = some stop := by
  intro xs
  induction xs with
  | nil => intro link _ y h; cases h
  | cons x rest ih =>
    intro link h y hy
    obtain ⟨_, intact, next, hn, h⟩ := h
    cases rest with
    | nil => cases hy; cases h; exact ⟨intact, hn⟩
    | cons z zs => exact ih h y (by simpa [List.getLast?_cons_cons] using hy)

/-- Every record of those that lead somewhere is intact. -/
theorem State.Leads.intact {f : Content → Option (Option Nat)} {stop : Option Nat} :
    ∀ {xs : List (Nat × Content)} {link : Option Nat}, s.Leads f link xs stop →
      ∀ x ∈ xs, s.slot x.1 = some (.allocated x.2 true) ∧ (f x.2).isSome = true := by
  intro xs
  induction xs with
  | nil => intro link _ x h; cases h
  | cons x rest ih =>
    intro link h y hy
    obtain ⟨_, intact, next, hn, h⟩ := h
    rcases List.mem_cons.1 hy with rfl | hy
    · exact ⟨intact, by rw [hn]; rfl⟩
    · exact ih h y hy

/-- A record sought by a walk is unlinked as from the record before it, wherever it lies on its chain. -/
theorem State.unlink_sought {n : Nat} {token : Token} {before : List (Nat × Content)}
    (h : s.Leads Content.inBucket (s.bucketHead (bucketOf token)) before (some n)) (len : before.length ≤ 12288)
    (other : ∀ x ∈ before, x.1 ≠ n) : s.unlink n token .sought = s.unlink n token (.known (lastSlot before)) := by
  unfold State.unlink
  dsimp only
  rw [show Config.slotCount + 1 = before.length + ((12288 - before.length) + 1) by simp [Config.slotCount]; omega,
    chainUnlink_passes _ _ _ _ _ none _ h other]
  simp [chainUnlink]

end Sys2Proof.Machine
end

