-- ==== Sys2Proof/Laws/Taps.lean ====
section
/-! SUPPORT. A card operation: each of its steps leaves less to do, so a tap handled to its end does not rest, and whatever
the basic updates of the two tables keep, any number of its steps keeps; and what a tap handled to its end comes to, step by
step. -/

namespace Sys2Proof.Machine

/-- The work that a list of steps leaves, by the bound of each. -/
def stepsLeft (steps : List CardStep) : Nat := (steps.map CardStep.most).sum

theorem Handling.most_eq (h : Handling) : h.most = stepsLeft h.steps := rfl

@[simp] theorem stepsLeft_nil : stepsLeft [] = 0 := rfl

@[simp] theorem stepsLeft_cons (x : CardStep) (xs : List CardStep) : stepsLeft (x :: xs) = x.most + stepsLeft xs := rfl

/-! ### What the outcome and the steps of a tap are after each update -/

section

variable (h : Handling)

@[simp] theorem Handling.answer_steps (v : VerdictKind) (r : Reason) : (h.answer v r).steps = h.steps := rfl
@[simp] theorem Handling.answer_context (v : VerdictKind) (r : Reason) : (h.answer v r).context = h.context := rfl
@[simp] theorem Handling.answer_entry (v : VerdictKind) (r : Reason) : (h.answer v r).entry = h.entry := rfl
@[simp] theorem Handling.push_steps (xs : List CardStep) : (h.push xs).steps = xs ++ h.steps := rfl
@[simp] theorem Handling.push_context (xs : List CardStep) : (h.push xs).context = h.context := rfl
@[simp] theorem Handling.push_entry (xs : List CardStep) : (h.push xs).entry = h.entry := rfl
@[simp] theorem Handling.push_outcome (xs : List CardStep) : (h.push xs).outcome = h.outcome := rfl
@[simp] theorem Handling.add_steps (r : JourneyRecord) : (h.add r).steps = h.steps := rfl
@[simp] theorem Handling.add_context (r : JourneyRecord) : (h.add r).context = h.context := rfl
@[simp] theorem Handling.add_entry (r : JourneyRecord) : (h.add r).entry = h.entry := rfl
@[simp] theorem Handling.settled_steps (x : Settled) (own : Bool) : (h.settled x own).steps = h.steps := by
  cases own <;> rfl
@[simp] theorem Handling.settled_context (x : Settled) (own : Bool) : (h.settled x own).context = h.context := by
  cases own <;> rfl
@[simp] theorem Handling.settled_entry (x : Settled) (own : Bool) : (h.settled x own).entry = h.entry := by
  cases own <;> rfl

end

/-! ### Each step leaves less to do -/

/-- What a lookup calls for is within its bound. -/
theorem State.afterLookup_left (s : State) (h : Handling) (found : Option Found) :
    stepsLeft (s.afterLookup h found).steps ≤ 10 + stepsLeft h.steps := by
  unfold State.afterLookup State.decideEarlierTapOut State.decideTapOut State.decideTapIn State.decideTapInCore
    State.decideExit
  dsimp only
  repeat' split
  all_goals (simp [dayClose, TapContext.ending, CardStep.most]; try omega)

/-- A step of a card operation, with what it calls for, leaves less to do than the step was bound by. -/
theorem State.cardStep_left (s : State) (h : Handling) (step : CardStep) :
    stepsLeft (s.cardStep h step).1.steps < stepsLeft h.steps + step.most := by
  cases step with
  | lookup => have := (s.lookup h.context.token).2.afterLookup_left h (s.lookup h.context.token).1
              simp only [State.cardStep, CardStep.most]; omega
  | openCore => unfold State.cardStep State.openCore; dsimp only; split <;> simp [CardStep.most]
  | holdLeg n c before =>
    unfold State.cardStep State.holdLeg; dsimp only
    split <;> simp [CardStep.most, TapContext.ending] <;> omega
  | makeRoom =>
    show stepsLeft (s.makeRoom h).1.steps < _
    unfold State.makeRoom
    repeat' split
    all_goals (simp [CardStep.most]; try omega)
  | storeOrphan =>
    unfold State.cardStep State.storeOrphan; dsimp only
    split <;> simp [CardStep.most] <;> omega
  | reckon q own =>
    unfold State.cardStep State.reckonStep; dsimp only
    split <;> simp [CardStep.most]; omega
  | closeJourney n c how extra own before => simp [State.cardStep, CardStep.most]; omega
  | closeOrphan n o before => simp [State.cardStep, CardStep.most]; omega
  | matchOrphan n o before =>
    unfold State.cardStep State.reckonStep; dsimp only
    split <;> simp [CardStep.most]; omega
  | charge r own => simp [State.cardStep, CardStep.most]
  | rewriteCore n c => simp [State.cardStep, CardStep.most]
  | joinOrder n => simp [State.cardStep, CardStep.most]

/-- As many steps as the work left leave none. -/
theorem runCard_ends (n : Nat) : ∀ (h : Handling) (s : State), h.most ≤ n → (runCard n h s).1.steps = [] := by
  induction n with
  | zero =>
    intro h s hn
    cases e : h.steps with
    | nil => simp [runCard, e]
    | cons x xs =>
      rw [Handling.most_eq, e] at hn
      cases x <;> simp [CardStep.most] at hn
  | succ n ih =>
    intro h s hn
    unfold runCard
    split
    · assumption
    · rename_i x xs e
      apply ih
      have := s.cardStep_left { h with steps := xs } x
      rw [Handling.most_eq, e, stepsLeft_cons] at hn
      rw [Handling.most_eq]
      simp only at this
      omega

/-- Any number of steps of a card operation keeps what the basic updates keep. -/
theorem JourneyClosed.runCard {P : State → Prop} (H : JourneyClosed P) (n : Nat) :
    ∀ (h : Handling) {s : State}, P s → P (runCard n h s).2 := by
  induction n with
  | zero => intro _ _ k; exact k
  | succ n ih =>
    intro h s k
    unfold Machine.runCard
    split
    · exact k
    · exact ih _ (H.cardStep _ _ k)

/-! ### A tap handled to its end -/

/-- More steps than the work left change nothing. -/
theorem runCard_more (n k : Nat) : ∀ (h : Handling) (s : State), (runCard n h s).1.steps = [] →
    runCard (n + k) h s = runCard n h s := by
  induction n with
  | zero =>
    intro h s e
    have e' : h.steps = [] := e
    cases k with
    | zero => rfl
    | succ k => simp [runCard, e']
  | succ n ih =>
    intro h s e
    rw [show n + 1 + k = (n + k) + 1 by omega]
    unfold runCard at e ⊢
    split
    · rfl
    · rename_i x xs hx
      rw [hx] at e
      exact ih _ _ e

/-- Any two numbers of steps that cover the work left come to the same. -/
theorem runCard_enough {n m : Nat} {h : Handling} {s : State} (hn : h.most ≤ n) (hm : h.most ≤ m) :
    runCard n h s = runCard m h s := by
  rcases Nat.le_total n m with c | c <;> obtain ⟨k, rfl⟩ := Nat.le.dest c
  · exact (runCard_more _ _ _ _ (runCard_ends _ _ _ hn)).symm
  · exact runCard_more _ _ _ _ (runCard_ends _ _ _ hm)

/-- Some steps and then some more are as many together. -/
theorem runCard_add (a b : Nat) : ∀ (h : Handling) (s : State),
    runCard (a + b) h s = runCard b (runCard a h s).1 (runCard a h s).2 := by
  induction a with
  | zero => intro h s; simp [runCard]
  | succ a ih =>
    intro h s
    rw [show a + 1 + b = (a + b) + 1 by omega]
    cases e : h.steps with
    | nil =>
      have none : ∀ n, runCard n h s = (h, s) := by intro n; cases n <;> simp [runCard, e]
      simp [none]
    | cons x xs => simp only [runCard, e]; exact ih _ _

/-- A tap in HANDLING handled to its end. -/
def cardToEnd (h : Handling) (s : State) : Handling × State := runCard h.most h s

theorem cardToEnd_ends (h : Handling) (s : State) : (cardToEnd h s).1.steps = [] := runCard_ends _ h s (Nat.le_refl _)

theorem handle_none (s : State) (h : Handling) :
    s.handle h none = (cardToEnd h s).2.finishTap (cardToEnd h s).1.entry (cardToEnd h s).1.outcome := by
  unfold State.handle
  exact if_pos (cardToEnd_ends h s)

section

variable (e : TapEntry) (x : TapContext) (rest : List CardStep) (o : TapOutcome) (s : State)

theorem cardToEnd_nil : cardToEnd ⟨e, x, [], o⟩ s = (⟨e, x, [], o⟩, s) := rfl

theorem cardToEnd_cons (step : CardStep) :
    cardToEnd ⟨e, x, step :: rest, o⟩ s =
      cardToEnd (s.cardStep ⟨e, x, rest, o⟩ step).1 (s.cardStep ⟨e, x, rest, o⟩ step).2 := by
  have h := s.cardStep_left ⟨e, x, rest, o⟩ step
  have hs : Handling.most ⟨e, x, step :: rest, o⟩ = step.most + stepsLeft rest := rfl
  have hr : ∀ n, runCard (n + 1) ⟨e, x, step :: rest, o⟩ s =
      runCard n (s.cardStep ⟨e, x, rest, o⟩ step).1 (s.cardStep ⟨e, x, rest, o⟩ step).2 := fun _ => rfl
  unfold cardToEnd
  rw [runCard_enough (m := step.most + stepsLeft rest + 1) (Nat.le_refl _) (by omega), hr]
  exact runCard_enough (by rw [Handling.most_eq]; simp only at h; omega) (Nat.le_refl _)

/-- A reckoning, with the charge it may call for, settles its request. -/
theorem cardToEnd_reckon (q : SettlementRequest) (own : Bool) :
    cardToEnd ⟨e, x, .reckon q own :: rest, o⟩ s =
      cardToEnd (Handling.settled ⟨e, x, rest, o⟩ (s.settle q).1 own) (s.settle q).2 := by
  rw [cardToEnd_cons]
  simp only [State.cardStep, State.reckonStep, State.settle]
  cases h : (s.reckon q).dailyCap with
  | none => simp [State.chargeRecord, h]
  | some cap => simp [Handling.push, cardToEnd_cons, State.cardStep]

/-- A journey closed is settled whole. -/
theorem cardToEnd_closeJourney (n : Nat) (c : Core) (how : Closing) (extra : Flags) (own : Bool)
    (p : Predecessor) :
    cardToEnd ⟨e, x, .closeJourney n c how extra own p :: rest, o⟩ s =
      cardToEnd (Handling.settled ⟨e, x, rest, o⟩ (s.settleCore n c how extra p).1 own)
        (s.settleCore n c how extra p).2 := by
  rw [cardToEnd_cons]
  exact cardToEnd_reckon _ _ _ _ _ _ _

/-- An orphan closed is settled whole. -/
theorem cardToEnd_closeOrphan (n : Nat) (a : Orphan) (p : Predecessor) :
    cardToEnd ⟨e, x, .closeOrphan n a p :: rest, o⟩ s =
      cardToEnd (Handling.add ⟨e, x, rest, o⟩ (s.settleOrphan n a {} p).1) (s.settleOrphan n a {} p).2 := by
  rw [cardToEnd_cons]
  exact cardToEnd_reckon _ _ _ _ _ _ _

/-- An orphan matched is released, and the trip settled. -/
theorem cardToEnd_matchOrphan (n : Nat) (a : Orphan) (p : Predecessor) :
    cardToEnd ⟨e, x, .matchOrphan n a p :: rest, o⟩ s =
      let t := s.releaseOrphan n a.token p
      cardToEnd (Handling.settled ⟨e, x, rest, o⟩ (t.settle (t.matchRequest x a)).1 true)
        (t.settle (t.matchRequest x a)).2 := by
  dsimp only
  rw [← cardToEnd_reckon, cardToEnd_cons, cardToEnd_cons]
  rfl

/-- A tap-in that opens its journey last ends with it opened, or untracked. -/
theorem cardToEnd_openCore : cardToEnd ⟨e, x, [.openCore], o⟩ s = s.openCore ⟨e, x, [], o⟩ := by
  rw [cardToEnd_cons]
  simp only [State.cardStep, State.openCore]
  split <;> rfl

end

/-- A tap of the current day, or of a later one, as checked. -/
theorem State.checkedTap_today {s : State} {e : TapEntry} (h : s.today ≤ e.tap.day) :
    (s.checkedTap e).token = e.tap.token ∧ (s.checkedTap e).station = e.tap.station ∧
      (s.checkedTap e).gate = e.tap.gate ∧ (s.checkedTap e).day = s.today ∧
      (s.checkedTap e).dayType = s.clock.dayType ∧ (s.checkedTap e).stamp = e.stamp ∧
      (s.checkedTap e).earlier = false ∧ (s.checkedTap e).offline = (e.tap.gateDecided == 1) := by
  unfold State.checkedTap
  rw [if_neg (by omega)]
  refine ⟨rfl, rfl, rfl, ?_, rfl, rfl, ?_, rfl⟩
  · simp only [State.tapContext, State.clampTap]
    split
    · rfl
    · split <;> simp only <;> omega
  · simp only [State.tapContext, decide_eq_false_iff_not]
    omega

/-- A tap that makes a card operation, handled to its end: its lookup, and what that calls for. -/
theorem State.Takes.tapTake {s : State} {e : TapEntry} {rest : List TapEntry} (h : s.Takes e rest)
    (hd : e.tap.direction = 1 ∨ (s.today ≤ e.tap.day ∧ (e.tap.token ∈ s.deny → e.tap.gateDecided = 1))) :
    exec (.tapTake none) s =
      .next (let l := (s.tapTaken rest).lookup e.tap.token
        let r := cardToEnd (l.2.afterLookup ⟨e, s.checkedTap e, [], plainOutcome .allow .none []⟩ l.1) l.2
        r.2.finishTap r.1.entry r.1.outcome) := by
  obtain ⟨a, b, c, d, f⟩ := h
  have hb : (s.tapTaken rest).beginHandling e = ⟨e, s.checkedTap e, [.lookup], plainOutcome .allow .none []⟩ := by
    have hx : (s.tapTaken rest).checkedTap e = s.checkedTap e := rfl
    unfold State.beginHandling
    rw [hx]
    rcases hd with hd | ⟨h1, h2⟩
    · simp [hd, Handling.push]
    · obtain ⟨-, -, -, -, -, -, k1, k2⟩ := State.checkedTap_today h1
      have k3 : (s.checkedTap e).denied = true → e.tap.gateDecided = 1 := by
        unfold State.checkedTap
        rw [if_neg (by omega)]
        simpa [State.tapContext] using h2
      by_cases k : (s.checkedTap e).denied = true
      · simp [k1, k2, k3 k, k, Handling.push]
      · simp [k1, k, Handling.push]
  have ht : (s.checkedTap e).token = e.tap.token := by unfold State.checkedTap; split <;> rfl
  have hm : (s.tapTaken rest).mode = .service := c
  simp only [exec, execTapTake, a, b, d, State.takeTap, f, hm, hb, handle_none, cardToEnd_cons, State.cardStep, ht]
  rfl

end Sys2Proof.Machine
end

