-- ==== Sys2Proof/Laws/Unit.lean ====
section
/-! SUPPORT. What the Journey Unit stands at plays no part in a step of a card operation: each operation of the Journey
Table, and with them any number of steps, does the same wherever the unit stands. -/

namespace Sys2Proof.Machine

/-- The state with the Journey Unit standing elsewhere. -/
def State.withUnit (s : State) (u : UnitState) : State := { s with unit := u }

section
variable (s : State) (u : UnitState)

theorem State.withUnit_readSlot (n : Nat) :
    (s.withUnit u).readSlot n = ((s.readSlot n).1, (s.readSlot n).2.withUnit u) := by
  unfold State.readSlot
  rw [show (s.withUnit u).slot n = s.slot n from rfl]
  split <;> rfl

theorem State.withUnit_rewrite (n : Nat) (c : Content) : (s.withUnit u).rewrite n c = (s.rewrite n c).withUnit u := by
  unfold State.rewrite
  rw [show (s.withUnit u).kind n = s.kind n from rfl]
  split <;> rfl

theorem State.withUnit_setNext (n : Nat) (x : Option Nat) :
    (s.withUnit u).setNext n x = (s.setNext n x).withUnit u := by
  unfold State.setNext
  rw [show (s.withUnit u).slot n = s.slot n from rfl]
  split
  · exact s.withUnit_rewrite u _ _
  · rfl

theorem State.withUnit_setChainLink (b : Nat) (p x : Option Nat) :
    (s.withUnit u).setChainLink b p x = (s.setChainLink b p x).withUnit u := by
  cases p with
  | none => rfl
  | some p => exact s.withUnit_setNext u p x

theorem withUnit_chainLookup (b : Nat) (token : Token) (fuel : Nat) : ∀ (p x : Option Nat) (s : State),
    chainLookup b token fuel p x (s.withUnit u) =
      ((chainLookup b token fuel p x s).1, (chainLookup b token fuel p x s).2.withUnit u) := by
  induction fuel with
  | zero => intro p x s; rfl
  | succ k ih =>
    intro p x s
    cases x with
    | none => rfl
    | some n =>
      unfold chainLookup
      rw [s.withUnit_readSlot]
      cases s.readSlot n with
      | mk c t =>
        cases c with
        | none => simp [State.withUnit_setChainLink]
        | some c =>
          dsimp only
          cases c.link with
          | none => simp [State.withUnit_setChainLink]
          | some l => dsimp only; split <;> simp [ih]

theorem State.withUnit_lookup (token : Token) :
    (s.withUnit u).lookup token = ((s.lookup token).1, (s.lookup token).2.withUnit u) :=
  withUnit_chainLookup u _ _ _ _ _ _

theorem withUnit_chainUnlink (b target : Nat) (fuel : Nat) : ∀ (p x : Option Nat) (s : State),
    chainUnlink b target fuel p x (s.withUnit u) = (chainUnlink b target fuel p x s).withUnit u := by
  induction fuel with
  | zero => intro p x s; rfl
  | succ k ih =>
    intro p x s
    cases x with
    | none => rfl
    | some n =>
      unfold chainUnlink
      rw [s.withUnit_readSlot, show (s.withUnit u).nextOf target = s.nextOf target from rfl]
      split
      · exact s.withUnit_setChainLink u _ _ _
      · cases s.readSlot n with
        | mk c t =>
          cases c with
          | none => simp [State.withUnit_setChainLink]
          | some c =>
            dsimp only
            cases c.link with
            | none => simp [State.withUnit_setChainLink]
            | some l => dsimp only; exact ih _ _ _

theorem State.withUnit_unlink (n : Nat) (token : Token) (p : Predecessor) :
    (s.withUnit u).unlink n token p = (s.unlink n token p).withUnit u := by
  cases p with
  | known p => exact s.withUnit_setChainLink u _ _ _
  | sought => exact withUnit_chainUnlink u _ _ _ _ _ _

theorem State.withUnit_setNextOrder (n : Nat) (x : Option Nat) :
    (s.withUnit u).setNextOrder n x = (s.setNextOrder n x).withUnit u := by
  unfold State.setNextOrder
  rw [show (s.withUnit u).slot n = s.slot n from rfl]
  split
  · exact s.withUnit_rewrite u _ _
  · rfl

theorem State.withUnit_cutOrder (p : Option Nat) (k : Nat) :
    (s.withUnit u).cutOrder p k = (s.cutOrder p k).withUnit u := by
  cases p with
  | none => rfl
  | some p =>
    show ((s.withUnit u).setNextOrder p none).setOrder _ = _
    rw [s.withUnit_setNextOrder]; rfl

theorem withUnit_orderWalk (target : Option Nat) (fuel : Nat) : ∀ (p : Option Nat) (k : Nat) (x : Option Nat) (s :
    State),
    orderWalk target fuel p k x (s.withUnit u) =
      ((orderWalk target fuel p k x s).1, (orderWalk target fuel p k x s).2.1,
        (orderWalk target fuel p k x s).2.2.withUnit u) := by
  induction fuel with
  | zero => intro p k x s; rfl
  | succ m ih =>
    intro p k x s
    cases x with
    | none => rfl
    | some n =>
      unfold orderWalk
      rw [s.withUnit_readSlot]
      split
      · rfl
      · rcases s.readSlot n with ⟨_ | (c | e | o), t⟩
        · simp [State.withUnit_cutOrder]
        · simp [State.withUnit_cutOrder]
        · simp [State.withUnit_cutOrder]
        · dsimp only
          rw [show (t.withUnit u).table = t.table from rfl]
          split
          · rfl
          · exact ih _ _ _ _

theorem State.withUnit_walkOrder (x : Option Nat) :
    (s.withUnit u).walkOrder x = ((s.walkOrder x).1, (s.walkOrder x).2.1, (s.walkOrder x).2.2.withUnit u) :=
  withUnit_orderWalk u _ _ _ _ _ _

theorem State.withUnit_removeFromOrder (n : Nat) :
    (s.withUnit u).removeFromOrder n = (s.removeFromOrder n).withUnit u := by
  unfold State.removeFromOrder
  rw [s.withUnit_walkOrder]
  rcases s.walkOrder (some n) with ⟨_ | _, _ | p, t⟩
  · rfl
  · rfl
  · rfl
  · dsimp only
    rw [show (t.withUnit u).nextOrderOf n = t.nextOrderOf n from rfl, t.withUnit_setNextOrder]; rfl

theorem State.withUnit_linkAtTail (n : Nat) (x : Option Nat) :
    (s.withUnit u).linkAtTail n x = (s.linkAtTail n x).withUnit u := by
  cases x with
  | none => rfl
  | some t =>
    unfold State.linkAtTail; dsimp only
    rw [s.withUnit_setNextOrder]; rfl

theorem State.withUnit_appendToOrder (n : Nat) : (s.withUnit u).appendToOrder n = (s.appendToOrder n).withUnit u := by
  unfold State.appendToOrder
  rw [show (s.withUnit u).table = s.table from rfl]
  split
  · exact s.withUnit_linkAtTail u _ _
  · rename_i t _
    rw [s.withUnit_readSlot]
    rcases s.readSlot t with ⟨_ | (c | e | o), v⟩
    · simp [State.withUnit_walkOrder, State.withUnit_linkAtTail]; rfl
    · simp [State.withUnit_walkOrder, State.withUnit_linkAtTail]; rfl
    · simp [State.withUnit_walkOrder, State.withUnit_linkAtTail]; rfl
    · exact v.withUnit_linkAtTail u _ _

theorem State.withUnit_startSequence : (s.withUnit u).startSequence = s.startSequence.withUnit u := by
  unfold State.startSequence
  rw [show (s.withUnit u).mode = s.mode from rfl, show (s.withUnit u).sweep = s.sweep from rfl]
  repeat' split
  all_goals rfl

theorem State.withUnit_judgeShortage : (s.withUnit u).judgeShortage = s.judgeShortage.withUnit u := by
  unfold State.judgeShortage
  rw [show (s.withUnit u).table = s.table from rfl, show (s.withUnit u).settings = s.settings from rfl]
  split
  · exact State.withUnit_startSequence
      ({ s with table := { s.table with shortage := true } }.raise (.shortage s.table.counts.free)) u
  · rfl

theorem State.withUnit_judgeCleared : (s.withUnit u).judgeCleared = s.judgeCleared.withUnit u := by
  unfold State.judgeCleared
  rw [show (s.withUnit u).table = s.table from rfl, show (s.withUnit u).settings = s.settings from rfl]
  split <;> rfl

theorem State.withUnit_allocate (c : Content) :
    (s.withUnit u).allocate c = ((s.allocate c).1, (s.allocate c).2.withUnit u) := by
  unfold State.allocate
  rw [show (s.withUnit u).table = s.table from rfl]
  split
  · rfl
  · rename_i n f _
    exact Prod.ext rfl (State.withUnit_judgeShortage
      { s with table := { s.table with
        free := f
        slots := sparsePut s.table.slots n (.allocated c true)
        counts := s.table.counts.move .free c.kind } } u)

theorem State.withUnit_allocateLinked (token : Token) (c : Content) :
    (s.withUnit u).allocateLinked token c = ((s.allocateLinked token c).1, (s.allocateLinked token c).2.withUnit u) := by
  unfold State.allocateLinked
  dsimp only
  rw [show (s.withUnit u).bucketHead (bucketOf token) = s.bucketHead (bucketOf token) from rfl, s.withUnit_allocate]
  rcases s.allocate _ with ⟨_ | n, t⟩ <;> rfl

theorem State.withUnit_releaseSlot (n : Nat) : (s.withUnit u).releaseSlot n = (s.releaseSlot n).withUnit u := by
  unfold State.releaseSlot
  rw [show (s.withUnit u).kind n = s.kind n from rfl]
  split
  · rfl
  · exact State.withUnit_judgeCleared
      { s with table := { s.table with
        slots := sparseErase s.table.slots n
        free := s.table.free.give n
        counts := s.table.counts.move (s.kind n) .free } } u

theorem withUnit_foldl_releaseSlot (ns : List Nat) : ∀ s : State,
    ns.foldl State.releaseSlot (s.withUnit u) = (ns.foldl State.releaseSlot s).withUnit u := by
  induction ns with
  | nil => intro s; rfl
  | cons n ns ih => intro s; simp only [List.foldl_cons, State.withUnit_releaseSlot, ih]

theorem State.withUnit_releaseOrphan (n : Nat) (token : Token) (p : Predecessor) :
    (s.withUnit u).releaseOrphan n token p = (s.releaseOrphan n token p).withUnit u := by
  simp only [State.releaseOrphan, State.withUnit_unlink, State.withUnit_removeFromOrder, State.withUnit_releaseSlot]

theorem withUnit_readExtensions (ns : List Nat) : ∀ s : State,
    readExtensions ns (s.withUnit u) = ((readExtensions ns s).1, (readExtensions ns s).2.withUnit u) := by
  induction ns with
  | nil => intro s; rfl
  | cons n ns ih =>
    intro s
    simp only [readExtensions, State.readExtension, State.withUnit_readSlot]
    rcases s.readSlot n with ⟨_ | (c | e | o), t⟩ <;> simp [ih]

theorem State.withUnit_closeJourney (n : Nat) (c : Core) (how : Closing) (f : Flags) (p : Predecessor) :
    (s.withUnit u).closeJourney n c how f p = ((s.closeJourney n c how f p).1, (s.closeJourney n c how f p).2.withUnit u) := by
  simp only [State.closeJourney, withUnit_readExtensions, State.releaseJourney, State.withUnit_unlink, State.withUnit_releaseSlot,
    withUnit_foldl_releaseSlot]

theorem State.withUnit_charge (token : Token) (day cap fare : Nat) :
    (s.withUnit u).charge token day cap fare = ((s.charge token day cap fare).1, (s.charge token day cap fare).2.withUnit u) := by
  unfold State.charge
  rw [show (s.withUnit u).today = s.today from rfl, show (s.withUnit u).cap = s.cap from rfl]
  split
  · rfl
  · split
    · rfl
    · split <;> rfl

theorem State.withUnit_chargeRecord (r : Reckoned) :
    (s.withUnit u).chargeRecord r = ((s.chargeRecord r).1, (s.chargeRecord r).2.withUnit u) := by
  unfold State.chargeRecord
  split
  · rfl
  · rw [s.withUnit_charge]
    rcases s.charge _ _ _ _ with ⟨_ | _ | _, t⟩ <;> rfl

/-- A step of a card operation does the same wherever the unit stands. -/
theorem State.withUnit_cardStep (h : Handling) (x : CardStep) :
    (s.withUnit u).cardStep h x = ((s.cardStep h x).1, (s.cardStep h x).2.withUnit u) := by
  cases x with
  | lookup => simp only [State.cardStep, State.withUnit_lookup]; rfl
  | closeJourney n c how extra own before => simp only [State.cardStep, State.withUnit_closeJourney]
  | closeOrphan n o before => simp only [State.cardStep, State.withUnit_releaseOrphan]
  | matchOrphan n o before => simp only [State.cardStep, State.withUnit_releaseOrphan]; rfl
  | reckon q own => rfl
  | charge r own => simp only [State.cardStep, State.withUnit_chargeRecord]
  | openCore =>
    simp only [State.cardStep, State.openCore, State.withUnit_allocateLinked]
    rcases s.allocateLinked h.context.token (.core h.context.core) with ⟨_ | n, t⟩ <;> rfl
  | holdLeg n c before =>
    simp only [State.cardStep, State.holdLeg, State.withUnit_allocate, show (s.withUnit u).tariff = s.tariff from rfl]
    rcases s.allocate _ with ⟨_ | n, t⟩ <;> rfl
  | rewriteCore n c => simp only [State.cardStep, State.withUnit_rewrite]
  | makeRoom =>
    simp only [State.cardStep, State.makeRoom, show (s.withUnit u).table = s.table from rfl]
    split
    · rfl
    · cases s.table.order.head with
      | none => rfl
      | some n =>
        dsimp only
        rw [s.withUnit_readSlot]
        rcases s.readSlot n with ⟨_ | (c | e | o), t⟩ <;> simp [State.withUnit_cutOrder]
  | storeOrphan =>
    simp only [State.cardStep, State.storeOrphan, State.withUnit_allocateLinked]
    rcases s.allocateLinked h.context.token (.orphan h.context.orphan) with ⟨_ | n, t⟩ <;> rfl
  | joinOrder n => simp only [State.cardStep, State.withUnit_appendToOrder]

/-- Any number of steps of a card operation does the same wherever the unit stands. -/
theorem withUnit_runCard (n : Nat) : ∀ (h : Handling) (s : State),
    runCard n h (s.withUnit u) = ((runCard n h s).1, (runCard n h s).2.withUnit u) := by
  induction n with
  | zero => intro h s; rfl
  | succ n ih =>
    intro h s
    unfold runCard
    split
    · rfl
    · rw [s.withUnit_cardStep]; exact ih _ _

end

theorem withUnit_appendWhileRoom (u : UnitState) (rs : List JourneyRecord) : ∀ s : State,
    appendWhileRoom rs (s.withUnit u) = ((appendWhileRoom rs s).1, (appendWhileRoom rs s).2.withUnit u) := by
  induction rs with
  | nil => intro s; rfl
  | cons r rs ih =>
    intro s
    unfold appendWhileRoom
    rw [show (s.withUnit u).recordRoom = s.recordRoom from rfl]
    split
    · exact ih (s.appendRecord r)
    · rfl

/-- The end of a tap's handling sets where the unit stands. -/
theorem State.withUnit_finishTap (s : State) (u : UnitState) (e : TapEntry) (o : TapOutcome) :
    (s.withUnit u).finishTap e o = s.finishTap e o := by
  have offer : ∀ v, (s.withUnit u).offerVerdict e.stamp v = (s.offerVerdict e.stamp v).withUnit u := by
    intro v
    unfold State.offerVerdict
    rw [show (s.withUnit u).clock = s.clock from rfl, show (s.withUnit u).settings = s.settings from rfl,
      show (s.withUnit u).verdicts = s.verdicts from rfl]
    split <;> rfl
  unfold State.finishTap
  rw [offer]
  split <;> (dsimp only; rw [withUnit_appendWhileRoom]; rfl)

/-- A tap that rests after some of its steps and goes on comes to what it would have come to without a rest. -/
theorem State.handle_resume (s : State) (h : Handling) (k : Nat) (j : Option Nat) :
    State.handle { (runCard k h s).2 with unit := .handling (runCard k h s).1 } (runCard k h s).1 j =
      s.handle h (j.map (k + ·)) := by
  have key : ∀ n m, runCard n h s = runCard m (runCard k h s).1 (runCard k h s).2 →
      (let q := runCard m (runCard k h s).1 ((runCard k h s).2.withUnit (.handling (runCard k h s).1))
        if q.1.steps = [] then q.2.finishTap q.1.entry q.1.outcome else { q.2 with unit := .handling q.1 }) =
      (let r := runCard n h s
        if r.1.steps = [] then r.2.finishTap r.1.entry r.1.outcome else { r.2 with unit := .handling r.1 }) := by
    intro n m e
    rw [withUnit_runCard, e]
    dsimp only
    rw [State.withUnit_finishTap]
    split <;> rfl
  cases j with
  | some j => exact key _ _ (runCard_add k j h s)
  | none =>
    refine key _ _ ?_
    show runCard h.most h s = _
    rw [runCard_enough (m := k + (h.most + (runCard k h s).1.most)) (Nat.le_refl _) (by omega), runCard_add]
    exact runCard_enough (by omega) (Nat.le_refl _)

/-- A tap that is finished is not in HANDLING. -/
theorem State.finishTap_unit (s : State) (e : TapEntry) (o : TapOutcome) (h : Handling) :
    (s.finishTap e o).unit ≠ .handling h := by
  intro k
  have : (s.finishTap e o).unit = .idle ∨ ∃ rs, (s.finishTap e o).unit = .appending rs := by
    unfold State.finishTap
    dsimp only
    split <;> split <;> first | exact .inl rfl | exact .inr ⟨_, rfl⟩
  rcases this with c | ⟨rs, c⟩ <;> rw [k] at c <;> cases c

end Sys2Proof.Machine
end

