-- ==== Sys2Proof/WellFormed.lean ====
section
/-! DEFINITION. Which commands are well formed: every operand fits the field that carries it (spec/08 R160), and the
operands that must agree with one another do. Nothing refuses an ill-formed command: the meanings are total. -/

namespace Sys2Proof

/-- The values of a setting group fit their fields (R160, settings layout); `other` is a group byte that names no
group. -/
def SettingValues.wf : SettingValues → Bool
  | .link n p => n < 256 && p < 256
  | .timing s b v f => s < 65536 && b < 256 && v < 256 && f < 65536
  | .journey m p b o l => m < 65536 && p < 65536 && b < 256 && o < 256 && l < 65536
  | .other g => g < 256 && g != 1 && g != 2 && g != 3

/-- The count of a request agrees with the items it carries, where the count is 1 to 8 (R33, R44, R45). -/
def countAgrees (count items size : Nat) : Bool :=
  count < 256 && (count == 0 || count > 8 || items == count * size)

/-- Every operand of the command fits its field. -/
def Instr.wf : Instr → Bool
  | .powerOn => true
  | .fullReset src => src < 256
  | .warmReset src => src < 256
  | .settingWrite src v => src < 256 && v.wf
  | .settingRead src g => src < 256 && g < 256
  | .tableSeek src t i => src < 256 && t < 256 && i < 65536
  | .tableWrite src c es => src < 256 && c < 256 && es.length ≤ 238
  | .tableRead src c b => src < 256 && c < 256 && b.getD 0 < 256
  | .tariffCheck src => src < 256
  | .tariffCommit src => src < 256
  | .tariffCopy src => src < 256
  | .tariffCopyCompletion => true
  | .denyAdd src c ts => src < 256 && countAgrees c ts.length 1
  | .denyRemove src c ts => src < 256 && countAgrees c ts.length 1
  | .serviceStart src => src < 256
  | .serviceStop src => src < 256
  | .dayChange src d t => src < 256 && d < 65536 && t < 256
  | .journeyQuery src _ => src < 256
  | .poolAudit src => src < 256
  | .auditChainWalk _ => true
  | .auditSlotExamination => true
  | .auditSlotTest _ => true
  | .auditOrderRebuild _ => true
  | .poolAuditCompletion => true
  | .statusRead src _ => src < 256
  | .responseQueueJoin _ => true
  | .tapTake _ => true
  | .recordAppend => true
  | .sweepTimerExpiry => true
  | .agePassExamination => true
  | .forcedPassExamination => true
  | .dayChangeWalkExamination => true
  | .dayChangeCompletion => true
  | .walkRecordAppend => true
  | .serviceTimeTick ds => ds.all (· < Config.slotCount)
  | .clockHold => true
  | .beacon d t => d < 65536 && t < 16777216
  | .beaconWatchdogExpiry => true
  | .frameStart _ => true
  | .frameEnd _ => true
  | .abort _ => true
  | .lineError _ _ => true
  | .pause _ => true
  | .resume _ => true
  | .pauseLimitExpiry _ => true
  | .statusEntryJoin _ => true
  | .switchEntry _ => true
  | .frameDelivery _ _ => true
  | .egressGrant _ => true
  | .dataByte _ _ => true
  | .endSent _ => true
  | .copyEntry => true
  | .malformedRequest src p => src < 256 && p.length ≤ Config.maxPayload
  | .engineReset src k => src < 256 && k < 256 && k != 1 && k != 2

end Sys2Proof
end

