-- ==== Sys2Proof/Tests/Slice0.lean ====
section
/-! SUPPORT. Tests of the model: the worked cases of spec/ with the figures it gives, a smoke test of every
well-formedness check, and for each statement with hypotheses a concrete state and operands that meet them. -/

namespace Sys2Proof.Tests

open Sys2Proof.Machine

/-! ### States for the tests -/

/-- The state a command leaves. -/
def after (c : Instr) (s : State) : State :=
  match exec c s with
  | .next t => t
  | _ => s

/-- The tariff of the example line (spec/00_scope.md, The example line). -/
def line : Bank where
  stations := ⟨[⟨true, 0, false⟩, ⟨true, 2350, false⟩, ⟨true, 6100, true⟩, ⟨true, 9875, false⟩, ⟨true, 17840, false⟩,
    ⟨true, 24410, true⟩, ⟨true, 31005, false⟩, ⟨true, 38620, false⟩] ++ List.replicate 56 {}, 8⟩
  fareBands := ⟨[⟨50, 40⟩, ⟨150, 25⟩, ⟨400, 15⟩] ++ List.replicate 13 {}, 3⟩
  timeBands := ⟨[⟨true, 0, 100⟩, ⟨true, 240, 130⟩, ⟨true, 420, 100⟩, ⟨true, 780, 130⟩, ⟨true, 960, 100⟩, {},
    ⟨true, 0, 100⟩, {}, {}, {}, {}, {}, ⟨true, 0, 100⟩, {}, {}, {}, {}, {}], 13⟩
  classes := ⟨[⟨true, 100, 1, 1200⟩, {}, {}, ⟨true, 50, 5, 900⟩, {}, {}, {}, ⟨true, 50, 5, 600⟩, {}, ⟨true, 0, 1, 0⟩] ++
    List.replicate 6 {}, 10⟩
  constants := ⟨[⟨1200, 1500, 200, 30, 20⟩], 1⟩

/-- Day 412, a WORKDAY, in SERVICE on the example line, at a service time. -/
def day412 (time : Nat) : State :=
  { State.reset with
    mode := .service, clock := ⟨some 412, .workday, time, false⟩, watchdog := some 300
    tariff := { TariffStore.empty with bankA := line, bankB := line }
    sweep := { SweepUnit.stopped with timer := some 600 } }

/-- The same day in MAINTENANCE. -/
def stopped412 (time : Nat) : State :=
  { day412 time with mode := .maintenance, watchdog := none, sweep := SweepUnit.stopped }

/-- Cards A, B and Z of the worked cases. -/
def cardA : Token := 0x04A1C3F29B7E10
/-- Card B. -/
def cardB : Token := 0x0B77D200E41F3C
/-- Card Z. -/
def cardZ : Token := 0x04A1D3F39B7E10

/-- A live tap of day 412; direction 0 is in and 1 is out. -/
def tap (token : Token) (cls station direction time : Nat) : Tap := ⟨token, cls, station, 3, direction, 412, time, 0⟩

/-- The day at the time of a tap that has just arrived and waits. -/
def tapped (s : State) (t : Tap) : State := { s with clock := { s.clock with time := t.time }, taps := [⟨t, t.time⟩] }

/-- An OPEN core of day 412. -/
def openCore (token : Token) (station time : Nat) : Core :=
  { token := token, cls := 0, day := 412, dayType := .workday, state := .opened, entryStation := station
    entryTime := time, firstEntryTime := time, entryGate := 3, extensions := [], flags := {}, next := none }

/-- An orphan of day 412. -/
def orphan (token : Token) (station time : Nat) : Orphan :=
  { token := token, cls := 0, day := 412, exitStation := station, exitGate := 3, exitTime := time, arrival := time
    flags := {}, next := none, nextOrder := none }

/-- A table with slots and bucket heads given, the free list going on at slot `fresh`. -/
def withSlots (s : State) (slots : List (Nat × Slot)) (heads : List (Nat × Nat)) (fresh : Nat) : State :=
  let count := fun (k : Kind) => (slots.filter fun x => decide (x.2.kind = k)).length
  { s with table := { s.table with
      slots := slots, heads := heads, free := ⟨[], fresh⟩
      counts := ⟨Config.slotCount - slots.length, count .quarantined, count .core, count .extension, count .orphan⟩ } }

/-- Card A inside since 08:10 at station 4, in slot 0. -/
def inside (time : Nat) : State :=
  withSlots (day412 time) [(0, .allocated (.core (openCore cardA 4 186000)) true)] [(3661, 0)] 1

/-! ### The worked cases of spec/ -/

/-- spec/03, folding three tokens; spec/06, account buckets of five cards. -/
theorem test_buckets :
    [cardA, 0x04A1C3F29B6E11, cardZ].map bucketOf = [3661, 3661, 3661] ∧
    ([cardA, cardB, 0x7F12D08C4A9E55, 0x5E23A70B91C4F6, 0x2D6B0E5A13C7F8] : List Token).map accountBucketOf =
      [1613, 1035, 802, 133, 1539] := by decide

/-- spec/01, distance fares on the example line. -/
theorem test_distance_fares : [30, 155, 387, 287, 651].map (distanceFare line) = [2400, 5775, 9255, 7755, 13215] := by
  decide

/-- spec/01, the start of the morning peak. -/
theorem test_peak :
    (staged line .workday (143999 / 600) 387 ⟨true, 100, 1, 1200⟩).2 = 925 ∧
    (staged line .workday (144000 / 600) 387 ⟨true, 100, 1, 1200⟩).2 = 1203 := by decide

/-- spec/01, one journey and four classes. -/
theorem test_classes :
    ([0, 3, 7, 9].map fun c => classFare (classLookup line c).entry 7508) = [750, 375, 375, 0] ∧
    ([0, 3, 7, 9].map fun c => classFare (classLookup line c).entry 5775) = [577, 285, 285, 0] ∧
    (classLookup line 12).cls = 0 ∧ (classLookup line 12).substituted = true := by decide

/-- spec/01, the penalty fare and unmatched exits at station 5. -/
theorem test_special_fares :
    penaltyFare line (classLookup line 0).entry = 1500 ∧ penaltyFare line (classLookup line 3).entry = 750 ∧
    ((day412 0).reckon ⟨cardA, 0, 412, {}, .unmatched 5 300000⟩).record.charged = 657 ∧
    ((day412 0).reckon ⟨cardA, 0, 412, {}, .unmatched 5 522000⟩).record.charged = 854 := by decide

/-- The example line passes the tariff check (spec/00_scope.md, spec/02 R36); an empty bank fails its second check. -/
theorem test_tariff_check : line.firstFailure = none ∧ Bank.empty.firstFailure = some ⟨1, 0, 2⟩ := by decide +kernel

/-- spec/04, the same gate twice: the first tap-in opens a journey, the second is refused, the third settles it. -/
theorem test_tap_in :
    ((after (.tapTake none) (tapped (day412 0) (tap cardA 0 4 0 186000))).slot 0 =
      some (.allocated (.core (openCore cardA 4 186000)) true)) ∧
    ((after (.tapTake none) (tapped (inside 0) (tap cardA 0 4 0 186600))).records.map fun r => r.kind) = [.refusal] ∧
    ((after (.tapTake none) (tapped (inside 0) (tap cardA 0 4 0 187800))).records.map fun r => (r.kind, r.charged)) =
      [(.incomplete, 1500)] ∧
    ((after (.tapTake none) (tapped (inside 0) (tap cardA 0 4 0 187800))).verdicts.map fun v => (v.kind, v.reason)) =
      [(.allowNote, .previousSettled)] := by decide +kernel

/-- Card A's account of the case at station 4: 1,100 of 1,200 cents. -/
def spent1100 (s : State) : State :=
  { s with cap := ⟨[(0, ⟨cardA, 412, 1200, 1100, 2, none⟩)], [(1613, ⟨412, 0⟩)], 1⟩ }

/-- spec/01, same-station exits at station 4. -/
theorem test_same_station :
    ((after (.tapTake none) (tapped (spent1100 (inside 0)) (tap cardA 0 4 1 198000))).records.map
      fun r => (r.kind, r.charged, r.capSpent)) = [(.entryCancelled, 0, none)] ∧
    ((after (.tapTake none) (tapped (spent1100 (inside 0)) (tap cardA 0 4 1 204000))).records.map
      fun r => (r.kind, r.classFare, r.charged, r.capSpent)) = [(.complete, 200, 100, some 1200)] := by decide +kernel

/-- Card A re-entered at station 6 at 198,000 after a break, its first leg in slot 5,012 (spec/04, a journey broken at
station 6). -/
def reentered : State :=
  withSlots (day412 0)
    [(5012, .allocated (.extension ⟨2, 169200, 6, 186000, 22060, 7730⟩) true),
      (7730, .allocated (.core { openCore cardA 6 198000 with firstEntryTime := 169200, extensions := [5012] }) true)]
    [(3661, 7730)] 8000

/-- spec/04, a journey broken at station 6: its last tap-out. -/
theorem test_broken_journey :
    ((after (.tapTake none) (tapped reentered (tap cardA 0 8 1 210000))).records.map
      fun r => (r.legs.map (·.metres), r.basis, r.charged, r.capSpent)) =
      [([some 22060, some 14210], some ⟨363, 8895, 130⟩, 1156, some 1156)] ∧
    ((after (.tapTake none) (tapped reentered (tap cardA 0 8 1 210000))).verdicts.map fun v => (v.charged, v.capRemaining)) =
      [(some 1156, some 44)] ∧
    (after (.tapTake none) (tapped reentered (tap cardA 0 8 1 210000))).table.free.returned = [5012, 7730] := by
  decide +kernel

/-- spec/05, an exit replayed before its entry. -/
theorem test_orphan_match :
    ((after (.tapTake none) (tapped
      { withSlots (day412 0) [(9, .allocated (.orphan { orphan cardB 8 189000 with cls := 3 }) true)] [(1035, 9)] 10 with
        table := { (withSlots (day412 0)
          [(9, .allocated (.orphan { orphan cardB 8 189000 with cls := 3 }) true)] [(1035, 9)] 10).table with
          order := ⟨some 9, some 9, 1⟩ } }
      { tap cardB 3 5 0 174000 with gateDecided := 1 })).records.map
      fun r => (r.kind, r.classFare, r.charged, r.capSpent, r.flags)) =
      [(.complete, 425, 425, some 425, { offlineEntry := true })] := by decide +kernel

/-- spec/06, one charge, found and opened. -/
theorem test_charge :
    let cap : CapTable := ⟨[(2990, ⟨1, 412, 1200, 0, 1, none⟩), (4406, ⟨2, 411, 1200, 1200, 9, none⟩),
      (7015, ⟨3, 412, 1200, 0, 1, some 2990⟩)], [(133, ⟨412, 7015⟩)], 4406⟩
    let r := { day412 0 with cap := cap }.charge 0x5E23A70B91C4F6 412 1200 240
    r.1 = .charged 240 1200 240 ∧ r.2.cap.hint = 4407 ∧ sparseGet r.2.cap.buckets 133 = some ⟨412, 4406⟩ ∧
      sparseGet r.2.cap.accounts 4406 = some ⟨0x5E23A70B91C4F6, 412, 1200, 240, 1, some 7015⟩ := by decide +kernel

/-- Card C of spec/06, a day change meeting a charge: in at station 2 at 02:40, out at station 5 a minute later, its
tap-out resting after so many steps of its card operation. -/
def meeting (steps : Nat) : State :=
  after (.tapTake (some steps)) (tapped (withSlots (day412 0)
    [(0, .allocated (.core (openCore 0x7F12D08C4A9E55 2 852000)) true)] [(2850, 0)] 1)
    (tap 0x7F12D08C4A9E55 0 5 1 852600))

/-- spec/06, a day change meeting a charge: the DAY_CHANGE before the charge leaves 577 cents uncapped and no account
touched; the charge before the DAY_CHANGE opens the account of day 412. -/
theorem test_stale_day :
    (let s := after (.tapTake none) (after (.dayChange 127 413 1) (meeting 3))
     (s.records.map fun r => (r.day, r.charged, r.capSpent, r.flags.capUntracked)) = [(412, 577, none, true)] ∧
       s.cap = CapTable.empty ∧ s.counters.capUntracked = 0 ∧ s.unit = .idle) ∧
    (let s := after (.dayChange 127 413 1) (after (.tapTake none) (meeting 3))
     (s.records.map fun r => (r.charged, r.capSpent, r.flags.capUntracked)) = [(577, some 577, false)] ∧
       (s.cap.accounts.map fun x => (x.2.day, x.2.spent)) = [(412, 577)]) := by decide +kernel

/-- spec/10 R176: a tap held in HANDLING is completed after SERVICE_STOP. -/
theorem test_stop_while_handling :
    let s := after (.serviceStop 127) (meeting 1)
    s.mode = .maintenance ∧ s.tableFree = false ∧
      ((after (.tapTake none) s).records.map fun r => (r.kind, r.charged)) = [(.complete, 577)] ∧
      (after (.tapTake none) s).counters.tapsRefused = 0 := by decide +kernel

/-- Card A at station 4 behind an orphan of another card on their chain; it taps out, and rests after its lookup. -/
def behind : State :=
  after (.tapTake (some 1)) (tapped (withSlots (day412 0)
    [(0, .allocated (.orphan { orphan 0x04A1C3F29B6E11 5 7 with next := some 1 }) true),
      (1, .allocated (.core (openCore cardA 4 186000)) true)] [(3661, 0)] 2) (tap cardA 0 5 1 198000))

/-- spec/03 R54: a card operation knows the predecessor from its lookup and does not read it again, so a predecessor
disturbed since is written anew with its next-in-bucket and not quarantined. -/
theorem test_known_predecessor :
    let s := after (.tapTake none) (after (.serviceTimeTick [0]) behind)
    s.slot 0 = some (.allocated (.orphan (orphan 0x04A1C3F29B6E11 5 7)) true) ∧ s.slot 1 = none ∧
      s.bucketHead 3661 = some 0 ∧ s.table.counts.quarantined = 0 := by decide +kernel

/-- spec/04 R79: a tap-out of a later day ends the journey of the current day at the service time, with TIME_CLAMPED. -/
theorem test_later_tap_out :
    let t := { tap cardA 0 5 1 5 with day := 413 }
    let s := after (.tapTake none) { inside 198000 with taps := [⟨t, 198000⟩] }
    (s.records.map fun r => (r.kind, r.day, r.legs.map (·.exit), r.flags.timeClamped)) =
      [(.complete, 412, [some ⟨5, 198000⟩], true)] ∧ s.slot 0 = none := by decide +kernel

/-- Two orphans on one chain and on the orphan order: card A's is the second of both. -/
def paired (intact : Bool) : State :=
  let s := withSlots (day412 0)
    [(0, .allocated (.orphan { orphan 0x04A1C3F29B6E11 5 7 with next := some 1, nextOrder := some 1 }) true),
      (1, .allocated (.orphan (orphan cardA 5 9)) intact)] [(3661, 0)] 2
  { s with table := { s.table with order := ⟨some 0, some 1, 2⟩ } }

/-- spec/03 R54, R57: the record before a released orphan leads past it on its chain and on the order. -/
theorem test_orphan_released :
    let t := ((paired true).settleOrphan 1 (orphan cardA 5 9) {}).2
    t.slot 0 = some (.allocated (.orphan (orphan 0x04A1C3F29B6E11 5 7)) true) ∧ t.slot 1 = none ∧
      t.table.order = ⟨some 0, some 0, 1⟩ ∧ t.bucketHead 3661 = some 0 ∧ t.table.counts = ⟨12287, 0, 0, 0, 1⟩ := by
  decide +kernel

/-- Card B's orphan matched by a tap-in that is taken while clock doubt is set, resting after its lookup. -/
def matching : State :=
  let s := tapped (withSlots (day412 200000) [(9, .allocated (.orphan (orphan cardB 8 189000)) true)] [(1035, 9)] 10)
    (tap cardB 0 5 0 174000)
  after (.tapTake (some 1))
    { s with clock := { s.clock with doubt := true }, table := { s.table with order := ⟨some 9, some 9, 1⟩ } }

/-- spec/05 R106: clock doubt is judged at the match, and not as the tap was taken. -/
theorem test_match_doubt :
    ((after (.tapTake none) matching).records.map fun r => (r.kind, r.flags.clockDoubt)) = [(.complete, true)] ∧
    ((after (.tapTake none) (after (.beacon 412 174000) matching)).records.map fun r => (r.kind, r.flags.clockDoubt)) =
      [(.complete, false)] := by decide +kernel

/-- spec/08 R160, spec/09 R164: an ENGINE_RESET of kind 7 is BAD_ARGUMENT, every data byte zero. -/
theorem test_engine_reset_kind :
    (after (.engineReset 3 7) State.reset).responses.map Response.payload = [[0x41, 3, 0, 0, 0, 0, 0]] := by decide +kernel

/-- The chain of spec/03, a chain cut at a damaged orphan: 911, then the damaged 4,020, then 75. -/
def damaged : State :=
  withSlots (day412 0)
    [(75, .allocated (.core (openCore cardZ 2 100000)) true),
      (911, .allocated (.core { openCore cardA 2 100000 with next := some 4020 }) true),
      (4020, .allocated (.orphan { orphan 0x04A1C3F29B6E11 5 100000 with next := some 75 }) false)]
    [(3661, 911)] 5000

/-- spec/03, a chain cut at a damaged orphan: Z's tap-out is stored as an orphan, and 4,020 is quarantined. -/
theorem test_chain_cut :
    (after (.tapTake none) (tapped damaged (tap cardZ 0 5 1 200000))).slot 4020 = some .quarantined ∧
    (after (.tapTake none) (tapped damaged (tap cardZ 0 5 1 200000))).bucketHead 3661 = some 5000 ∧
    (after (.tapTake none) (tapped damaged (tap cardZ 0 5 1 200000))).nextOf 5000 = some 911 ∧
    (after (.tapTake none) (tapped damaged (tap cardZ 0 5 1 200000))).nextOf 911 = none ∧
    ((after (.tapTake none) (tapped damaged (tap cardZ 0 5 1 200000))).verdicts.map fun v => (v.kind, v.reason)) =
      [(.allow, .noEntryFound)] := by decide +kernel

/-- spec/03, auditing after the cut: slot 75 is recovered, and the quarantined slot 4,020 heads the free list. -/
theorem test_audit :
    ((after .auditSlotExamination { withSlots (stopped412 0)
        [(75, .allocated (.core (openCore cardZ 2 100000)) true)] [] 5000 with
        sweep := { SweepUnit.stopped with walk := some (.audit (.slots 75)) } }).records.map
      fun r => (r.kind, r.charged, r.flags.recovered)) = [(.incomplete, 1500, true)] ∧
    (after (.auditSlotTest true) { withSlots (stopped412 0) [(4020, .quarantined)] [] 5000 with
      sweep := { SweepUnit.stopped with walk := some (.audit (.tests 4020)) } }).table.free.take =
        some (4020, ⟨[], 5000⟩) := by decide +kernel

/-- Day 413, a SATURDAY, its walk at slot `n`, doubt set, with the records of spec/07, closing day 412. -/
def day413 (n : Nat) : State :=
  { withSlots (day412 0)
      [(120, .allocated (.extension ⟨2, 820000, 3, 825000, 3750, 640⟩) true),
        (300, .allocated (.core (openCore cardA 6 798000)) true),
        (512, .allocated (.orphan (orphan 0x5E23A70B91C4F6 5 862000)) true),
        (640, .allocated (.core { openCore 0x7F12D08C4A9E55 2 816000 with
          state := .broken 825000, extensions := [120] }) true)]
      [(2181, 512), (2850, 640), (3661, 300)] 1000 with
    clock := ⟨some 413, .saturday, 10, true⟩
    sweep := { SweepUnit.stopped with walk := some (.day n) } }

/-- spec/07, closing day 412: the three records of the walk. -/
theorem test_day_change_walk :
    ([300, 512, 640].map fun n => (after .dayChangeWalkExamination (day413 n)).records.map
      fun r => (r.kind, r.charged, r.flags)) =
      [[(.incomplete, 1500, { clockDoubt := true })], [(.unmatchedExit, 657, { clockDoubt := true })],
        [(.complete, 272, { clockDoubt := true, capUntracked := true })]] ∧
    (after .dayChangeWalkExamination (day413 640)).sweep.dayCounts = ⟨0, 1, 0, 0⟩ := by decide +kernel

/-- spec/07, a morning of beacons. -/
theorem test_beacons :
    (after (.beacon 412 300050) (day412 300000)).clock = ⟨some 412, .workday, 300050, false⟩ ∧
    (after (.beacon 412 300085) (day412 300100)).watchdog = some 300 ∧
    ((after (.beacon 412 300150) (day412 300200)).notices.map fun n => n.detail.kind) = [.clockDispute] ∧
    ((after (.beacon 411 300500) (day412 300500)).notices.map fun n => n.detail.kind) = [.clockDispute] := by
  decide +kernel

/-- spec/07, expiries during a long pass and a forced sequence: 54,000 halves to 27,000, and 6,750 rises to 6,000. -/
theorem test_passes :
    (after .sweepTimerExpiry { day412 300000 with sweep := { SweepUnit.stopped with timer := some 0 } }).sweep.walk =
      some (.age 0) ∧
    halvedForcedAge 54000 = some 27000 ∧ halvedForcedAge 6750 = some 6000 ∧ halvedForcedAge 6000 = none := by
  decide +kernel

/-- spec/08, records and transit on the Office Port: at a count of 8 the up-transit buffer takes the grant. -/
theorem test_egress :
    let r : JourneyRecord := ((day412 0).reckon ⟨cardA, 0, 412, {}, .incomplete []⟩).record
    let s := { day412 0 with records := [r, r], upTransit := [⟨3, 4, 0x50, []⟩] }
    (s.granted .office = some .record) ∧
    ({ s with passed := { upTransit := 8 } }.granted .office = some .upTransit) ∧
    (after (.egressGrant .office) { s with passed := { upTransit := 8 } }).passed = { record := 1 } := by
  decide +kernel

/-- spec/08 R150: a frame goes out character by character, a PAUSE between two of its characters where it is called for,
then FILL; a frame cut by a reset ends with ABORT. -/
theorem test_characters :
    let f : Frame := ⟨4, 121, 0x22, []⟩
    let ps := { PortState.cleared [] with holding := some f }
    let mid := ps.sendCharacter.sendCharacter
    f.characters.length = 8 ∧ mid.sent = [0x101, 4] ∧ mid.afterReset.sent = [0x101, 4, 0x11F, 0x111] ∧
      ((List.range 7).foldl (fun (q : PortState) _ => q.sendCharacter) { mid with sent := mid.sent ++ [0x110] }).sent =
        [0x101, 4, 0x110] ++ f.characters.drop 2 ++ [0x100] := by decide +kernel

/-- The check of the nine bytes "123456789" under this generator, start and order is 29B1H (PRESUMED: the well-known
check value of this code; spec/08 R151 gives the generator). -/
theorem test_frame_check : frameCheck [0x31, 0x32, 0x33, 0x34, 0x35, 0x36, 0x37, 0x38, 0x39] = 0x29B1 := by
  decide +kernel

/-- spec/08 R151: a frame of four header bytes and no payload needs 6 data bytes; a seventh is too many. -/
theorem test_outcomes :
    judgeFrame [121, 127, 0x44] 3 = .badCheck ∧ judgeFrame [121, 127, 0x44, 0, 1, 2, 3] 7 = .overlong ∧
    judgeFrame [121, 127, 0x44, 241] 4 = .overlong := by decide

/-- spec/02 R44, R45: a token carried twice is added once and removed once. -/
theorem test_deny :
    (after (.denyAdd 127 3 [7, 5, 7]) { day412 0 with deny := [6] }).deny = [5, 6, 7] ∧
    (after (.denyRemove 127 2 [6, 6]) { day412 0 with deny := [5, 6, 7] }).deny = [5, 7] := by decide +kernel

/-- spec/08 R160: the bytes of a STATUS_READ response are as many as its fields ask for: kind and result 2, mode, day, type,
time and doubt 8, counts 10, pending swap and marks 2, eighteen counters 72, fault 6. -/
theorem test_status_length :
    ((after (.statusRead 127 false) (day412 5)).responses.map fun r => r.payload.length) = [100] := by decide +kernel

/-! ### Well-formedness -/

/-- A source node above 255 is refused in every request row. -/
theorem test_wf_source :
    ([.fullReset 256, .warmReset 256, .settingWrite 256 (.link 65 1), .settingRead 256 1, .tableSeek 256 1 0,
      .tableWrite 256 0 [], .tableRead 256 1 none, .tariffCheck 256, .tariffCommit 256, .tariffCopy 256,
      .denyAdd 256 0 [], .denyRemove 256 0 [], .serviceStart 256, .serviceStop 256, .dayChange 256 1 0,
      .journeyQuery 256 0, .poolAudit 256, .statusRead 256 true, .malformedRequest 256 [], .engineReset 256 0] :
      List Instr).all (fun i => !i.wf) = true := by decide

/-- A setting value too large for its field, and a group byte that names a group, are refused. -/
theorem test_wf_settings :
    ([.link 256 1, .link 65 256, .timing 65536 5 1 0, .timing 10 256 1 0, .timing 10 5 256 0, .timing 10 5 1 65536,
      .journey 65536 0 0 1 16, .journey 30 65536 0 1 16, .journey 30 0 256 1 16, .journey 30 0 0 256 16,
      .journey 30 0 0 1 65536, .other 256, .other 1, .other 2, .other 3] : List SettingValues).all
      (fun v => !v.wf) = true := by decide

/-- An operand too large for its field, or a count that does not agree with its items, is refused. -/
theorem test_wf_operands :
    ([.settingRead 127 256, .tableSeek 127 256 0, .tableSeek 127 1 65536, .tableWrite 127 256 [],
      .tableWrite 127 1 (List.replicate 239 0), .tableRead 127 256 none, .tableRead 127 1 (some 256),
      .denyAdd 127 256 [], .denyAdd 127 2 [1], .denyRemove 127 256 [], .denyRemove 127 1 [], .dayChange 127 65536 0,
      .dayChange 127 1 256, .serviceTimeTick [12288], .beacon 65536 0, .beacon 1 16777216,
      .malformedRequest 127 (List.replicate 241 0), .engineReset 127 256, .engineReset 127 1, .engineReset 127 2] :
      List Instr).all (fun i => !i.wf) = true := by decide +kernel

/-- Operands at the greatest value of their fields are well formed. -/
theorem test_wf_accepts :
    ([.settingWrite 255 (.other 0), .tableSeek 255 255 65535, .denyAdd 255 8 (List.replicate 8 0), .denyAdd 255 9 [],
      .serviceTimeTick [0, 12287], .beacon 65535 16777215, .engineReset 255 3] : List Instr).all Instr.wf = true := by
  decide

/-! ### Witnesses: each statement with hypotheses has a state and operands that meet them, clause by clause -/

/-- A response for the witnesses. -/
def answer : Response := ⟨127, 0x40, .done, .malformed⟩

/-- A state with `n` responses queued. -/
def answered (n : Nat) (s : State) : State := { s with responses := List.replicate n answer }

theorem witness_StepRunsFrontCommand : State.reset.pending = [] := rfl

theorem witness_EngineResetTakesItsKind : State.reset.hand = none ∧ 0 ≠ 1 ∧ 0 ≠ 2 ∧ 3 ≠ 1 ∧ 3 ≠ 2 := by decide

/-- A port with nothing received or sent is within its sizes. -/
theorem cleared_bounded (sent : List Character) : (PortState.cleared sent).Bounded where
  queue := Nat.zero_le _
  places := Nat.zero_le _
  stored := by intro bytes n h; exact absurd h (by simp [PortState.cleared])
  unpaused := fun _ => (by decide : 0 < Config.pauseLevel)
  paused := by intro h; exact absurd h (by simp [PortState.cleared])
  noFrame := fun _ => rfl
  inFrame := by intro f h; exact absurd h (by simp [PortState.cleared])

/-- Stores whose first `k` slots are listed, the rest free, with no account. -/
theorem stored_of {s : State} (k : Nat) (hcap : s.cap = CapTable.empty) (hfree : s.table.free = ⟨[], k⟩)
    (hk : k ≤ Config.slotCount) (hlt : ∀ x ∈ s.table.slots, x.1 < k) (hall : ∀ n, n < k → s.slot n ≠ none)
    (slots : sparseWf s.table.slots = true) (heads : sparseWf s.table.heads = true)
    (marks : s.table.marks.Pairwise fun a b => a < b)
    (counts : s.table.counts = ⟨Config.slotCount - k, s.kindCount .quarantined, s.kindCount .core,
      s.kindCount .extension, s.kindCount .orphan⟩)
    (sum : s.kindCount .quarantined + s.kindCount .core + s.kindCount .extension + s.kindCount .orphan = k) :
    s.Stored where
  slots := slots
  heads := heads
  marks := marks
  accounts := by rw [hcap]; rfl
  buckets := by rw [hcap]; rfl
  hint := by rw [hcap]; decide
  spent := by rw [hcap]; intro x h; cases h
  journeys := by rw [hcap]; intro x h; cases h
  numbers := fun x h => Nat.lt_of_lt_of_le (hlt x h) hk
  kinds := by rw [counts]; exact ⟨rfl, rfl, rfl, rfl⟩
  sum := by rw [counts]; simp only; omega
  freeOnce := by rw [hfree]; exact List.nodup_range'
  freeSlots := by
    intro n
    rw [hfree]
    simp only [FreeList.toList, List.nil_append, List.mem_range'_1]
    constructor
    · intro h
      refine ⟨by omega, ?_⟩
      cases e : s.slot n with
      | none => rfl
      | some v => exact absurd (hlt _ (mem_of_sparseGet _ _ _ e)) (Nat.not_lt.2 h.1)
    · rintro ⟨h, e⟩
      rcases Nat.lt_or_ge n k with c | c
      · exact absurd e (hall n c)
      · omega
  accountsOfDay := by
    rw [hcap]
    refine ⟨?_, ?_, ?_, fun b => ⟨[], trivial, List.nodup_nil, fun n => ?_⟩, ?_⟩
    · intro x h; cases h
    · intro x h; cases h
    · intro x h; cases h
    · simp [CapTable.empty, sparseGet]
    · intro n m a b h; cases h

/-- What the stores hold does not rest on the rest of the state. -/
theorem stored_with {s t : State} (h : s.Stored) (table : t.table = s.table) (cap : t.cap = s.cap)
    (today : t.today = s.today) : t.Stored := by
  have slot : ∀ n, t.slot n = s.slot n := fun n => by simp only [State.slot, table]
  have count : ∀ k, t.kindCount k = s.kindCount k := fun k => by simp only [State.kindCount, table]
  constructor <;> simp only [table, cap, today, slot, count]
  exacts [h.slots, h.heads, h.marks, h.accounts, h.buckets, h.hint, h.spent, h.journeys, h.numbers, h.kinds, h.sum,
    h.freeOnce, h.freeSlots, h.accountsOfDay]

/-- The witness state of the invariants: card A inside, one verdict queued, and a beacon waiting to be run. -/
def invariantState : State :=
  { inside 186000 with verdicts := [⟨4, 3, cardA, .allow, .none, none, none⟩], pending := [.beacon 412 186010] }

theorem witness_QueuesStayWithinSize : invariantState.Bounded ∧ ∃ t, step invariantState = .next t := by
  refine ⟨?_, _, rfl⟩
  constructor
  case noticeCounts => intro n h; cases h
  case line => exact cleared_bounded _
  case office => exact cleared_bounded _
  all_goals decide

theorem witness_LiveTariffPassesThroughoutService :
    invariantState.TariffSafe ∧ ∃ t, step invariantState = .next t := by
  refine ⟨⟨fun _ => ?_, fun h => ?_, fun h => ?_⟩, _, rfl⟩
  · decide +kernel
  · exact absurd h (by decide)
  · exact absurd h (by decide)

theorem witness_ClockTimersAndWalksAgree : invariantState.Orderly ∧ ∃ t, step invariantState = .next t := by
  refine ⟨?_, _, rfl⟩
  constructor
  case settings => constructor <;> decide
  case day => intro d h; cases h; decide
  case noPass => intro h; exact absurd h (by decide)
  case forcedAge => intro f h; cases h
  case auditMode => intro w h; cases h
  case auditWalk =>
    constructor
    · rintro ⟨w, h, _⟩; cases h
    · rintro ⟨a, h, _⟩; cases h
  case dayWalk =>
    constructor
    · rintro ⟨w, h, _⟩; cases h
    · rintro ⟨d, h, _⟩; cases h
  case auditHeld => intro a h; cases h
  case dayHeld => intro d h; cases h
  all_goals decide

theorem witness_StoresStayCanonical : invariantState.Stored ∧ ∃ t, step invariantState = .next t :=
  ⟨stored_of 1 rfl rfl (by decide) (by decide) (by decide) (by decide) (by decide) (by decide) (by decide) (by decide),
    _, rfl⟩

/-- Both ends of the Line Port's counts: the verdict queue passed over once, and the down-transit buffer 8 times. -/
theorem witness_LineArbiterStarvesNoSource :
    (({ State.reset with passed := { verdict := 1 } }).passed.verdict ≤ 1 ∧
      ({ State.reset with passed := { verdict := 1 } }).passed.downTransit = 0) ∧
    ({ State.reset with passed := { downTransit := 8 } }).passed.downTransit ≤ 8 ∧
    ∃ t, step { State.reset with passed := { downTransit := 8 } } = .next t := ⟨by decide, by decide, _, rfl⟩

theorem witness_ResponsesAreQueuedOrHeld :
    (answered 3 State.reset).responses.length < 4 ∧ 4 ≤ (answered 4 State.reset).responses.length ∧
    ({ State.reset with hand := some answer }).hand ≠ none := by decide

theorem witness_SettingWriteStoresOrRefuses :
    (State.reset.hand = none ∧ State.reset.mode = .maintenance ∧
    (∀ n ∈ [65, 126], 65 ≤ n ∧ n ≤ 126) ∧ (∀ p ∈ [1, 60], 1 ≤ p ∧ p ≤ 60) ∧
    (∀ w ∈ [10, 600], 10 ≤ w ∧ w ≤ 600) ∧ (∀ b ∈ [5, 120], 5 ≤ b ∧ b ≤ 120) ∧ (∀ v ∈ [1, 50], 1 ≤ v ∧ v ≤ 50) ∧
    (∀ f ∈ [0, 600], f ≤ 600) ∧ (∀ m ∈ [30, 480], 30 ≤ m ∧ m ≤ 480) ∧ (∀ p ∈ [0, 600], p ≤ 600) ∧
    (∀ b ∈ [0, 90], b ≤ 90) ∧ (∀ o ∈ [1, 120], 1 ≤ o ∧ o ≤ 120) ∧ ∀ l ∈ [16, 1024], 16 ≤ l ∧ l ≤ 1024) ∧
    (State.reset.hand = none ∧ (day412 0).hand = none ∧ (day412 0).mode = .service ∧ State.reset.mode = .maintenance ∧
    (0 ≠ 1 ∧ 0 ≠ 2 ∧ 0 ≠ 3 ∧ 4 ≠ 1 ∧ 4 ≠ 2 ∧ 4 ≠ 3) ∧ ¬(65 ≤ 64 ∧ 64 ≤ 126 ∧ 1 ≤ 1 ∧ 1 ≤ 60) ∧
    ¬(65 ≤ 126 ∧ 126 ≤ 126 ∧ 1 ≤ 61 ∧ 61 ≤ 60) ∧
    ¬(10 ≤ 600 ∧ 600 ≤ 600 ∧ 5 ≤ 120 ∧ 120 ≤ 120 ∧ 1 ≤ 50 ∧ 50 ≤ 50 ∧ 601 ≤ 600) ∧
    ¬(30 ≤ 480 ∧ 480 ≤ 480 ∧ 600 ≤ 600 ∧ 90 ≤ 90 ∧ 1 ≤ 120 ∧ 120 ≤ 120 ∧ 16 ≤ 1025 ∧ 1025 ≤ 1024)) := by
  decide +kernel


theorem witness_SettingReadReportsTheGroup : State.reset.hand = none ∧ 0 ≠ 1 ∧ 0 ≠ 2 ∧ 0 ≠ 3 ∧ 4 ≠ 3 := by decide

/-- A copy in progress. -/
def copying (s : State) (table : Nat) : State := { s with copy := some ⟨127, false, table, 0, none⟩ }

theorem witness_TableSeekMovesTheCursor :
    State.reset.hand = none ∧ State.reset.copy = none ∧
    ((8, 4096, State.reset.deny.length) : Nat × Nat × Nat) ∈
      [(1, 64, State.reset.tariff.staging.stations.length), (8, 4096, State.reset.deny.length)] ∧
    (State.reset.tariff.cursorTable, 64, State.reset.tariff.staging.stations.length) =
      ((1, 64, State.reset.tariff.staging.stations.length) : Nat × Nat × Nat) ∧
    (copying State.reset 1).copy ≠ none ∧ 4095 < 4096 ∧ 4096 ≤ 4096 ∧ 0 ∉ [1, 2, 3, 4, 5, 8] ∧ 6 ∉ [1, 2, 3, 4, 5, 8] := by decide

/-- The cursor on a table and index. -/
def seeking (s : State) (table index : Nat) : State :=
  { s with tariff := { s.tariff with cursorTable := table, cursorIndex := index } }

/-- R160, spec/08:251: a refused seek gives the length of the cursor's table, here the deny list with one token, and not
that of the empty table it named (log 16). -/
theorem test_refused_seek_length :
    (after (.tableSeek 127 2 16) (seeking { State.reset with deny := [7] } 8 1)).responses =
      [⟨127, 0x10, .badArgument, .tariff ⟨8, 1, 1, false, false, false, .bankA, 0, none, []⟩⟩] ∧
    (after (.tableSeek 127 2 0) (copying (seeking { State.reset with deny := [7] } 8 1) 1)).responses =
      [⟨127, 0x10, .busy, .tariff ⟨8, 1, 1, false, false, false, .bankA, 0, none, []⟩⟩] := by decide +kernel

theorem witness_TableWriteStoresEntriesAndGaps :
    ((seeking State.reset 1 56).hand = none ∧ (seeking State.reset 1 56).copy = none ∧
    (((seeking State.reset 1 56).tariff.cursorTable, 64, 5) : Nat × Nat × Nat) ∈
      [(1, 64, 5), (2, 16, 4), (3, 18, 5), (4, 16, 6), (5, 1, 9)] ∧
    (seeking State.reset 1 56).tariff.cursorIndex + 8 ≤ 64 ∧ (List.replicate 40 (0 : Byte)).length = 8 * 5 ∧
    64 < (seeking State.reset 1 57).tariff.cursorIndex + 8 ∧ (seeking State.reset 8 0).tariff.cursorTable = 8) ∧
    (let t : BankTable Nat := ⟨[9, 9, 9, 9], 1⟩
    t.length ≤ t.entries.length ∧ 2 + [5, 6].length ≤ t.entries.length ∧ [5, 6] ≠ []) := by
  decide +kernel


theorem witness_TableReadReturnsEntries :
    (day412 0).hand = none ∧ (day412 0).copy = none ∧ 1 ≤ 8 ∧ 8 ≤ 8 ∧ (9 = 0 ∨ 8 < 9) ∧
    (seeking (copying (day412 0) 1) 8 0).tariff.cursorTable = 8 ∧
    ((8, (day412 0).deny.length, (day412 0).deny.map ReadEntry.token) : Nat × Nat × List ReadEntry) ∈
      [(8, (day412 0).deny.length, (day412 0).deny.map ReadEntry.token)] := by decide

theorem witness_CopyInProgressRefusesBusy :
    (copying State.reset 1).hand = none ∧ (copying State.reset 1).copy = some ⟨127, false, 1, 0, none⟩ ∧
    (copying State.reset 1).tariff.cursorTable ≤ 5 ∧ (copying State.reset 1).tariff.cursorTable ≠ 8 ∧
    (List.replicate 40 (0 : Byte)).length = 8 * entrySize (copying State.reset 1).tariff.cursorTable := by decide

theorem witness_CheckAndCommitJudgeStaging :
    (State.reset.hand = none ∧ State.reset.copy = none ∧ (day412 0).hand = none ∧ (day412 0).copy = none ∧
    State.reset.tariff.staging.firstFailure = some ⟨1, 0, 2⟩ ∧ (day412 0).tariff.staging.firstFailure = none) ∧
    (State.reset.tariff.staging.firstFailure = some ⟨1, 0, 2⟩ ∧
    ((stopped412 0).tariff.staging.firstFailure = none ∧ (stopped412 0).mode = .maintenance) ∧
    (day412 0).tariff.staging.firstFailure = none ∧ (day412 0).mode = .service) := by
  decide +kernel


theorem witness_TariffCopyMakesTablesEqual :
    ((day412 0).hand = none ∧ (day412 0).copy = none ∧ (copying (day412 0) 1).copy = some ⟨127, false, 1, 0, none⟩ ∧
    (copying (day412 0) 5).copy = some ⟨127, false, 5, 0, none⟩) ∧
    (let live : BankTable Nat := ⟨[1, 2, 3], 2⟩
    let staging : BankTable Nat := ⟨[7, 7, 7], 3⟩
    staging.entries.length = live.entries.length ∧ live.length ≤ live.entries.length ∧ 0 + 1 < live.length) := by
  decide +kernel


theorem witness_CopyCompletionChecksStaging :
    (copying State.reset 6).copy = some ⟨127, false, 6, 0, none⟩ := by decide

/-- A bank whose first failure is its second time band of SATURDAY, which does not start later than the first. -/
def notRising : Bank := { line with timeBands := { line.timeBands with
  entries := line.timeBands.entries.set 7 ⟨true, 0, 100⟩ } }

theorem witness_TariffCheckFindsTheFirstFailure :
    line.firstFailure = none ∧ notRising.firstFailure = some ⟨3, 7, 8⟩ ∧
    (notRising.timeBands.entries[7]? = some ⟨true, 0, 100⟩ ∧ notRising.timeBands.entries[6]? = some ⟨true, 0, 100⟩ ∧
      6 / 6 = 7 / 6 ∧ ∀ k, 6 < k → ¬k < 7) :=
  ⟨by decide +kernel, by decide +kernel, by decide +kernel, by decide +kernel, by decide, fun k h => by omega⟩

theorem witness_DenyListIsEditedInOrder :
    (let s := { State.reset with deny := [5, 7] }
    s.hand = none ∧ s.deny.Pairwise (fun a b => a.toNat < b.toNat) ∧ s.deny.length ≤ 4096 ∧
    ([7, 9] : List Token).length = 2 ∧ (List.replicate 8 (0 : Token)).length = 8 ∧ 8 < 9) ∧
    (let s := { State.reset with deny := [5, 7] }
    s.hand = none ∧ s.deny.Pairwise (fun a b => a.toNat < b.toNat) ∧ ([7] : List Token).length = 1 ∧
    (List.replicate 8 (0 : Token)).length = 8 ∧ 8 < 9) := by
  decide +kernel


theorem witness_ServiceStartByItsTable :
    (day412 0).mode = .service ∧ (State.reset.mode = .maintenance ∧ State.reset.auditOp = none) ∧
    ({ State.reset with auditOp := some ⟨127, none, none⟩ }).auditOp ≠ none ∧ State.reset.written.link = false ∧
    (let s := { State.reset with written := ⟨true, true, true⟩ }
     s.tariff.liveBank.firstFailure = some ⟨1, 0, 2⟩) ∧
    (let s := { stopped412 0 with written := ⟨true, true, true⟩ }
     s.hand = none ∧ s.mode = .maintenance ∧ s.auditOp = none ∧ s.written = ⟨true, true, true⟩ ∧
       s.tariff.liveBank.firstFailure = none ∧ s.clock.day = some 412) := by decide +kernel

/-- A walk in flight. -/
def walking (s : State) (w : Walk) : State := { s with sweep := { s.sweep with walk := some w } }

theorem witness_ServiceStopEndsPasses :
    State.reset.hand = none ∧ State.reset.mode = .maintenance ∧
    (walking (day412 0) (.forced 12287 true)).mode = .service ∧
    (walking (day412 0) (.forced 12287 true)).sweep.walk = some (.forced 12287 true) ∧
    (day412 0).sweep.walk = none ∧ (walking (day412 0) (.day 0)).sweep.walk = some (.day 0) := by decide

theorem witness_DayChangeOpensTheDay :
    (day412 0).hand = none ∧ (65535 < 65536 ∧ 2 < 3) ∧
    ((2, DayType.sundayHoliday) : Nat × DayType) ∈ [(0, .workday), (1, .saturday), (2, .sundayHoliday)] ∧
    ({ day412 0 with auditOp := some ⟨127, none, none⟩ }).auditOp ≠ none ∧
    ((day412 0).dayOp = none ∧ (day412 0).auditOp = none ∧ (day412 0).clock.day = some 412) ∧
    (day412 0).clock.day ≠ some 413 ∧ (day412 0).clock.day ≠ some 65535 ∧
    (walking (day412 0) (.forced 5 true)).sweep.walk = some (.forced 5 true) ∧ (day412 0).sweep.walk = none := by decide

theorem witness_CompletionsAnswerOrWait :
    let d : DayOperation := ⟨127, 412, .workday, false, .bankA, true, none⟩
    let a : AuditOperation := ⟨127, some 3, none⟩
    (({ State.reset with dayOp := some d }).dayOp = some d ∧ ({ State.reset with auditOp := some a }).auditOp = some a) ∧
    (answered 3 State.reset).responses.length < 4 ∧ 4 ≤ (answered 4 State.reset).responses.length ∧
    ({ State.reset with hand := some answer }).hand = some answer ∧
    (({ State.reset with copy := some ⟨127, false, 6, 0, some answer⟩ }).copy.bind CopyOperation.response =
      some answer) ∧
    (({ State.reset with dayOp := some { d with response := some answer } }).dayOp.bind DayOperation.response =
      some answer) ∧
    ({ State.reset with auditOp := some { a with response := some answer } }).auditOp.bind AuditOperation.response =
      some answer := by decide

/-- An orphan of card B heads the order and its chain. -/
def orphaned : State :=
  let s := withSlots (day412 200000) [(9, .allocated (.orphan (orphan cardB 8 189000)) true)] [(1035, 9)] 10
  { s with table := { s.table with order := ⟨some 9, some 9, 1⟩ } }

/-- Card A's core behind an orphan of another card on their chain. -/
def second : State :=
  withSlots (day412 0)
    [(0, .allocated (.orphan { orphan 0x04A1C3F29B6E11 5 7 with next := some 1 }) true),
      (1, .allocated (.core (openCore cardA 4 186000)) true)] [(3661, 0)] 2

/-- The record before card A's. -/
def first : Nat × Content := (0, .orphan { orphan 0x04A1C3F29B6E11 5 7 with next := some 1 })

/-- It is of another card. -/
theorem first_other : ∀ x ∈ [first], ∀ next, x.2.link ≠ some (cardA, next) := by
  intro x hx next h
  rw [List.mem_singleton.1 hx] at h
  have h : some ((0x04A1C3F29B6E11 : Token), some 1) = some (cardA, next) := h
  exact absurd (congrArg Prod.fst (Option.some.inj h)) (by decide : (0x04A1C3F29B6E11 : Token) ≠ cardA)

theorem second_leads : second.Leads Content.inBucket (second.bucketHead (bucketOf cardA)) [first] (some 1) :=
  ⟨rfl, rfl, some 1, rfl, rfl⟩

theorem second_stored : second.Stored :=
  stored_of 2 rfl rfl (by decide) (by decide) (by decide) (by decide) (by decide) (by decide) (by decide) (by decide)

/-- A chain in bucket 3,661 of a core and a slot that cuts the chain: an orphan that fails on reading, or a QUARANTINED
slot. -/
def cutAt (x : Slot) : State :=
  withSlots (stopped412 0) [(0, .allocated (.core { openCore cardA 2 5 with next := some 1 }) true), (1, x)] [(3661, 0)] 2

/-- An orphan that fails on reading. -/
def failed : Slot := .allocated (.orphan { orphan 0x04A1C3F29B6E11 5 7 with next := some 2 }) false

theorem cutAt_stored : (cutAt failed).Stored ∧ (cutAt .quarantined).Stored :=
  ⟨stored_of 2 rfl rfl (by decide) (by decide) (by decide) (by decide) (by decide) (by decide) (by decide) (by decide),
    stored_of 2 rfl rfl (by decide) (by decide) (by decide) (by decide) (by decide) (by decide) (by decide) (by decide)⟩

theorem witness_JourneyQueryAnswers :
    ((day412 0).hand = none ∧ (day412 0).tableFree = true ∧
      (day412 0).Leads Content.inBucket ((day412 0).bucketHead (bucketOf cardA)) [] none) ∧
    (second.hand = none ∧ second.tableFree = true ∧
      second.Leads Content.inBucket (second.bucketHead (bucketOf cardA)) [first] (some 1) ∧
      (∀ x ∈ [first], ∀ next, x.2.link ≠ some (cardA, next)) ∧
      second.slot 1 = some (.allocated (.core (openCore cardA 4 186000)) true)) ∧
    ((∀ x ∈ [failed, .quarantined], (cutAt x).hand = none ∧ (cutAt x).tableFree = true ∧ (cutAt x).slot 1 = some x ∧
        (cutAt x).bucketHead (bucketOf cardZ) = some 0 ∧
        (cutAt x).slot 0 = some (.allocated (.core { openCore cardA 2 5 with next := some 1 }) true)) ∧
      (cutAt failed).Stored ∧ (cutAt .quarantined).Stored) ∧
    (reentered.bucketHead (bucketOf cardA) = some 7730 ∧ reentered.slot 5012 =
      some (.allocated (.extension ⟨2, 169200, 6, 186000, 22060, 7730⟩) true)) ∧
    (let s := after (.serviceTimeTick [5012]) reentered
     s.hand = none ∧ s.tableFree = true ∧ s.slot 5012 =
       some (.allocated (.extension ⟨2, 169200, 6, 186000, 22060, 7730⟩) false)) ∧
    (orphaned.hand = none ∧ orphaned.bucketHead (bucketOf cardB) = some 9 ∧
      orphaned.slot 9 = some (.allocated (.orphan (orphan cardB 8 189000)) true)) ∧
    (let order := [((9 : Nat), orphan cardB 8 189000)]
     (order.map (·.1)).Nodup ∧ orphaned.table.order.head = order.head?.map (·.1) ∧
       orphaned.table.order.tail = order.getLast?.map (·.1) ∧ (orphan cardB 8 189000).nextOrder = none) ∧
    ({ orphaned.table with order := ⟨none, none, 0⟩ }).order.head = ([] : List (Nat × Orphan)).head?.map (·.1) := by
  refine ⟨⟨rfl, rfl, rfl⟩, ⟨rfl, rfl, second_leads, first_other, rfl⟩, ⟨by decide, cutAt_stored.1, cutAt_stored.2⟩,
    by decide +kernel⟩

theorem witness_PoolAuditStarts :
    (day412 0).hand = none ∧ (day412 0).mode = .service ∧ State.reset.hand = none ∧ State.reset.mode = .maintenance ∧
    State.reset.dayOp = none ∧ State.reset.auditOp = none ∧
    ({ State.reset with auditOp := some ⟨127, none, none⟩ }).auditOp ≠ none := by decide

theorem witness_StatusReadReportsThenClears : State.reset.hand = none := rfl

theorem witness_MalformedRequestIsAnswered :
    State.reset.hand = none ∧ 0x03 ∉ [0x01, 0x02] ∧ ((0x22, 3) : Nat × Nat) ∈ [(0x22, 3)] ∧
    ([1, 2] : List Byte).length ≠ 3 ∧ State.reset.tariff.cursorTable = 1 ∧
    ([0, 0] : List Byte).length ≠ 8 * 5 := by decide

/-! Witnesses of the statements on the audit. -/

/-- A part in MAINTENANCE with an audit at a step. -/
def auditing (s : State) (a : AuditStep) : State := { walking s (.audit a) with auditOp := some ⟨127, none, none⟩ }

/-- A chain of two in bucket 3,661, an orphan and then a core with one extension; the last bucket's audit comes next. -/
def chained : State :=
  withSlots (stopped412 0)
    [(0, .allocated (.orphan { orphan 0x04A1C3F29B6E11 5 7 with next := some 1 }) true),
      (1, .allocated (.core { openCore cardA 2 5 with extensions := [2] }) true),
      (2, .allocated (.extension ⟨2, 1, 3, 4, 3750, 1⟩) true)] [(3661, 0)] 3

theorem chained_stored (a : AuditStep) : (auditing chained a).Stored :=
  stored_with (s := chained) (stored_of 3 rfl rfl (by decide) (by decide) (by decide) (by decide) (by decide) (by decide)
    (by decide) (by decide)) rfl rfl rfl

/-- A chain in bucket 3,661 of a core, a damaged orphan, and a core that the chain is cut from. -/
def cut : State :=
  withSlots (stopped412 0)
    [(0, .allocated (.core { openCore cardA 2 5 with next := some 1 }) true),
      (1, .allocated (.orphan { orphan 0x04A1C3F29B6E11 5 7 with next := some 2 }) false),
      (2, .allocated (.core (openCore cardZ 2 5)) true)] [(3661, 0)] 3

/-- A core with a QUARANTINED extension. -/
def hurt : State :=
  withSlots (stopped412 0) [(0, .allocated (.core { openCore cardA 2 5 with extensions := [1] }) true),
    (1, .quarantined)] [(3661, 0)] 2

theorem witness_AuditWalksEachChain :
    (let s := auditing chained (.chains 3661 none)
     s.Stored ∧ s.tableFree = true ∧ s.sweep.waiting = [] ∧ s.bucketHead 3661 = some 0 ∧
       s.slot 0 = some (.allocated (.orphan { orphan 0x04A1C3F29B6E11 5 7 with next := some 1 }) true) ∧
       (Content.orphan { orphan 0x04A1C3F29B6E11 5 7 with next := some 1 }).link = some (0x04A1C3F29B6E11, some 1) ∧
       s.slot 2 = some (.allocated (.extension ⟨2, 1, 3, 4, 3750, 1⟩) true)) ∧
    ((auditing chained (.chains 4095 none)).sweep.walk = some (.audit (.chains 4095 none)) ∧
      (auditing chained (.chains 4095 none)).bucketHead 4095 = none) ∧
    (let s := auditing cut (.chains 3661 (some 0))
     s.Stored ∧ s.nextOf 0 = some 1 ∧ (∃ c, s.slot 1 = some (.allocated c false)) ∧ 0 ≠ 1 ∧
       (Content.core { openCore cardA 2 5 with next := some 1 }).kind ≠ .extension) ∧
    (let s := auditing hurt (.chains 3661 none)
     s.Stored ∧ s.bucketHead 3661 = some 0 ∧ s.slot 1 = some .quarantined) ∧
    (∃ t, exec (.auditChainWalk (some 1)) (auditing chained (.chains 3661 none)) = .next t ∧
      t.sweep.walk = some (.audit (.chains 3661 (some 0))) ∧ t.sweep.waiting = [] ∧ t.table.marks = [0]) := by
  refine ⟨⟨chained_stored _, by decide⟩, by decide, ⟨?_, by decide, ⟨_, rfl⟩, by decide, by decide⟩,
    ⟨?_, by decide⟩, ⟨_, rfl, by decide +kernel⟩⟩
  · exact stored_of 3 rfl rfl (by decide) (by decide) (by decide) (by decide) (by decide) (by decide) (by decide)
      (by decide)
  · exact stored_of 2 rfl rfl (by decide) (by decide) (by decide) (by decide) (by decide) (by decide) (by decide)
      (by decide)

theorem witness_AuditExaminesUnmarkedSlots :
    (auditing chained (.slots 0)).Stored ∧ (auditing chained (.slots 0)).tableFree = true ∧
    (auditing chained (.slots 0)).sweep.waiting = [] ∧
    (∀ m ∈ [0, 1, 2], m ∉ (auditing chained (.slots 0)).table.marks) ∧
    (auditing chained (.slots 0)).kind 1 = .core ∧ (∀ j, 0 ≤ j → ¬j < 0) ∧
    (∀ m, ¬∃ c k, (auditing (stopped412 0) (.slots 0)).slot m = some (.allocated c k)) ∧
    (withSlots (stopped412 0) [(2, .allocated (.extension ⟨2, 1, 3, 4, 3750, 1⟩) true)] [] 3).kind 1 ≠ .core ∧
    ((cutAt failed).Stored ∧ (cutAt failed).slot 1 = some failed) :=
  ⟨chained_stored _, by decide, by decide, by decide, by decide, fun j _ h => by omega, (fun _ ⟨_, _, h⟩ => nomatch h), by decide,
    cutAt_stored.1, rfl⟩

/-- A QUARANTINED slot after an allocated one. -/
def oneQuarantined : State :=
  withSlots (stopped412 0) [(0, .allocated (.core (openCore cardA 2 5)) true), (1, .quarantined)] [(3661, 0)] 2

theorem witness_AuditTestsQuarantinedSlots :
    (let s := auditing oneQuarantined (.tests 0)
     s.Stored ∧ s.tableFree = true ∧ s.sweep.waiting = [] ∧ s.slot 1 = some .quarantined ∧
       s.slot 0 ≠ some .quarantined) ∧
    ∀ m, (auditing (stopped412 0) (.tests 0)).slot m ≠ some .quarantined :=
  ⟨⟨stored_of 2 rfl rfl (by decide) (by decide) (by decide) (by decide) (by decide) (by decide) (by decide) (by decide),
    by decide⟩, fun m h => by cases h⟩

/-- Two orphans marked, the later slot arrived first. -/
def markedOrphans : State :=
  let s := withSlots (stopped412 0) [(0, .allocated (.orphan (orphan cardA 5 20)) true),
    (1, .allocated (.orphan (orphan cardB 5 10)) true)] [] 2
  auditing { s with table := { s.table with marks := [0, 1] } } (.gather 0 [])

theorem witness_AuditRebuildsTheOrder :
    markedOrphans.Stored ∧ markedOrphans.tableFree = true ∧ markedOrphans.mode = .maintenance ∧
    markedOrphans.sweep.walk = some (.audit (markedOrphans.gatherFrom 0 [])) ∧ markedOrphans.sweep.waiting = [] ∧
    (∀ n o, (n, o) ∈ [(1, orphan cardB 5 10), (0, orphan cardA 5 20)] ↔
      n ∈ markedOrphans.table.marks ∧ markedOrphans.slot n = some (.allocated (.orphan o) true)) ∧
    [(1, orphan cardB 5 10), (0, orphan cardA 5 20)].Pairwise
      (fun x y => x.2.arrival < y.2.arrival ∨ x.2.arrival = y.2.arrival ∧ x.1 < y.1) ∧
    [(1, orphan cardB 5 10), (0, orphan cardA 5 20)].take (2 - 512) = [] ∧
    (let xs := (List.range 513).map fun n => (n, orphan (BitVec.ofNat 56 n) 5 n)
     512 < xs.length ∧ xs.Pairwise
       (fun x y => x.2.arrival < y.2.arrival ∨ x.2.arrival = y.2.arrival ∧ x.1 < y.1)) ∧
    (∃ t, exec (.auditOrderRebuild (some 1)) markedOrphans = .next t ∧
      t.sweep.walk = some (.audit (.gather 1 [(0, 20)]))) ∧
    (auditing markedOrphans (.link [1])).sweep.walk = some (.audit (.link [1])) := by
  refine ⟨?_, by decide, by decide, by decide, by decide, ?_, by decide, by decide, ⟨by simp, ?_⟩,
    ⟨_, rfl, by decide +kernel⟩, rfl⟩
  · exact stored_of 2 rfl rfl (by decide) (by decide) (by decide) (by decide) (by decide) (by decide) (by decide)
      (by decide)
  · intro n o
    constructor
    · intro h
      rcases List.mem_cons.1 h with h | h
      · cases h; decide
      · rcases List.mem_cons.1 h with h | h
        · cases h; decide
        · cases h
    · rintro ⟨h, k⟩
      rcases List.mem_cons.1 h with rfl | h
      · cases k; decide
      · rcases List.mem_cons.1 h with rfl | h
        · cases k; decide
        · cases h
  · exact List.pairwise_map.2 (List.pairwise_lt_range.imp fun h => Or.inl h)

/-! Witnesses of the statements on taps, verdicts and records. -/

theorem witness_TapsTurnedAwayEarly :
    (State.reset.unit = .idle ∧ State.reset.taps = []) ∧
    (let s := tapped (day412 0) (tap cardA 0 65 0 5)
     s.unit = .idle ∧ s.stall = false ∧ s.taps = [⟨tap cardA 0 65 0 5, 5⟩] ∧ ¬(65 ≤ 64)) ∧
    (let s := tapped (stopped412 0) (tap cardA 0 64 1 863999)
     s.mode = .maintenance ∧ s.taps = [⟨tap cardA 0 64 1 863999, 863999⟩] ∧
       (tap cardA 0 64 1 863999).wellFormed = true) ∧
    ((day412 20).clock.time - 0 ≤ (day412 20).settings.timing.verdictLife ∧
      (day412 21).settings.timing.verdictLife < (day412 21).clock.time - 0) := by decide

/-- A tap waits to be taken in SERVICE. -/
theorem tapped_takes (s : State) (t : Tap) (hu : s.unit = .idle) (hs : s.stall = false) (hm : s.mode = .service)
    (ht : t.wellFormed = true) : (tapped s t).Takes ⟨t, t.time⟩ [] := ⟨hu, hs, hm, rfl, ht⟩

/-- Card A's tap-out at station `station`, 12,000 ds after its entry at station 4. -/
def leaving (station : Nat) : State := tapped (inside 0) (tap cardA 0 station 1 198000)

theorem witness_HandlingRestsBetweenSteps :
    (∃ h x later, (meeting 0).unit = .handling h ∧ h.steps = x :: later) ∧
    (leaving 5).Takes ⟨tap cardA 0 5 1 198000, 198000⟩ [] ∧
    (∃ h q own later, (meeting 2).unit = .handling h ∧ h.steps = .reckon q own :: later ∧
      ((meeting 2).reckon q).dailyCap = some 1200) ∧
    (∃ h r, (after (.dayChange 127 413 1) (meeting 3)).unit = .handling h ∧ h.steps = [.charge r true] ∧
      r.dailyCap = some 1200 ∧ r.record.day ≠ (after (.dayChange 127 413 1) (meeting 3)).today) ∧
    (let t := { tap cardA 0 4 0 187200 with day := 411 }
     (tapped (day412 0) t).Takes ⟨t, 187200⟩ [] ∧ t.direction = 0 ∧ t.day < (tapped (day412 0) t).today ∧
       t.token ∉ (tapped (day412 0) t).deny) ∧
    (exec (.tapTake (some 0)) (leaving 5) = .next (after (.tapTake (some 0)) (leaving 5)) ∧
      ∃ h, (after (.tapTake (some 0)) (leaving 5)).unit = .handling h) ∧
    (∃ h, matching.unit = .handling h ∧ h.steps = [.matchOrphan 9 (orphan cardB 8 189000) (.known none)]) :=
  ⟨⟨_, _, _, rfl, rfl⟩, tapped_takes _ _ rfl rfl rfl (by decide),
    ⟨_, _, _, _, rfl, rfl, by decide +kernel⟩, ⟨_, _, rfl, rfl, by decide +kernel, by decide +kernel⟩,
    ⟨tapped_takes _ _ rfl rfl rfl (by decide), by decide⟩, ⟨rfl, _, rfl⟩, ⟨_, rfl, by decide +kernel⟩⟩

theorem witness_TapInOpensAJourney :
    (let t := tap cardA 0 4 0 186000
     let s := tapped (day412 0) t
     s.Takes ⟨t, 186000⟩ [] ∧ t.direction = 0 ∧ s.today ≤ t.day ∧ t.token ∉ s.deny ∧
       s.bucketHead (bucketOf t.token) = none ∧ s.table.free.take = some (0, ⟨[], 1⟩)) ∧
    (let t := { tap cardA 0 4 0 186000 with gateDecided := 1, day := 413 }
     let s := { tapped (day412 0) t with deny := [cardA] }
     s.Takes ⟨t, 186000⟩ [] ∧ s.today ≤ t.day ∧ t.token ∈ s.deny ∧ t.gateDecided = 1) ∧
    (let t := tap cardA 0 4 0 186000
     let s := tapped (withSlots (day412 0) [] [] 12288) t
     s.Takes ⟨t, 186000⟩ [] ∧ s.table.free.take = none ∧ s.records.length < 256) :=
  ⟨⟨tapped_takes _ _ rfl rfl rfl (by decide), by decide⟩, ⟨⟨rfl, rfl, rfl, rfl, by decide⟩, by decide⟩,
    ⟨tapped_takes _ _ rfl rfl rfl (by decide), by decide⟩⟩

/-- An orphan of card B heads the order and its chain, and card B taps at a station. -/
def rejoining (station direction time : Nat) : State := tapped orphaned (tap cardB 0 station direction time)

theorem witness_TapInByWhatItFinds :
    (let s := tapped (inside 0) (tap cardA 0 4 0 187200)
     s.Takes ⟨tap cardA 0 4 0 187200, 187200⟩ [] ∧ (s.tapTaken []).lookup cardA =
       (some ⟨none, 0, .core (openCore cardA 4 186000)⟩, s.tapTaken []) ∧ (openCore cardA 4 186000).day = s.today ∧
       187200 - 186000 ≤ s.settings.journey.passbackWindow * 10 ∧
       s.settings.journey.passbackWindow * 10 < 187201 - 186000) ∧
    (let c := { openCore cardA 4 100 with state := .broken 50000 }
     let s := tapped (withSlots (day412 0) [(0, .allocated (.core c) true)] [(3661, 0)] 1) (tap cardA 0 6 0 77000)
     s.Takes ⟨tap cardA 0 6 0 77000, 77000⟩ [] ∧ (s.tapTaken []).lookup cardA = (some ⟨none, 0, .core c⟩, s.tapTaken []) ∧
       77000 - 50000 ≤ s.settings.journey.breakWindow * 600 ∧ s.settings.journey.breakWindow * 600 < 77001 - 50000) ∧
    (let s := tapped { inside 0 with clock := ⟨some 413, .saturday, 0, false⟩ }
       { tap cardA 0 4 0 187200 with day := 413 }
     s.Takes ⟨{ tap cardA 0 4 0 187200 with day := 413 }, 187200⟩ [] ∧ (openCore cardA 4 186000).day ≠ s.today) ∧
    (let s := rejoining 5 0 174000
     s.Takes ⟨tap cardB 0 5 0 174000, 174000⟩ [] ∧ (s.tapTaken []).lookup cardB =
       (some ⟨none, 9, .orphan (orphan cardB 8 189000)⟩, s.tapTaken []) ∧ 174000 ≤ 189000 ∧ ¬189001 ≤ 189000 ∧
       189000 - 174000 ≤ s.settings.journey.maxDuration * 600) ∧
    ((tapped (day412 0) (tap cardA 0 4 0 5)).lookup cardA).1 = none :=
  ⟨⟨tapped_takes _ _ rfl rfl rfl (by decide), by decide +kernel⟩,
    ⟨tapped_takes _ _ rfl rfl rfl (by decide), by decide +kernel⟩,
    ⟨tapped_takes _ _ rfl rfl rfl (by decide), by decide⟩,
    ⟨tapped_takes _ _ rfl rfl rfl (by decide), by decide +kernel⟩, by decide +kernel⟩

theorem leaving_stored (station : Nat) : (leaving station).Stored :=
  stored_with (s := leaving 4) (stored_of 1 rfl rfl (by decide) (by decide) (by decide) (by decide) (by decide)
    (by decide) (by decide) (by decide)) rfl rfl rfl

theorem witness_TapOutEndsTheJourney :
    ((leaving 4).Stored ∧ (leaving 4).Takes ⟨tap cardA 0 4 1 198000, 198000⟩ [] ∧
    (leaving 4).today ≤ (tap cardA 0 4 1 198000).day ∧
    (leaving 4).Leads Content.inBucket ((leaving 4).bucketHead (bucketOf cardA)) [] (some 0)) ∧
    ((leaving 4).slot 0 = some (.allocated (.core (openCore cardA 4 186000)) true) ∧
    (openCore cardA 4 186000).extensions = [] ∧ (leaving 4).records.length < 256 ∧
    198000 - 186000 ≤ (constantsOf line).sameStationGrace * 600 ∧
    (constantsOf line).sameStationGrace * 600 < 198001 - 186000 ∧
    breakPermittedAt line 5 = false ∧ breakPermittedAt line 6 = true ∧
    (leaving 6).table.free.take = some (1, ⟨[], 2⟩) ∧ [1, 2].length < 3 ∧
    (withSlots (day412 0) [] [] 12288).table.free.take = none) ∧
    (let t := { tap cardA 0 5 1 198000 with day := 413 }
     let s := tapped second t
     s.Stored ∧ s.Takes ⟨t, 198000⟩ [] ∧ s.today ≤ t.day ∧
       s.Leads Content.inBucket (s.bucketHead (bucketOf t.token)) [first] (some 1) ∧
       (∀ x ∈ [first], ∀ next, x.2.link ≠ some (t.token, next)) ∧
       s.slot 1 = some (.allocated (.core (openCore cardA 4 186000)) true)) :=
  ⟨⟨leaving_stored 4, tapped_takes _ _ rfl rfl rfl (by decide), by decide, rfl⟩, by decide,
    stored_with second_stored rfl rfl rfl, tapped_takes _ _ rfl rfl rfl (by decide), by decide,
    ⟨rfl, rfl, some 1, rfl, rfl⟩, first_other, rfl⟩

theorem witness_TapOutStoresAnOrphan :
    (let s := tapped (day412 0) (tap cardA 0 5 1 198000)
     s.Stored ∧ s.Takes ⟨tap cardA 0 5 1 198000, 198000⟩ [] ∧ s.today ≤ 412 ∧
       (s.tapTaken []).lookup cardA = (none, s.tapTaken []) ∧ s.bucketHead (bucketOf cardA) = none ∧
       s.table.order.length < 512 ∧ s.table.order.tail = none ∧ s.table.free.take = some (0, ⟨[], 1⟩)) ∧
    (let s := rejoining 8 1 190000
     s.Takes ⟨tap cardB 0 8 1 190000, 190000⟩ [] ∧ (s.tapTaken []).lookup cardB =
       (some ⟨none, 9, .orphan (orphan cardB 8 189000)⟩, s.tapTaken []) ∧ s.table.order.tail = some 9 ∧
       s.slot 9 = some (.allocated (.orphan (orphan cardB 8 189000)) true)) ∧
    (let c := { openCore cardA 4 100 with state := .broken 50000 }
     let s := tapped (withSlots (day412 0) [(0, .allocated (.core c) true)] [(3661, 0)] 1) (tap cardA 0 6 1 77000)
     (s.tapTaken []).lookup cardA = (some ⟨none, 0, .core c⟩, s.tapTaken []) ∧ c.day = s.today) ∧
    (let s := { orphaned with table := { orphaned.table with order := ⟨some 9, some 9, 512⟩ } }
     512 ≤ s.table.order.length ∧ s.table.order.head = some 9) := by
  refine ⟨⟨?_, tapped_takes _ _ rfl rfl rfl (by decide), by decide +kernel⟩,
    ⟨tapped_takes _ _ rfl rfl rfl (by decide), by decide +kernel⟩, by decide +kernel, by decide⟩
  exact stored_of 0 rfl rfl (by decide) (by decide) (fun n h => by omega) (by decide) (by decide) (by decide)
    (by decide) (by decide)

theorem witness_EarlierDayTaps :
    (let t := { tap cardA 0 4 0 187200 with day := 411 }
     (tapped (day412 0) t).Takes ⟨t, 187200⟩ [] ∧ t.day < (tapped (day412 0) t).today ∧ t.direction = 0 ∧
       t.token ∉ (tapped (day412 0) t).deny) ∧
    (let t := { tap cardA 0 5 1 187200 with day := 411 }
     let c := { openCore cardA 4 186000 with day := 411 }
     let s := tapped (withSlots (day412 0) [(0, .allocated (.core c) true)] [(3661, 0)] 1) t
     s.Takes ⟨t, 187200⟩ [] ∧ t.day < s.today ∧ (s.tapTaken []).lookup cardA = (some ⟨none, 0, .core c⟩, s.tapTaken []) ∧
       c.day = t.day ∧ c.state = .opened ∧ c.day ≠ s.today ∧ 410 ≠ t.day) ∧
    (((day412 0).lookup cardA).1 = none ∧
      (orphaned.lookup cardB).1 = some ⟨none, 9, .orphan (orphan cardB 8 189000)⟩ ∧
      ((inside 0).lookup cardA).1 = some ⟨none, 0, .core (openCore cardA 4 186000)⟩) :=
  ⟨⟨tapped_takes _ _ rfl rfl rfl (by decide), by decide⟩,
    ⟨tapped_takes _ _ rfl rfl rfl (by decide), by decide +kernel⟩, by decide +kernel⟩

theorem witness_RefusedTapInsChangeNoJourney :
    (let t := tap cardA 0 4 0 187200
     let s := tapped (inside 0) t
     s.Takes ⟨t, 187200⟩ [] ∧ t.direction = 0 ∧ t.day = s.today ∧ s.records.length < 256 ∧ t.token ∉ s.deny ∧
       s.bucketHead (bucketOf t.token) = some 0 ∧
       s.slot 0 = some (.allocated (.core (openCore cardA 4 186000)) true) ∧
       (s.checkedTap ⟨t, 187200⟩).time - 186000 ≤ s.settings.journey.passbackWindow * 10) ∧
    (let t := { tap cardA 0 4 0 187200 with day := 411 }
     ({ tapped (inside 0) t with deny := [cardA] }).Takes ⟨t, 187200⟩ [] ∧ t.gateDecided = 0 ∧
       t.token ∈ ({ tapped (inside 0) t with deny := [cardA] }).deny) :=
  ⟨⟨tapped_takes _ _ rfl rfl rfl (by decide), by decide +kernel⟩, ⟨⟨rfl, rfl, rfl, rfl, by decide⟩, by decide⟩⟩

theorem witness_SettlementsFillTheirRecords :
    198000 - 186000 ≤ (constantsOf (day412 0).tariff.liveBank).sameStationGrace * 600 ∧
    (constantsOf (day412 0).tariff.liveBank).sameStationGrace * 600 < 198001 - 186000 ∧
    (⟨none, some ⟨5, 7⟩, none⟩ : RecordLeg).entry = none ∧
    (let filled : Bank := { line with classes := { line.classes with
      entries := line.classes.entries.set 15 ⟨true, 50, 5, 0⟩ } }
     line.classes.entries[0]? = some ⟨true, 100, 1, 1200⟩ ∧ filled.classes.entries[15]? = some ⟨true, 50, 5, 0⟩ ∧
       15 ≤ 15 ∧ line.classes.entries[15]? = some ⟨false, 0, 0, 0⟩ ∧ 15 < 16) := by decide

/-- spec/01 R3: class 15 in use is itself; class 15 not in use and number 16 are class 0, substituted. -/
theorem test_class_lookup :
    (classLookup { line with classes := { line.classes with
      entries := line.classes.entries.set 15 ⟨true, 50, 5, 0⟩ } } 15) = ⟨15, ⟨true, 50, 5, 0⟩, false⟩ ∧
    (classLookup line 15).cls = 0 ∧ (classLookup line 15).substituted = true ∧ (classLookup line 16).cls = 0 ∧
    (classLookup line 16).substituted = true := by decide

/-- A record for the witnesses. -/
def aRecord : JourneyRecord := (day412 0).tapRecord ((day412 0).tapContext ⟨tap cardA 0 4 0 0, 0⟩ 412 0 false) .refusal

theorem witness_WaitingRecordsAreAppended :
    ((day412 0).records.length + [aRecord].length ≤ 256 ∧ [aRecord] = [] ++ [aRecord] ∧
      ({ day412 0 with records := List.replicate 256 aRecord }).records.length + ([] : List JourneyRecord).length = 256) ∧
    (let s := { day412 0 with unit := .appending [aRecord] }
     s.unit = .appending [aRecord] ∧ s.records.length < 256) ∧
    256 ≤ ({ day412 0 with records := List.replicate 256 aRecord }).records.length ∧
    (let s := walking (day412 0) (.age 5)
     ({ s with sweep := { s.sweep with kept := [aRecord] } }).sweep.kept = [aRecord] ∧
       ({ s with sweep := { s.sweep with waiting := [aRecord] } }).sweep.waiting = [aRecord] ∧ s.sweep.kept = [] ∧
       (Walk.age 12287).finished = false ∧ (Walk.age 12288).finished = true) ∧ 4294967294 < 4294967295 := by
  decide +kernel

/-! Witnesses of the statements on the Sweep Unit and settlements. -/

theorem witness_PassesStartByTheirTable :
    (day412 0).sweep.timer ≠ some 0 ∧
    (let s := { day412 0 with sweep := { SweepUnit.stopped with timer := some 0 } }
     s.sweep.timer = some 0 ∧ s.sweep.walk = none ∧ s.table.shortage = false) ∧
    (walking (day412 0) (.age 3)).sweep.walk ≠ none ∧
    (let s := walking (day412 0) (.age 12287)
     s.tableFree = true ∧ s.sweep.waiting = [] ∧ s.slot 12287 = none ∧
       s.sweep.walk = some (.age 12287) ∧ (Walk.age 12287).finished = false) ∧
    (walking (stopped412 0) (.day 12288)).sweep.walk = some (.day 12288) ∧ (Walk.day 12288).finished = true ∧
    (let s := { walking (day412 0) (.forced 12287 true) with
       table := { JourneyTable.empty with shortage := true } }
     ({ s with sweep := { s.sweep with forcedAge := some 6000 } }).sweep.forcedAge = some 6000 ∧
       s.table.shortage = true ∧ s.slot 12287 = none) := by decide

/-- The table of spec/07, closing day 412, one slot with a failed check beside it, at a service time. -/
def aging (time n : Nat) (w : Nat → Walk) : State :=
  walking { day413 n with clock := ⟨some 412, .workday, time, false⟩ } (w n)

theorem witness_AgePassJudgesByAge :
    (∀ n ∈ [0, 120, 300, 512, 640, 12287],
      n < 12288 ∧ (aging 5 n .age).tableFree = true ∧ (aging 5 n .age).sweep.walk = some (.age n) ∧ (aging 5 n .age).sweep.waiting = []) ∧
    (aging 5 0 .age).slot 0 = none ∧
    (let s := aging (798000 - 5) 300 .age
     s.slot 300 = some (.allocated (.core (openCore cardA 6 798000)) true) ∧ (openCore cardA 6 798000).day = s.today) ∧
    (906000 - 798000 ≤ 180 * 600 ∧ 180 * 600 < 906001 - 798000) ∧ (day413 300).today ≠ 412 ∧
    damaged.slot 4020 = some (.allocated (.orphan { orphan 0x04A1C3F29B6E11 5 100000 with next := some 75 }) false) := by
  decide +kernel

theorem witness_ForcedPassJudgesByForcedAge :
    (let s := aging 804001 300 fun n => .forced n true
     ({ s with sweep := { s.sweep with forcedAge := some 6000 }, table := { s.table with shortage := true } }).slot 300 =
         some (.allocated (.core (openCore cardA 6 798000)) true) ∧
       s.sweep.walk = some (.forced 300 true) ∧ s.sweep.waiting = [] ∧ s.tableFree = true ∧ s.today = 412 ∧ 6000 < 804001 - 798000 ∧
       804001 - 798000 ≤ s.settings.journey.maxDuration * 600) ∧
    804000 - 798000 ≤ 6000 ∧ (day413 300).today ≠ 412 ∧
    (let s := aging 804001 300 fun n => .forced n false
     s.slot 300 = some (.allocated (.core (openCore cardA 6 798000)) true) ∧
       s.sweep.walk = some (.forced 300 false) ∧ s.sweep.forcedAge = none) := by decide +kernel

theorem witness_DayChangeWalkSettlesOtherDays :
    (∀ n ∈ [0, 120, 300, 512, 640, 12287], n < 12288 ∧ (day413 n).tableFree = true ∧ (day413 n).sweep.walk = some (.day n) ∧ (day413 n).sweep.waiting = []) ∧
    (day413 0).slot 0 = none ∧
    (day413 300).slot 300 = some (.allocated (.core (openCore cardA 6 798000)) true) ∧
    (day413 300).today ≠ 412 ∧ (aging 5 300 .day).today = 412 ∧
    (day413 512).slot 512 = some (.allocated (.orphan (orphan 0x5E23A70B91C4F6 5 862000)) true) := by decide +kernel

/-- Card A's journey of two legs in the first two slots, with or without its extension QUARANTINED. -/
def twoLegs (extension : Slot) : State :=
  withSlots (day412 0) [(0, extension),
    (1, .allocated (.core { openCore cardA 6 198000 with firstEntryTime := 169200, extensions := [0] }) true)]
    [(3661, 1)] 2

/-- Its first leg. -/
def firstLeg : Extension := ⟨2, 169200, 6, 186000, 22060, 1⟩

theorem twoLegs_stored : (twoLegs (.allocated (.extension firstLeg) true)).Stored ∧ (twoLegs .quarantined).Stored :=
  ⟨stored_of 2 rfl rfl (by decide) (by decide) (by decide) (by decide) (by decide) (by decide) (by decide) (by decide),
    stored_of 2 rfl rfl (by decide) (by decide) (by decide) (by decide) (by decide) (by decide) (by decide) (by decide)⟩

theorem paired_stored (intact : Bool) : (paired intact).Stored := by
  refine stored_of 2 rfl rfl ?_ ?_ ?_ ?_ ?_ ?_ ?_ ?_ <;> cases intact <;> decide

theorem witness_SettlementReleasesTheJourney :
    (let s := twoLegs (.allocated (.extension firstLeg) true)
     s.Stored ∧ s.Leads Content.inBucket (s.bucketHead (bucketOf cardA)) [] (some 1) ∧ s.slot 1 = some (.allocated
       (.core { openCore cardA 6 198000 with firstEntryTime := 169200, extensions := [0] }) true) ∧
       s.slot 0 = some (.allocated (.extension firstLeg) true)) ∧
    (let s := twoLegs .quarantined
     s.Stored ∧ s.bucketHead (bucketOf cardA) = some 1 ∧ s.slot 0 = some .quarantined) ∧
    (second.Stored ∧ second.Leads Content.inBucket (second.bucketHead (bucketOf cardA)) [first] (some 1) ∧
      ∀ x ∈ [first], x.1 ≠ 1) ∧
    (let s := paired true
     let x : Nat × Content := (0, .orphan { orphan 0x04A1C3F29B6E11 5 7 with next := some 1, nextOrder := some 1 })
     s.Stored ∧ s.slot 1 = some (.allocated (.orphan (orphan cardA 5 9)) true) ∧
       s.Leads Content.inBucket (s.bucketHead (bucketOf cardA)) [x] (some 1) ∧
       s.Leads Content.inOrder s.table.order.head [x] (some 1) ∧ (∀ y ∈ [x], y.1 ≠ 1 ∧ s.table.order.tail ≠ some y.1) ∧
       s.Leads Content.inOrder s.table.order.head [x, (1, .orphan (orphan cardA 5 9))] none ∧
       s.table.order.tail = [x, (1, .orphan (orphan cardA 5 9))].getLast?.map (·.1) ∧
       ∀ y ∈ [x, (1, Content.orphan (orphan cardA 5 9))], y.1 ≠ 7) ∧
    ((paired false).table.order.tail ≠ some 0 ∧ (∃ d, (paired false).slot 1 = some (.allocated d false)) ∧
      (cutAt .quarantined).slot 1 = some .quarantined) ∧
    ([(0, some firstLeg)] : List (Nat × Option Extension)).map (·.1) = [0] ∧
    (∃ x ∈ ([(0, none)] : List (Nat × Option Extension)), x.2 = none) ∧
    behind.slot 0 = some (.allocated (.orphan { orphan 0x04A1C3F29B6E11 5 7 with next := some 1 }) true) :=
  ⟨⟨twoLegs_stored.1, rfl, rfl, rfl⟩, ⟨twoLegs_stored.2, by decide⟩, ⟨second_stored, second_leads, by decide⟩,
    ⟨paired_stored true, rfl, ⟨rfl, rfl, some 1, rfl, rfl⟩, ⟨rfl, rfl, some 1, rfl, rfl⟩, by decide,
      ⟨rfl, rfl, some 1, rfl, rfl, rfl, none, rfl, rfl⟩, rfl, by decide⟩,
    ⟨by decide, ⟨_, rfl⟩, rfl⟩, by decide, by decide, by decide +kernel⟩

theorem witness_FreeListIsLastInFirstOut :
    (FreeList.mk [4] 5).take = some (4, ⟨[], 5⟩) ∧ (FreeList.mk [] 12287).take = some (12287, ⟨[], 12288⟩) ∧
    (FreeList.mk [] 12288).take = none ∧
    (let s := twoLegs (.allocated (.extension firstLeg) true)
     s.Stored ∧ s.slot 0 = some (.allocated (.extension firstLeg) true) ∧
       ¬(s.table.shortage = true ∧ s.settings.journey.shortageLevel + 128 ≤ s.table.counts.free + 1)) ∧
    (let s := { day412 0 with table := { JourneyTable.empty with shortage := true, counts := ⟨383, 0, 11905, 0, 0⟩ } }
     s.table.shortage = true ∧ s.settings.journey.shortageLevel + 128 ≤ s.table.counts.free + 1) ∧
    (let s := twoLegs (.allocated (.extension firstLeg) true)
     s.Stored ∧ s.slot 0 = some (.allocated (.extension firstLeg) true) ∧
       (Content.extension { firstLeg with metres := 1 }).kind = (Content.extension firstLeg).kind ∧
       s.allocateLinked cardB (.orphan (orphan cardB 5 100000)) =
         (some 2, (s.allocateLinked cardB (.orphan (orphan cardB 5 100000))).2)) :=
  ⟨by decide, by decide, by decide, ⟨twoLegs_stored.1, by decide⟩, by decide, twoLegs_stored.1, by decide, rfl, rfl⟩

/-! Witnesses of the statements on the clock and the links. -/

theorem witness_ClockCountsAndHolds :
    State.reset.clock.day = none ∧ 863999 ≤ (day412 863999).clock.time ∧
    ((day412 863997).clock.day ≠ none ∧ (day412 863997).clock.time + 1 < 863999) ∧
    (day412 863998).clock.time + 1 = 863999 ∧ ({ day412 0 with watchdog := some 0 }).watchdog = some 0 ∧
    (day412 0).watchdog ≠ some 0 ∧
    (inside 0).slot 0 = some (.allocated (.core (openCore cardA 4 186000)) true) := by decide

theorem witness_BeaconIsJudgedByItsTable :
    State.reset.clock.day = none ∧ (day412 100).clock.day = some 412 ∧ 863999 < 864000 ∧ 413 ≠ 412 ∧
    (day412 100).clock.time < 101 ∧ (100 ≤ (day412 100).clock.time ∧ (day412 100).clock.time ≤ 80 + 20) ∧
    79 + 20 < (day412 100).clock.time := by decide

/-- A port with `n` good frames held beyond a full status queue. -/
def crowded (n : Nat) : PortState :=
  { PortState.cleared [] with
    rx := .outside true, queue := List.replicate 16 ⟨[], .good⟩, held := List.replicate n ⟨[], .good⟩ }

theorem witness_ReceptionFollowsItsTable :
    State.reset.line.rx = .outside false ∧ (crowded 0).places < 64 ∧ (crowded 0).places ≠ 47 ∧
    ((crowded 31).places = 47 ∧ (crowded 31).pauseSent = false) ∧ 64 ≤ (crowded 48).places ∧
    ({ crowded 0 with rx := .inside [1] 246 }).rx = .inside [1] 246 ∧ ({ crowded 0 with rx := .unstored }).rx = .unstored ∧
    (256 ≤ (0x103 : Character).toNat ∧ (0x103 : Character) ∉ [0x100, 0x101, 0x102, 0x110, 0x111, 0x11F]) ∧
    (({ crowded 30 with rx := .inside [] 0 }).places = 47 ∧ 64 ≤ ({ crowded 47 with rx := .inside [] 0 }).places ∧
      ({ crowded 31 with rx := .unstored }).places = 47 ∧ 64 ≤ ({ crowded 48 with rx := .unstored }).places) ∧
    246 < 247 ∧ (4 ≤ 4 ∧ 240 < (([0, 0, 0, 241] : List Byte).getD 3 0).toNat) ∧ 3 < 4 ∧
    (let body : List Byte := [121, 127, 0x44, 0]
     body.length = 4 + (body.getD 3 0).toNat ∧ (body.getD 3 0).toNat ≤ 240) := by decide

/-- spec/08 R151: a frame of four header bytes whose last two bytes are its check, high byte first, is GOOD; with one data
bit changed, or with the two bytes exchanged, it is BAD_CHECK. -/
theorem test_check_judged :
    let check := frameCheck [121, 127, 0x44, 0]
    let high := check.extractLsb' 8 8
    let low := check.extractLsb' 0 8
    judgeFrame [121, 127, 0x44, 0, high, low] 6 = .good ∧ judgeFrame [120, 127, 0x44, 0, high, low] 6 = .badCheck ∧
    judgeFrame [121, 127, 0x44, 0, low, high] 6 = .badCheck := by decide +kernel

theorem witness_PauseEpisodeRunsOnce :
    State.reset.line.partnerPaused = false ∧
    ({ State.reset.line with partnerPaused := true, pauseTimer := some 0 }).partnerPaused = true ∧
    ({ State.reset.line with partnerPaused := true, pauseTimer := some 0 }).pauseTimer = some 0 ∧
    State.reset.office.pauseTimer ≠ some 0 ∧
    (let n : Notice := ⟨.shortage 5, 65535, 0⟩
     [n] = [] ++ n :: [] ∧ ([n].map fun n => n.detail.kind).Nodup ∧ n.detail.kind = (NoticeDetail.shortage 4).kind ∧
       n.count ≤ 65535) := by decide

/-- A good stored frame of a class to a destination, with a payload of so many bytes. -/
def good (destination cls : Byte) (length : Nat) : StoredFrame :=
  ⟨[destination, 127, cls, BitVec.ofNat 8 length] ++ List.replicate (length + 2) 0, .good⟩

/-- A port whose status queue holds one frame. -/
def queued (f : StoredFrame) : PortState := { PortState.cleared [] with queue := [f] }

theorem witness_SwitchTakesTheHeadEntry :
    (let f := good 121 0x21 17
     (queued f).queue = f :: [] ∧ (queued f).routed = none ∧ f.outcome = .good ∧
       route .line f.cls .engine = ([.tapQueue], false) ∧
       f.destination = State.reset.settings.link.nodeAddress ∧ f.payloadLength = 17 ∧
       ({ queued f with routed := some [.tapQueue] }).routed ≠ none) ∧
    (route .line (good 0 0x21 16).cls .broadcast = (.tapQueue :: [.transit], false) ∧
      (good 0 0x21 16).payloadLength ≠ 17 ∧ (good 0 0x21 16).destination = 0) ∧ State.reset.taps.length < 128 ∧
    128 ≤ ({ State.reset with taps := List.replicate 128 ⟨tap cardA 0 1 0 0, 0⟩ }).taps.length ∧
    (route .office (good 121 0x44 5).cls .engine = ([.clock], false) ∧ (good 121 0x44 5).payloadLength = 5) ∧
    (let f : StoredFrame := ⟨[121, 127, 0x41, 2, 0x40, 0, 0, 0], .good⟩
     route .office f.cls .engine = ([.management], false) ∧ readRequest f.payload = .statusRead false ∧
       State.reset.hand = none ∧ State.reset.tableFree = true) ∧
    readRequest (⟨[121, 127, 0x41, 2, 0x41, 1, 0, 0], .good⟩ : StoredFrame).payload = .engineReset 1 ∧
    ({ State.reset with hand := some answer }).hand ≠ none ∧ (meeting 1).tableFree = false ∧
    (route .office (good 0 0x43 1).cls .broadcast = ([.transit], false) ∧
      route .line (good 121 0x31 1).cls .engine = ([], true) ∧ (good 126 0x31 0).destination ≠ 121) ∧
    readRequest [] = .malformed 0 ∧ (day412 0).tableFree = true ∧
    16 ≤ ({ State.reset with upTransit := List.replicate 16 ⟨0, 0, 0, []⟩ }).upTransit.length ∧
    (0x50 : Byte) ∉ [0x21, 0x22, 0x31, 0x41, 0x42, 0x43, 0x44] ∧ (⟨[], .aborted⟩ : StoredFrame).outcome ≠ .good ∧
    (({ queued (good 0 0x21 17) with routed := some [.tapQueue, .transit] }).routed = some [.tapQueue, .transit] ∧
      Destination.transit ∈ [Destination.tapQueue, .transit]) ∧
    ((crowded 1).held = [⟨[], .good⟩] ∧ 16 ≤ (crowded 1).queue.length) := by decide +kernel

theorem witness_EgressGrantsOneItem :
    let s := { day412 0 with records := [aRecord], upTransit := [⟨3, 4, 0x50, []⟩], passed := { upTransit := 8 } }
    s.office.holding = none ∧ s.office.partnerPaused = false ∧
    sourcesOf .office = [.response, .notice, .record] ++ .upTransit :: [] ∧ s.ready .upTransit = true ∧
    8 ≤ s.passed.count .upTransit ∧ (∀ y ∈ [Source.response, .notice, .record], s.passed.count y < 8) ∧
    (sourcesOf .office = [.response, .notice] ++ .record :: [.upTransit] ∧ s.ready .record = true ∧
      ∀ y ∈ [Source.response, .notice], s.ready y = false) ∧
    (∀ x ∈ sourcesOf .office, State.reset.ready x = false) ∧
    (let f : Frame := ⟨4, 121, 0x22, []⟩
     let ps := { PortState.cleared [] with holding := some f }
     ps.holding = some f ∧ ps.position = 0 ∧ f.characters[0]? = some 0x101 ∧ 0 + 1 < f.characters.length ∧
       f.characters[7]? = some 0x102 ∧ 7 + 1 = f.characters.length) := by decide +kernel

theorem witness_FrameSentIsFrameReceived :
    (List.replicate 240 (0 : Byte)).length ≤ 240 ∧ State.reset.line.rx = .outside false ∧ State.reset.line.places < 64 ∧
    (crowded 47).places < 64 ∧ State.reset.line.queue.length < 16 ∧ State.reset.line.held = [] ∧
    (List.replicate 7 (1 : Byte)).length = 7 * (1 : Byte).toNat ∧ (List.replicate 56 (1 : Byte)).length = 7 * (8 : Byte).toNat ∧
    8 < (9 : Byte).toNat := by decide +kernel

/-- spec/08 R160: a TAP, a BEACON and a TABLE_SEEK read from the bytes of their layouts, and a VERDICT, a SHORTAGE notice
and a DENY_ADD response written in theirs. -/
theorem test_layouts :
    readTap [0, 0, 0, 0, 0, 0, 9, 3, 5, 2, 1, 1, 156, 2, 218, 128, 1] = ⟨9, 3, 5, 2, 1, 412, 187008, 1⟩ ∧
    readBeacon [1, 156, 2, 218, 128] = (412, 187008) ∧ readRequest [0x10, 3, 1, 2] = .tableSeek 3 258 ∧
    (⟨5, 2, 9, .refuse, .denied, none, some 258⟩ : Verdict).payload = [0, 0, 0, 0, 0, 0, 9, 2, 3, 1, 2, 0, 0, 1, 2] ∧
    (⟨.shortage 256, 1, 187008⟩ : Notice).payload = [1, 0, 1, 2, 218, 128, 1, 0, 0, 0, 0, 0, 0, 0, 0, 0] ∧
    (⟨127, 0x18, .listFull, .deny 2 4096⟩ : Response).payload = [0x18, 7, 2, 16, 0] := by decide +kernel

/-! Witnesses of the statements on fares and caps. -/

theorem witness_FaresFollowTheirStages :
    bandsInUse line = [⟨50, 40⟩] ++ ⟨150, 25⟩ :: [⟨400, 15⟩] ∧
    (bandsInUse line).Pairwise (fun x y => x.upperLimit < y.upperLimit) ∧
    ((∀ x ∈ [FareBandEntry.mk 50 40], x.upperLimit ≤ 50) ∧ 149 < 150) ∧
    dayBands line .workday = [⟨true, 0, 100⟩] ++ ⟨true, 240, 130⟩ ::
      [⟨true, 420, 100⟩, ⟨true, 780, 130⟩, ⟨true, 960, 100⟩, ⟨false, 0, 0⟩] ∧
    (∀ x ∈ [TimeBandEntry.mk true 420 100, ⟨true, 780, 130⟩, ⟨true, 960, 100⟩, ⟨false, 0, 0⟩], x.inUse = true →
      240 < x.startMinute) ∧
    1 ≤ (classLookup line 3).entry.step ∧ (classLookup line 0).entry.payable ≤ 100 ∧
    (line.stations.entries[4 - 1]? = some ⟨true, 9875, false⟩ ∧ (line.stations.entries[64 - 1]?.map (·.inUse)) = some false ∧
      2 ≤ (line.stations.entries.filter (·.inUse)).length) := by decide

/-- Card A's account behind another card's on their chain of the day. -/
def shared : CapTable :=
  ⟨[(0, ⟨cardA, 412, 1200, 1100, 2, none⟩), (1, ⟨cardZ, 412, 1200, 0, 1, some 0⟩)], [(1613, ⟨412, 1⟩)], 2⟩

/-- spec/06 R120, R121: an account behind another is found and cut; a card without one is put before the old head. -/
theorem test_shared_bucket :
    let s := { day412 0 with cap := shared }
    (s.charge cardA 412 1200 240).1 = .charged 100 1200 1200 ∧
      (s.charge 0x04A1C3F29B6E11 412 1200 240).1 = .charged 240 1200 240 ∧
      ((s.charge 0x04A1C3F29B6E11 412 1200 240).2.cap.accounts.map fun x => (x.1, x.2.next)) =
        [(0, none), (1, some 0), (2, some 1)] := by decide +kernel

theorem witness_CapChargeCutsTheAccount :
    411 ≠ (day412 0).today ∧
    (let s := { day412 0 with cap := shared }
     let x : Nat × Account := (1, ⟨cardZ, 412, 1200, 0, 1, some 0⟩)
     sparseGet s.cap.buckets (accountBucketOf cardA) = some ⟨s.today, 1⟩ ∧
       s.cap.Leads (some 1) [x] (some 0) ∧ x.2.token ≠ cardA ∧
       sparseGet s.cap.accounts 0 = some ⟨cardA, 412, 1200, 1100, 2, none⟩ ∧
       s.cap.Leads (some 1) [x, (0, ⟨cardA, 412, 1200, 1100, 2, none⟩)] none ∧
       accountBucketOf 0x04A1C3F29B6E11 = accountBucketOf cardA ∧ s.cap.hint < 8192) ∧
    (day412 0).cap.hint < 8192 ∧ sparseGet (day412 0).cap.buckets (accountBucketOf cardB) = none ∧
    sparseGet (day412 0).cap.accounts (((day412 0).cap.hint + 0) % 8192) = none ∧
    (let full := (List.range 8192).map fun n => (n, Account.mk cardA 412 1200 0 1 none)
     ∀ n, n < 8192 → ∃ a, (n, a) ∈ full ∧ a.day = 412) :=
  ⟨by decide, ⟨rfl, ⟨rfl, rfl, rfl⟩, by decide, rfl, ⟨rfl, rfl, rfl, rfl, rfl⟩, by decide, by decide⟩, by decide,
    by decide, by decide, fun n h => ⟨_, List.mem_map.2 ⟨n, List.mem_range.2 h, rfl⟩, rfl⟩⟩

end Sys2Proof.Tests
end

section
/-! PROOFS. Reckoning a fare (spec/01): what each stage of the Fare Reckoner gives, by its meaning, and the records that
the settlements fill. -/

namespace Sys2Proof.Machine

/-! ### Distances (R5, R20) -/

/-- The greatest of a list that is not empty is its greatest member. -/
theorem greatest_spec {ns : List Nat} (h : ns ≠ []) : greatest ns ∈ ns ∧ ∀ n ∈ ns, n ≤ greatest ns := by
  obtain ⟨m, hm⟩ := Option.ne_none_iff_exists'.1 (mt List.max?_eq_none_iff.1 h)
  have hg : greatest ns = m := by simp [greatest, List.foldl_max, hm]
  rw [hg]
  exact List.max?_eq_some_iff.1 hm

/-- The greatest image of a list that is not empty is the image of a member, and above that of each. -/
theorem greatest_map_spec {α : Type} {xs : List α} (h : xs ≠ []) (f : α → Nat) :
    (∃ x ∈ xs, greatest (xs.map f) = f x) ∧ ∀ x ∈ xs, f x ≤ greatest (xs.map f) := by
  obtain ⟨mem, above⟩ := greatest_spec (mt List.map_eq_nil_iff.1 h : xs.map f ≠ [])
  obtain ⟨x, hx, he⟩ := List.mem_map.1 mem
  exact ⟨⟨x, hx, he.symm⟩, fun y hy => above _ (List.mem_map_of_mem hy)⟩

theorem distanceBetween_eq (a c : Nat) : distanceBetween a c = max a c - min a c := by
  unfold distanceBetween
  split <;> omega

/-- The entry of a station whose number the table holds. -/
theorem stationEntry_of_listed {b : Bank} {n : Nat} {e : StationEntry} (hn : 1 ≤ n)
    (h : b.stations.entries[n - 1]? = some e) : stationEntry b n = e := by
  unfold stationEntry
  rw [if_neg (by omega), List.getD_eq_getElem?_getD, h, Option.getD_some]

/-- A station whose entry is not in use, or that has none, is not in use. -/
theorem stationInUse_eq_false {b : Bank} {n : Nat}
    (h : n = 0 ∨ ∀ e, b.stations.entries[n - 1]? = some e → e.inUse = false) : stationInUse b n = false := by
  unfold stationInUse stationEntry
  split
  · rfl
  · rename_i hn
    rw [List.getD_eq_getElem?_getD]
    cases he : b.stations.entries[n - 1]? with
    | none => rfl
    | some e => exact (h.resolve_left hn) e he

/-- A leg between two stations in use is the difference of their chainages (R5). -/
theorem legMetres_of_inUse {b : Bank} {m n : Nat} (hm : stationInUse b m = true) (hn : stationInUse b n = true) :
    legMetres b m n = max (stationEntry b m).chainage (stationEntry b n).chainage -
      min (stationEntry b m).chainage (stationEntry b n).chainage := by
  unfold legMetres
  rw [if_pos (by rw [hm, hn]; rfl), distanceBetween_eq]

/-- A leg that touches a station not in use is the span of the line (R5). -/
theorem legMetres_of_out {b : Bank} {m n : Nat} (h : stationInUse b m = false ∨ stationInUse b n = false) :
    legMetres b m n = lineSpan b := by
  unfold legMetres
  rw [if_neg (by rcases h with h | h <;> simp [h])]

/-- The stations of a bank that are in use. -/
abbrev Bank.inUse (b : Bank) : List StationEntry := b.stations.entries.filter (·.inUse)

/-- The greatest distance from a chainage, by the stations in use (R5, R20). -/
theorem farthestFrom_spec {b : Bank} (h : b.inUse ≠ []) (c : Nat) :
    (∃ e ∈ b.inUse, farthestFrom c (chainages b) = max c e.chainage - min c e.chainage) ∧
      ∀ e ∈ b.inUse, max c e.chainage - min c e.chainage ≤ farthestFrom c (chainages b) := by
  have hf : farthestFrom c (chainages b) =
      greatest (b.inUse.map fun e => max c e.chainage - min c e.chainage) := by
    unfold farthestFrom chainages
    rw [List.map_map]
    exact congrArg greatest (List.map_congr_left fun e _ => distanceBetween_eq c e.chainage)
  rw [hf]
  exact greatest_map_spec h _

/-- The span of a line with two stations in use is the greatest distance between any two (R5). -/
theorem lineSpan_spec {b : Bank} (h : 2 ≤ b.inUse.length) :
    (∀ e ∈ b.inUse, ∀ f ∈ b.inUse, e.chainage - f.chainage ≤ lineSpan b) ∧
      ∃ e ∈ b.inUse, ∃ f ∈ b.inUse, lineSpan b = e.chainage - f.chainage := by
  have ne : b.inUse ≠ [] := List.ne_nil_of_length_pos (by omega)
  have hl : lineSpan b = greatest (b.inUse.map fun e => farthestFrom e.chainage (chainages b)) := by
    have hc : ¬(chainages b).length < 2 := by
      rw [chainages, List.length_map]
      exact Nat.not_lt.2 h
    unfold lineSpan
    simp only [if_neg hc]
    conv => lhs; unfold chainages
    rw [List.map_map]
    rfl
  obtain ⟨⟨e, he, hspan⟩, above⟩ := greatest_map_spec ne fun e => farthestFrom e.chainage (chainages b)
  rw [hl]
  constructor
  · intro e he f hf
    have near := (farthestFrom_spec ne e.chainage).2 f hf
    have far := above e he
    omega
  · obtain ⟨⟨f, hf, hfar⟩, -⟩ := farthestFrom_spec ne e.chainage
    rcases Nat.le_total e.chainage f.chainage with c | c
    · exact ⟨f, hf, e, he, by rw [hspan, hfar]; omega⟩
    · exact ⟨e, he, f, hf, by rw [hspan, hfar]; omega⟩

/-- An exit without entry at a station in use is priced over the greatest distance from it to any (R20). -/
theorem unmatchedMetres_spec {b : Bank} {n : Nat} {e : StationEntry} (hn : 1 ≤ n)
    (listed : b.stations.entries[n - 1]? = some e) (inUse : e.inUse = true) :
    (∃ f ∈ b.inUse, unmatchedMetres b n = max e.chainage f.chainage - min e.chainage f.chainage) ∧
      ∀ f ∈ b.inUse, max e.chainage f.chainage - min e.chainage f.chainage ≤ unmatchedMetres b n := by
  have he := stationEntry_of_listed hn listed
  have mem : e ∈ b.inUse := List.mem_filter.2 ⟨List.mem_of_getElem? listed, inUse⟩
  have hu : unmatchedMetres b n = farthestFrom e.chainage (chainages b) := by
    simp [unmatchedMetres, stationInUse, he, inUse]
  rw [hu]
  exact farthestFrom_spec (List.ne_nil_of_mem mem) _

/-! ### The fare distance and the distance fare (R6 to R8) -/

/-- Nothing is added for the hectometres of bands that all lie beyond the fare distance. -/
theorem bandCharges_beyond (fd : Nat) : ∀ (bands : List FareBandEntry) (edge : Nat), fd ≤ edge →
    (∀ x ∈ bands, fd ≤ x.upperLimit) → bandCharges fd edge bands = 0 := by
  intro bands
  induction bands with
  | nil => intro edge _ _; rfl
  | cons e rest ih =>
    intro edge h beyond
    have he := beyond e (by simp)
    have own : min fd e.upperLimit - edge = 0 := by omega
    cases rest with
    | nil => simp [bandCharges, own, Nat.sub_eq_zero_of_le he]
    | cons f rest =>
      simp only [bandCharges, own, Nat.mul_zero, Nat.zero_add]
      exact ih e.upperLimit he fun x hx => beyond x (List.mem_cons_of_mem _ hx)

/-- One hectometre more adds the rate of the band it lies in, the last band's beyond its limit (R8). -/
theorem bandCharges_succ {fd : Nat} {e : FareBandEntry} {after : List FareBandEntry}
    (lies : fd < e.upperLimit ∨ after = []) (rises : ∀ x ∈ after, e.upperLimit ≤ x.upperLimit) :
    ∀ (before : List FareBandEntry) (edge : Nat), edge ≤ fd → (∀ x ∈ before, x.upperLimit ≤ fd) →
      bandCharges (fd + 1) edge (before ++ e :: after) = bandCharges fd edge (before ++ e :: after) + e.rate := by
  intro before
  induction before with
  | nil =>
    intro edge hedge _
    cases after with
    | nil =>
      have more : min (fd + 1) e.upperLimit - edge + (fd + 1 - e.upperLimit) =
          min fd e.upperLimit - edge + (fd - e.upperLimit) + 1 := by omega
      simp only [List.nil_append, bandCharges, ← Nat.mul_add, more, Nat.mul_add_one]
    | cons f rest =>
      have below : fd < e.upperLimit := lies.resolve_right (by simp)
      have more : min (fd + 1) e.upperLimit - edge = min fd e.upperLimit - edge + 1 := by omega
      have beyond : ∀ k ≤ fd + 1, bandCharges k e.upperLimit (f :: rest) = 0 := fun k hk =>
        bandCharges_beyond k _ _ (by omega) fun x hx => by have := rises x hx; omega
      simp only [List.nil_append, bandCharges, more, beyond (fd + 1) (by omega), beyond fd (by omega), Nat.mul_add,
        Nat.mul_one, Nat.add_zero]
  | cons x rest ih =>
    intro edge _ passed
    have hx := passed x (by simp)
    have step : ∀ k, bandCharges k edge (x :: (rest ++ e :: after)) =
        x.rate * (min k x.upperLimit - edge) + bandCharges k x.upperLimit (rest ++ e :: after) := by
      intro k
      cases rest <;> rfl
    have same : min (fd + 1) x.upperLimit = min fd x.upperLimit := by omega
    rw [List.cons_append, step, step, same, ih x.upperLimit hx fun y hy => passed y (List.mem_cons_of_mem _ hy)]
    omega

/-- A fare scale with a band in use adds its bands' charges to the boarding charge (R7, R8). -/
theorem distanceFare_of_bands {b : Bank} (h : bandsInUse b ≠ []) (fd : Nat) :
    distanceFare b fd = (constantsOf b).boardingCharge + bandCharges fd 0 (bandsInUse b) := by
  unfold distanceFare
  rw [if_neg h]

/-- The fare distance is the metres in hectometres, rounded up, and at least the minimum (R6). -/
theorem fareDistance_spec (b : Bank) (metres : Nat) :
    metres ≤ 100 * fareDistance b metres ∧ (constantsOf b).minimumDistance ≤ fareDistance b metres ∧
      ((constantsOf b).minimumDistance < fareDistance b metres → 100 * fareDistance b metres < metres + 100) := by
  unfold fareDistance
  omega

/-! ### The percent, the peak fare and the class fare (R9 to R12) -/

/-- The percent in force is that of the last band in use that starts at or before the minute (R9). -/
theorem peakPercent_of_last {b : Bank} {d : DayType} {minute : Nat} {before after : List TimeBandEntry}
    {e : TimeBandEntry} (bands : dayBands b d = before ++ e :: after) (inUse : e.inUse = true)
    (starts : e.startMinute ≤ minute) (last : ∀ x ∈ after, x.inUse = true → minute < x.startMinute) :
    peakPercent b d minute = e.percent := by
  have none_after : after.filter (fun x => x.inUse && decide (x.startMinute ≤ minute)) = [] := by
    rw [List.filter_eq_nil_iff]
    intro x hx h
    simp only [Bool.and_eq_true, decide_eq_true_eq] at h
    have := last x hx h.1
    omega
  simp [peakPercent, bands, none_after, inUse, starts]

/-- The peak fare is the nearest mill, halves up, and at most the ceiling (R10, R11). -/
theorem peakFare_spec (b : Bank) (df percent : Nat) :
    peakFare b df percent ≤ (constantsOf b).fareCeiling * 10 ∧
    (df * percent + 50 < 100 * ((constantsOf b).fareCeiling * 10) + 100 →
      100 * peakFare b df percent ≤ df * percent + 50 ∧ df * percent + 50 < 100 * peakFare b df percent + 100) ∧
    (100 * ((constantsOf b).fareCeiling * 10) + 100 ≤ df * percent + 50 →
      peakFare b df percent = (constantsOf b).fareCeiling * 10) := by
  unfold peakFare ceilingMills
  generalize df * percent = x
  omega

/-- The class fare is the greatest multiple of the step that is not above the payable part (R12). -/
theorem classFare_spec {e : ClassEntry} (h : 1 ≤ e.step) (mills : Nat) :
    classFare e mills % e.step = 0 ∧ 1000 * classFare e mills ≤ mills * e.payable ∧
      mills * e.payable < 1000 * (classFare e mills + e.step) := by
  have hc : classFare e mills = mills * e.payable / (1000 * e.step) * e.step := by
    unfold classFare
    rw [if_neg (by omega)]
  have low := Nat.div_mul_le_self (mills * e.payable) (1000 * e.step)
  have high := Nat.lt_div_mul_add (a := mills * e.payable) (b := 1000 * e.step) (by omega)
  rw [hc]
  generalize mills * e.payable / (1000 * e.step) = q at *
  refine ⟨Nat.mul_mod_left _ _, ?_, ?_⟩ <;> nlinarith

/-- No class fare of a payable part of the whole or less lies above the ceiling (R11, R12). -/
theorem classFare_le_ceiling {b : Bank} {e : ClassEntry} {mills : Nat} (step : 1 ≤ e.step) (payable : e.payable ≤ 100)
    (h : mills ≤ (constantsOf b).fareCeiling * 10) : classFare e mills ≤ (constantsOf b).fareCeiling := by
  have below := (classFare_spec step mills).2.1
  have most := Nat.mul_le_mul h payable
  omega

/-- Settles O59: each stage by the lemma that says what it gives; the distance fare by induction over the bands. -/
theorem faresFollowTheirStages : Obligations.FaresFollowTheirStages := by
  unfold Obligations.FaresFollowTheirStages
  refine ⟨fun b d minute fd e => ⟨rfl, rfl, by cases d <;> rfl, ?_⟩, fun b => ⟨?_, ?_, ?_, ?_, ?_, ?_⟩,
    fun b => ⟨?_, ?_, ?_, peakFare_spec b, ?_⟩⟩
  · intro c hc
    rw [constantsOf, List.getD_eq_getElem?_getD, hc, Option.getD_some]
  · rintro m n c d ⟨hm, p, hp⟩ ⟨hn, q, hq⟩
    have em := stationEntry_of_listed hm hp
    have en := stationEntry_of_listed hn hq
    rw [legMetres_of_inUse (by rw [stationInUse, em]) (by rw [stationInUse, en]), em, en]
  · exact fun m n h => legMetres_of_out (h.imp stationInUse_eq_false stationInUse_eq_false)
  · exact fun h => lineSpan_spec h
  · rintro n c ⟨hn, p, hp⟩
    exact (unmatchedMetres_spec hn hp rfl).symm
  · intro n h
    rw [unmatchedMetres, stationInUse_eq_false h]
    rfl
  · exact fareDistance_spec b
  · intro h
    rw [distanceFare_of_bands h, bandCharges_beyond 0 _ 0 (Nat.le_refl _) fun x _ => Nat.zero_le _, Nat.add_zero]
  · intro fd before e after split rises passed lies
    have ne : bandsInUse b ≠ [] := by simp [split]
    have later : ∀ x ∈ after, e.upperLimit ≤ x.upperLimit := by
      rw [split, List.pairwise_append, List.pairwise_cons] at rises
      exact fun x hx => Nat.le_of_lt (rises.2.1.1 x hx)
    rw [distanceFare_of_bands ne, distanceFare_of_bands ne, split,
      bandCharges_succ lies later before 0 (Nat.zero_le _) passed, Nat.add_assoc]
  · exact fun d minute before e after => peakPercent_of_last
  · intro e df percent step payable
    obtain ⟨multiple, below, above⟩ := classFare_spec step (peakFare b df percent)
    exact ⟨multiple, below, above, classFare_le_ceiling step payable (peakFare_spec b df percent).1⟩

/-! ### The records settlements fill (R1 to R3, R17 to R22) -/

/-- A class in use gives itself and its entry (R3). -/
theorem classLookup_inUse {b : Bank} {n : Nat} {e : ClassEntry} (range : n ≤ 15)
    (listed : b.classes.entries[n]? = some e) (inUse : e.inUse = true) : classLookup b n = ⟨n, e, false⟩ := by
  simp [classLookup, listed, range, inUse]

/-- Class 0 is substituted for a class that is not in use or out of range (R3). -/
theorem classLookup_substituted {b : Bank} {n : Nat} {zero : ClassEntry} (hz : b.classes.entries[0]? = some zero)
    (h : n ≤ 15 → ∃ e, b.classes.entries[n]? = some e ∧ e.inUse = false) : classLookup b n = ⟨0, zero, true⟩ := by
  have out : ¬(n ≤ 15 ∧ (b.classes.entries.getD n {}).inUse = true) := by
    rintro ⟨range, inUse⟩
    obtain ⟨e, he, off⟩ := h range
    rw [List.getD_eq_getElem?_getD, he, Option.getD_some, off] at inUse
    cases inUse
  unfold classLookup
  rw [if_neg out, List.getD_eq_getElem?_getD (i := 0), hz, Option.getD_some]

/-- A leg that lacks an end, or has its metres, is not measured (R2). -/
theorem RecordLeg.measured_of_settled (b : Bank) {l : RecordLeg} (h : l.entry = none ∨ l.exit = none ∨ l.metres ≠ none) :
    l.measured b = l := by
  unfold RecordLeg.measured
  split
  · simp at h
  · rfl

/-- A same-station exit within the grace is cancelled, charged 0 (R17). -/
theorem State.reckon_withinGrace (s : State) {q : SettlementRequest} {station entry exit : Nat}
    (case : q.case = .sameStation station entry exit)
    (h : exit - entry ≤ (constantsOf s.tariff.liveBank).sameStationGrace * 600) :
    s.reckon q = ⟨q.record s.doubtFlag (classLookup s.tariff.liveBank q.cls) .entryCancelled
      [⟨some ⟨station, entry⟩, some ⟨station, exit⟩, some 0⟩] none 0, none⟩ := by
  unfold State.reckon
  simp only [case, if_pos h]

/-- A same-station exit beyond the grace is charged the same-station fee, and tested for Stage Five (R18). -/
theorem State.reckon_beyondGrace (s : State) {q : SettlementRequest} {station entry exit : Nat}
    (case : q.case = .sameStation station entry exit)
    (h : (constantsOf s.tariff.liveBank).sameStationGrace * 600 < exit - entry) :
    s.reckon q = s.testCap (classLookup s.tariff.liveBank q.cls).entry.dailyCap
      (q.record s.doubtFlag (classLookup s.tariff.liveBank q.cls) .complete
        [⟨some ⟨station, entry⟩, some ⟨station, exit⟩, some 0⟩] (some ⟨0, 0, 100⟩)
        (constantsOf s.tariff.liveBank).sameStationFee) := by
  unfold State.reckon
  simp only [case, if_neg (Nat.not_le.2 h)]

/-- Settles O43: by the class lookup, the grace of a same-station exit, and the reckoning as written for each case. -/
theorem settlementsFillTheirRecords : Obligations.SettlementsFillTheirRecords := by
  unfold Obligations.SettlementsFillTheirRecords
  refine ⟨fun b n zero hz => ⟨fun e range listed => ⟨classLookup_inUse range listed, fun off => ?_⟩, fun high => ?_⟩,
    fun _ _ => rfl, fun s token cls day flags => ⟨fun _ _ _ => rfl, fun station entry exit => ⟨?_, ?_⟩, fun _ => rfl,
      fun _ _ => rfl⟩, fun _ _ _ => rfl, fun b _ => RecordLeg.measured_of_settled b⟩
  · exact classLookup_substituted hz fun _ => ⟨e, listed, off⟩
  · exact classLookup_substituted hz fun range => absurd range (by omega)
  · exact fun h => s.reckon_withinGrace rfl h
  · exact fun h => s.reckon_beyondGrace rfl h

end Sys2Proof.Machine
end

section
/-! PROOFS. The Cap Table (spec/06) and Stage Five (R13 to R15): what a charge answers and writes, by what the card's chain
of accounts holds. -/

namespace Sys2Proof.Machine

/-! ### Finding an account (R120, R121) -/

/-- A card's current account is found wherever it lies on its chain (R120). -/
theorem accountLookup_found {c : CapTable} {today n : Nat} {token : Token} {a : Account}
    {before : List (Nat × Account)} (leads : c.Leads (c.currentHead today (accountBucketOf token)) before (some n))
    (len : before.length < 8192) (others : ∀ x ∈ before, x.2.token ≠ token)
    (listed : sparseGet c.accounts n = some a) (own : a.token = token) :
    accountLookup c today token = some (n, a) := by
  unfold accountLookup
  rw [show Config.accountCount = before.length + ((8191 - before.length) + 1) by simp only [Config.accountCount]; omega,
    accountWalk_passes c token _ _ _ _ leads others]
  simp only [accountWalk, listed, own, if_true]

/-- A chain without the card's token ends without an account (R120). -/
theorem accountLookup_none {c : CapTable} {today : Nat} {token : Token} {before : List (Nat × Account)}
    (leads : c.Leads (c.currentHead today (accountBucketOf token)) before none) (len : before.length ≤ 8192)
    (others : ∀ x ∈ before, x.2.token ≠ token) : accountLookup c today token = none := by
  unfold accountLookup
  rw [show Config.accountCount = before.length + (8192 - before.length) by simp only [Config.accountCount]; omega,
    accountWalk_passes c token _ _ _ _ leads others]
  cases 8192 - before.length <;> rfl

/-- An account is free unless it is of the current day (R117). -/
theorem accountFree_iff (c : CapTable) (today n : Nat) :
    accountFree c today n = true ↔ ¬∃ a, sparseGet c.accounts n = some a ∧ a.day = today := by
  unfold accountFree
  cases sparseGet c.accounts n <;> simp

/-- The number after an account's, wrapping (R121). -/
theorem next_account (n : Nat) (h : n < 8192) :
    (if n + 1 < Config.accountCount then n + 1 else 0) = (n + 1) % 8192 := by
  simp only [Config.accountCount]
  split <;> omega

/-- The search for a free account goes upward, wrapping, and takes the first (R121). -/
theorem findFree_first {c : CapTable} {today : Nat} : ∀ (k fuel n : Nat), n < 8192 → k < fuel →
    accountFree c today ((n + k) % 8192) = true → (∀ j < k, accountFree c today ((n + j) % 8192) = false) →
    findFree c today fuel n = some ((n + k) % 8192) := by
  intro k
  induction k with
  | zero =>
    intro fuel n hn hk free _
    obtain ⟨fuel, rfl⟩ := Nat.exists_eq_succ_of_ne_zero (by omega : fuel ≠ 0)
    have here : (n + 0) % 8192 = n := Nat.mod_eq_of_lt hn
    rw [here] at free ⊢
    simp only [findFree, free, if_true]
  | succ k ih =>
    intro fuel n hn hk free taken
    obtain ⟨fuel, rfl⟩ := Nat.exists_eq_succ_of_ne_zero (by omega : fuel ≠ 0)
    have shift : ∀ j, ((n + 1) % 8192 + j) % 8192 = (n + (j + 1)) % 8192 := by omega
    have here : accountFree c today n = false := by
      have := taken 0 (by omega)
      rwa [Nat.add_zero, Nat.mod_eq_of_lt hn] at this
    simp only [findFree, here, next_account n hn, Bool.false_eq_true, if_false]
    rw [ih fuel ((n + 1) % 8192) (by omega) (by omega) (by rwa [shift]) fun j hj => by
      rw [shift]; exact taken (j + 1) (by omega), shift]

/-- With every account current no account is found free (R122). -/
theorem findFree_none {c : CapTable} {today : Nat} (taken : ∀ n < 8192, accountFree c today n = false) :
    ∀ (fuel n : Nat), n < 8192 → findFree c today fuel n = none := by
  intro fuel
  induction fuel with
  | zero => intro n _; rfl
  | succ fuel ih =>
    intro n hn
    simp only [findFree, taken n hn, next_account n hn, Bool.false_eq_true, if_false]
    exact ih _ (by omega)

/-- The account that an opening writes for a card: nothing spent, and the old head of its bucket after it (R121). -/
def CapTable.freshAccount (c : CapTable) (today : Nat) (token : Token) (cap : Nat) : Account :=
  ⟨token, today, cap, 0, 0, c.currentHead today (accountBucketOf token)⟩

/-- The first free account is opened at the head of its bucket, and the hint moves past it (R121). -/
theorem openAccount_first {c : CapTable} {today n : Nat} (search : findFree c today Config.accountCount c.hint = some n)
    (hn : n < 8192) (token : Token) (cap : Nat) :
    openAccount c today token cap = some (n, c.freshAccount today token cap,
      ⟨sparsePut c.accounts n (c.freshAccount today token cap),
        sparsePut c.buckets (accountBucketOf token) ⟨today, n⟩, (n + 1) % 8192⟩) := by
  unfold openAccount
  rw [search, ← next_account n hn]
  rfl

/-- With no free account none is opened (R122). -/
theorem openAccount_none {c : CapTable} {today : Nat} (search : findFree c today Config.accountCount c.hint = none)
    (token : Token) (cap : Nat) : openAccount c today token cap = none := by
  unfold openAccount
  rw [search]

/-- An account just opened is cut by the fare or its whole cap (R123). -/
theorem cutAccount_fresh (c d : CapTable) (today n : Nat) (token : Token) (cap fare : Nat) :
    cutAccount d n (c.freshAccount today token cap) fare = (.charged (min fare cap) cap (min fare cap),
      { d with accounts := sparsePut d.accounts n
                { c.freshAccount today token cap with spent := min fare cap, journeys := 1 } }) := by
  simp [cutAccount, CapTable.freshAccount]

/-! ### A charge (R119 to R123) -/

/-- A record of another day is STALE_DAY, and nothing changes (R119). -/
theorem State.charge_staleDay {s : State} {day : Nat} (h : day ≠ s.today) (token : Token) (cap fare : Nat) :
    s.charge token day cap fare = (.staleDay, s) := by
  unfold State.charge
  rw [if_pos h]

/-- The card's current account is cut (R120, R123). -/
theorem State.charge_account {s : State} {token : Token} {n : Nat} {a : Account}
    (found : accountLookup s.cap s.today token = some (n, a)) (cap fare : Nat) :
    s.charge token s.today cap fare =
      ((cutAccount s.cap n a fare).1, { s with cap := (cutAccount s.cap n a fare).2 }) := by
  unfold State.charge
  rw [if_neg (fun h => h rfl)]
  simp only [found]

/-- A card without a current account is given one, which is cut (R121, R123). -/
theorem State.charge_opened {s : State} {token : Token} {cap n : Nat} {a : Account} {c : CapTable}
    (found : accountLookup s.cap s.today token = none) (opened : openAccount s.cap s.today token cap = some (n, a, c))
    (fare : Nat) :
    s.charge token s.today cap fare = ((cutAccount c n a fare).1, { s with cap := (cutAccount c n a fare).2 }) := by
  unfold State.charge
  rw [if_neg (fun h => h rfl)]
  simp only [found, opened]

/-- With no account to be had the charge is NO_ACCOUNT, and counted (R122). -/
theorem State.charge_noAccount {s : State} {token : Token} {cap : Nat}
    (found : accountLookup s.cap s.today token = none) (full : openAccount s.cap s.today token cap = none) (fare : Nat) :
    s.charge token s.today cap fare =
      (.noAccount, { s with counters := { s.counters with capUntracked := raised s.counters.capUntracked } }) := by
  unfold State.charge
  rw [if_neg (fun h => h rfl)]
  simp only [found, full]

/-! ### Stage Five (R13 to R15) -/

/-- A class without a cap keeps its class fare, and no account is asked for (R13). -/
theorem State.capStage_zero (s : State) (r : JourneyRecord) : s.capStage 0 r = (⟨r, none⟩, s) := rfl

/-- A capped record of another day is uncapped at the test (R15, R125). -/
theorem State.testCap_otherDay {s : State} {cap : Nat} {r : JourneyRecord} (hc : cap ≠ 0) (h : r.day ≠ s.today) :
    s.testCap cap r = ⟨r.uncapped, none⟩ := by
  unfold State.testCap
  rw [if_neg hc, if_pos h]

/-- A capped record of the current day goes to the Cap Table (R13). -/
theorem State.testCap_today {s : State} {cap : Nat} {r : JourneyRecord} (hc : cap ≠ 0) (h : r.day = s.today) :
    s.testCap cap r = ⟨r, some cap⟩ := by
  unfold State.testCap
  rw [if_neg hc, if_neg (fun k => k h)]

/-- A record whose account was cut is charged the cut (R14). -/
theorem State.chargeRecord_charged {s t : State} {r : JourneyRecord} {cap amount recorded spent : Nat}
    (h : s.charge r.token r.day cap r.classFare = (.charged amount recorded spent, t)) :
    s.chargeRecord ⟨r, some cap⟩ = (⟨{ r with charged := amount, capSpent := some spent }, some recorded⟩, t) := by
  simp only [State.chargeRecord, h]

/-- A record without an account is charged its class fare uncapped (R15). -/
theorem State.chargeRecord_noAccount {s t : State} {r : JourneyRecord} {cap : Nat}
    (h : s.charge r.token r.day cap r.classFare = (.noAccount, t)) :
    s.chargeRecord ⟨r, some cap⟩ = (⟨r.uncapped, none⟩, t) := by
  simp only [State.chargeRecord, h]

/-- A record whose day has passed since its test is charged its class fare uncapped (R15, R119). -/
theorem State.chargeRecord_staleDay {s : State} {r : JourneyRecord} (h : r.day ≠ s.today) (cap : Nat) :
    s.chargeRecord ⟨r, some cap⟩ = (⟨r.uncapped, none⟩, s) := by
  simp only [State.chargeRecord, State.charge_staleDay h]

/-- Settles O60: by what the lookup of the card's account and the search for a free one give, and what the cut writes. -/
theorem capChargeCutsTheAccount : Obligations.CapChargeCutsTheAccount := by
  unfold Obligations.CapChargeCutsTheAccount
  refine ⟨fun s token day cap fare => ?_, fun s cap r => ?_⟩
  · intro bucket head
    have hhead : s.cap.currentHead s.today bucket = head := by
      simp only [CapTable.currentHead, head]
      cases sparseGet s.cap.buckets bucket <;> rfl
    rw [← hhead]
    refine ⟨fun h => State.charge_staleDay h token cap fare, ?_, ?_⟩
    · rintro before n a rfl leads len others listed own
      exact ⟨_, State.charge_account (accountLookup_found leads len others listed own) cap fare,
        sparseGet_put_self _ _ _, fun m hm => sparseGet_put_other _ _ _ _ hm, rfl, rfl⟩
    · rintro before rfl hint leads len others
      have found := accountLookup_none leads len others
      refine ⟨fun k hk free taken => ?_, fun full => ?_⟩
      · have search := findFree_first (c := s.cap) (today := s.today) k 8192 s.cap.hint hint hk
          ((accountFree_iff _ _ _).2 free) fun j hj =>
            Bool.eq_false_iff.2 fun h => (accountFree_iff _ _ _).1 h (taken j hj)
        rw [State.charge_opened found (openAccount_first search (Nat.mod_lt _ (by omega)) token cap) fare,
          cutAccount_fresh]
        exact ⟨_, rfl, sparseGet_put_self _ _ _,
          fun m hm => (sparseGet_put_other _ _ _ _ hm).trans (sparseGet_put_other _ _ _ _ hm),
          sparseGet_put_self _ _ _, fun b hb => sparseGet_put_other _ _ _ _ hb, rfl⟩
      · have search := findFree_none (c := s.cap) (today := s.today)
          (fun n hn => Bool.eq_false_iff.2 fun h => (accountFree_iff _ _ _).1 h (full n hn)) 8192 s.cap.hint hint
        exact State.charge_noAccount found (openAccount_none search token cap) fare
  · refine ⟨s.capStage_zero r, fun hc h => ?_, fun h => State.chargeRecord_staleDay h cap, fun hc h => ⟨State.testCap_today hc h, ?_, ?_⟩⟩
    · rw [State.capStage, State.testCap_otherDay hc h]
      rfl
    · intro amount recorded spent t ht
      rw [State.capStage, State.testCap_today hc h, State.chargeRecord_charged ht]
      exact ⟨rfl, rfl⟩
    · intro t ht
      rw [State.capStage, State.testCap_today hc h, State.chargeRecord_noAccount ht]
      exact ⟨rfl, rfl⟩

end Sys2Proof.Machine
end

section
/-! PROOFS. The Journey Table's operations as rules: what a failed read leaves, what a walk meets, what an unlinking and a
removal from the orphan order write, and what a charge and a reckoning rest on. -/

namespace Sys2Proof.Machine

variable {s : State}

/-! ### Failed reads (R65) -/

/-- A slot of which no record can be read: its check fails, or it is QUARANTINED (R48). -/
def State.Unreadable (s : State) (m : Nat) : Prop :=
  (∃ d, s.slot m = some (.allocated d false)) ∨ s.slot m = some .quarantined

theorem State.readSlot_failed {m : Nat} {d : Content} (h : s.slot m = some (.allocated d false)) :
    s.readSlot m = (none, s.quarantine m) := by
  unfold State.readSlot
  rw [h]

theorem State.readSlot_quarantined {m : Nat} (h : s.slot m = some .quarantined) : s.readSlot m = (none, s) := by
  unfold State.readSlot
  rw [h]

theorem State.quarantine_slot_self (s : State) (m : Nat) : (s.quarantine m).slot m = some .quarantined :=
  sparseGet_put_self _ _ _

theorem State.quarantine_slot_other (s : State) {m j : Nat} (h : j ≠ m) : (s.quarantine m).slot j = s.slot j :=
  sparseGet_put_other _ _ _ _ h

/-- A failed read leaves its slot QUARANTINED, and the other slots and the orphan order as they were (R65). -/
theorem State.Unreadable.readSlot {m : Nat} (h : s.Unreadable m) : ∃ t, s.readSlot m = (none, t) ∧
    t.slot m = some .quarantined ∧ (∀ j, j ≠ m → t.slot j = s.slot j) ∧ t.table.order = s.table.order := by
  rcases h with ⟨d, h⟩ | h
  · exact ⟨_, State.readSlot_failed h, s.quarantine_slot_self m, fun j hj => s.quarantine_slot_other hj, rfl⟩
  · exact ⟨s, State.readSlot_quarantined h, h, fun _ _ => rfl, rfl⟩

theorem State.Unreadable.not_intact {m : Nat} (h : s.Unreadable m) (c : Content) :
    s.slot m ≠ some (.allocated c true) := by
  rcases h with ⟨d, h⟩ | h <;> simp [h]

/-! ### The walk that unlinks (R54, R66) -/

variable {n m : Nat} {token : Token} {before : List (Nat × Content)}

/-- The walk that seeks a record goes on from the last record before which it did not meet it. -/
theorem State.unlink_sought_eq {stop : Option Nat}
    (leads : s.Leads Content.inBucket (s.bucketHead (bucketOf token)) before stop) (len : before.length ≤ 12288)
    (other : ∀ x ∈ before, x.1 ≠ n) :
    s.unlink n token .sought = chainUnlink (bucketOf token) n (12288 - before.length + 1) (lastSlot before) stop s := by
  unfold State.unlink
  dsimp only
  rw [show Config.slotCount + 1 = before.length + (12288 - before.length + 1) by simp only [Config.slotCount]; omega,
    chainUnlink_passes _ _ _ _ _ none _ leads other, Option.or_none]

/-- A walk that ends without meeting the record unlinks nothing. -/
theorem State.unlink_sought_end (leads : s.Leads Content.inBucket (s.bucketHead (bucketOf token)) before none)
    (len : before.length ≤ 12288) (other : ∀ x ∈ before, x.1 ≠ n) : s.unlink n token .sought = s :=
  State.unlink_sought_eq leads len other

/-- A walk that reaches a slot it cannot read cuts the chain there. -/
theorem State.unlink_sought_cut (leads : s.Leads Content.inBucket (s.bucketHead (bucketOf token)) before (some m))
    (len : before.length ≤ 12288) (other : ∀ x ∈ before, x.1 ≠ n) (hm : m ≠ n) {t : State}
    (read : s.readSlot m = (none, t)) :
    s.unlink n token .sought = t.setChainLink (bucketOf token) (lastSlot before) none := by
  rw [State.unlink_sought_eq leads len other]
  simp only [chainUnlink, if_neg hm, read]

/-! ### A record unlinked from its chain (R54) -/

/-- `t` is `s` with the link of bucket `b` after the record in slot `prev`, or at the head where there is none, made to
lead to `next`. -/
structure State.Relinked (s : State) (b : Nat) (prev next : Option Nat) (t : State) : Prop where
  frame : t = { s with table := { s.table with slots := t.table.slots, heads := t.table.heads } }
  slots : sparseWf t.table.slots = true
  others : ∀ m, prev ≠ some m → t.slot m = s.slot m
  intact : ∀ m c, s.slot m = some (.allocated c true) →
    t.slot m = some (.allocated (if prev = some m then c.withNext next else c) true)
  heads : ∀ k, t.bucketHead k = if k = b ∧ prev = none then next else s.bucketHead k

/-- Another bucket's head stays when one is set. -/
theorem State.bucketHead_setBucketHead_other {b k : Nat} (hw : sparseWf s.table.heads = true) (h : k ≠ b)
    (next : Option Nat) : (s.setBucketHead b next).bucketHead k = s.bucketHead k := by
  cases next with
  | none => exact sparseGet_erase_other _ _ _ hw h
  | some x => exact sparseGet_put_other _ _ _ _ h

/-- The link after an intact record, or the head of a bucket, is made to lead on. -/
theorem State.relinked_setChainLink (stored : s.Stored) (b : Nat) {prev : Option Nat}
    (known : ∀ p, prev = some p → ∃ c, s.slot p = some (.allocated c true)) (next : Option Nat) :
    s.Relinked b prev next (s.setChainLink b prev next) := by
  cases prev with
  | none =>
    refine ⟨rfl, stored.slots, fun _ _ => rfl, fun m c hc => hc, fun k => ?_⟩
    by_cases hk : k = b
    · subst hk
      rw [if_pos ⟨rfl, rfl⟩]
      exact s.bucketHead_setBucketHead k next stored.heads
    · rw [if_neg fun h => hk h.1]
      exact State.bucketHead_setBucketHead_other stored.heads hk next
  | some p =>
    obtain ⟨d, hd⟩ := known p rfl
    have eq : s.setChainLink b (some p) next = _ := State.setNext_eq hd next
    rw [eq]
    refine ⟨rfl, sparsePut_wf _ _ _ stored.slots, fun m hm => sparseGet_put_other _ _ _ _ fun e => hm (e ▸ rfl),
      fun m c hc => ?_, fun k => by simp [State.bucketHead]⟩
    by_cases hm : m = p
    · subst hm
      obtain rfl : d = c := by rw [hd] at hc; cases hc; rfl
      simp [State.slot]
    · rw [if_neg (by simpa using Ne.symm hm)]
      exact (sparseGet_put_other _ _ _ _ hm).trans hc

/-- The last of the records on a chain before another is intact. -/
theorem State.Leads.last_intact {f : Content → Option (Option Nat)} {link stop : Option Nat}
    (leads : s.Leads f link before stop) (p : Nat) (h : lastSlot before = some p) :
    ∃ c, s.slot p = some (.allocated c true) := by
  obtain ⟨y, hy, rfl⟩ := Option.map_eq_some_iff.1 h
  exact ⟨y.2, (leads.last y hy).1⟩

/-- A record is unlinked wherever it lies on its chain, its predecessor known or sought. -/
theorem State.relinked_unlink (stored : s.Stored)
    (leads : s.Leads Content.inBucket (s.bucketHead (bucketOf token)) before (some n)) (len : before.length ≤ 12288)
    (other : ∀ x ∈ before, x.1 ≠ n) {p : Predecessor} (hp : p = .sought ∨ p = .known (lastSlot before)) :
    s.Relinked (bucketOf token) (lastSlot before) (s.nextOf n) (s.unlink n token p) := by
  have known := State.relinked_setChainLink stored (bucketOf token) leads.last_intact (s.nextOf n)
  rcases hp with rfl | rfl
  · rw [State.unlink_sought leads len other]
    exact known
  · exact known

theorem Content.inOrder_withNext (c : Content) (next : Option Nat) : (c.withNext next).inOrder = c.inOrder := by
  cases c <;> rfl

/-- The orphan order leads as it did when a bucket chain is relinked, over the records as they then stand. -/
theorem State.Relinked.leads {b : Nat} {prev next : Option Nat} {t : State} (h : s.Relinked b prev next t)
    {stop : Option Nat} : ∀ {order : List (Nat × Content)} {link : Option Nat},
    s.Leads Content.inOrder link order stop →
    t.Leads Content.inOrder link
      (order.map fun x => (x.1, if prev = some x.1 then x.2.withNext next else x.2)) stop := by
  intro order
  induction order with
  | nil => exact fun leads => leads
  | cons x rest ih =>
    rintro link ⟨hlink, intact, after, hafter, leads⟩
    refine ⟨hlink, h.intact _ _ intact, after, ?_, ih leads⟩
    dsimp only
    split
    · rw [Content.inOrder_withNext, hafter]
    · exact hafter

/-! ### The walk of the orphan order (R57, R66) -/

variable {order : List (Nat × Content)}

/-- The walk of the order goes on from the last orphan that is neither sought nor the tail. -/
theorem State.walkOrder_eq {stop : Option Nat} (leads : s.Leads Content.inOrder s.table.order.head order stop)
    (len : order.length ≤ 12288) (other : ∀ x ∈ order, x.1 ≠ n ∧ s.table.order.tail ≠ some x.1) :
    s.walkOrder (some n) =
      orderWalk (some n) (12288 - order.length + 1) (lastSlot order) order.length stop s := by
  unfold State.walkOrder
  rw [show Config.slotCount + 1 = order.length + (12288 - order.length + 1) by simp only [Config.slotCount]; omega,
    orderWalk_passes _ _ _ _ none _ 0 leads fun x hx => ⟨fun e => (other x hx).1 (Option.some.inj e).symm, (other x hx).2⟩,
    Option.or_none, Nat.zero_add]

theorem State.walkOrder_met (leads : s.Leads Content.inOrder s.table.order.head order (some n))
    (len : order.length ≤ 12288) (other : ∀ x ∈ order, x.1 ≠ n ∧ s.table.order.tail ≠ some x.1) :
    s.walkOrder (some n) = (true, lastSlot order, s) := by
  rw [State.walkOrder_eq leads len other]
  simp only [orderWalk, if_true]

theorem State.walkOrder_end (leads : s.Leads Content.inOrder s.table.order.head order none)
    (len : order.length ≤ 12288) (other : ∀ x ∈ order, x.1 ≠ n ∧ s.table.order.tail ≠ some x.1) :
    s.walkOrder (some n) = (false, lastSlot order, s) :=
  State.walkOrder_eq leads len other

/-- A walk of the order that reaches a slot it cannot read cuts the order there. -/
theorem State.walkOrder_cut (leads : s.Leads Content.inOrder s.table.order.head order (some m))
    (len : order.length ≤ 12288) (other : ∀ x ∈ order, x.1 ≠ n ∧ s.table.order.tail ≠ some x.1) (hm : m ≠ n) {t : State}
    (read : s.readSlot m = (none, t)) :
    s.walkOrder (some n) = (false, lastSlot order, t.cutOrder (lastSlot order) order.length) := by
  rw [State.walkOrder_eq leads len other]
  simp only [orderWalk, Option.some.injEq, if_neg (Ne.symm hm), read]

/-- The records listed lead on through each part of the list. -/
theorem State.Leads.split {f : Content → Option (Option Nat)} {stop : Option Nat} {ys : List (Nat × Content)} :
    ∀ {xs : List (Nat × Content)} {link : Option Nat}, s.Leads f link (xs ++ ys) stop →
      ∃ mid, s.Leads f link xs mid ∧ s.Leads f mid ys stop := by
  intro xs
  induction xs with
  | nil => exact fun h => ⟨_, rfl, h⟩
  | cons x rest ih =>
    rintro link ⟨hlink, intact, next, hnext, h⟩
    obtain ⟨mid, first, last⟩ := ih h
    exact ⟨mid, ⟨hlink, intact, next, hnext, first⟩, last⟩

/-- A record of the orphan order is an orphan. -/
theorem Content.orphan_of_inOrder {c : Content} {next : Option Nat} (h : c.inOrder = some next) :
    ∃ o, c = .orphan o := by
  cases c with
  | core c => cases h
  | extension e => cases h
  | orphan o => exact ⟨o, rfl⟩

/-- The walk of the order ends at its tail. -/
theorem State.walkOrder_tail {y : Nat × Content} {stop : Option Nat}
    (leads : s.Leads Content.inOrder s.table.order.head (order ++ [y]) stop) (len : order.length ≤ 12288)
    (other : ∀ x ∈ order, x.1 ≠ n ∧ s.table.order.tail ≠ some x.1) (hy : y.1 ≠ n)
    (tail : s.table.order.tail = some y.1) : s.walkOrder (some n) = (false, some y.1, s) := by
  obtain ⟨mid, first, rfl, intact, next, hnext, -⟩ := leads.split
  obtain ⟨o, ho⟩ := Content.orphan_of_inOrder hnext
  rw [ho] at intact
  rw [State.walkOrder_eq first len other]
  simp only [orderWalk, Option.some.injEq, if_neg (Ne.symm hy), State.readSlot_of_intact intact, tail, if_true]

/-- The orphan order is left as its walk left it when the walk does not meet the orphan. -/
theorem State.removeFromOrder_unmet {prev : Option Nat} {t : State} (h : s.walkOrder (some n) = (false, prev, t)) :
    s.removeFromOrder n = t := by
  unfold State.removeFromOrder
  rw [h]

/-! ### An orphan removed from the order (R57) -/

/-- An orphan with another next-in-orphan-order; any other record has none. -/
def Content.withNextOrder : Content → Option Nat → Content
  | .core c, _ => .core c
  | .extension e, _ => .extension e
  | .orphan o, next => .orphan { o with nextOrder := next }

/-- `t` is `s` with its orphan order `o`, and the link of the orphan in slot `prev`, if any, made to lead to `next`. -/
structure State.Reordered (s : State) (prev next : Option Nat) (o : OrphanOrder) (t : State) : Prop where
  frame : t = { s with table := { s.table with slots := t.table.slots, order := o } }
  slots : sparseWf t.table.slots = true
  others : ∀ m, prev ≠ some m → t.slot m = s.slot m
  intact : ∀ m c, s.slot m = some (.allocated c true) →
    t.slot m = some (.allocated (if prev = some m then c.withNextOrder next else c) true)

/-- The order replaced, with no link before the orphan to be rewritten. -/
theorem State.reordered_none (slots : sparseWf s.table.slots = true) (next : Option Nat) (o : OrphanOrder) :
    s.Reordered none next o (s.setOrder o) :=
  ⟨rfl, slots, fun _ _ => rfl, fun _ _ h => h⟩

/-- The order replaced, and the link of the orphan before rewritten. -/
theorem State.reordered_some (slots : sparseWf s.table.slots = true) {p : Nat} {x : Orphan}
    (hp : s.slot p = some (.allocated (.orphan x) true)) (next : Option Nat) (o : OrphanOrder) :
    s.Reordered (some p) next o ((s.setNextOrder p next).setOrder o) := by
  rw [State.setNextOrder_eq hp]
  refine ⟨rfl, sparsePut_wf _ _ _ slots, fun m hm => sparseGet_put_other _ _ _ _ fun e => hm (e ▸ rfl), fun m c hc => ?_⟩
  by_cases hm : m = p
  · subst hm
    obtain rfl : Content.orphan x = c := by rw [hp] at hc; cases hc; rfl
    simp [State.slot, State.setOrder, Content.withNextOrder]
  · rw [if_neg (by simpa using Ne.symm hm)]
    exact (sparseGet_put_other _ _ _ _ hm).trans hc

/-- The last of the orphans that lead somewhere is an intact orphan. -/
theorem State.Leads.last_orphan {link stop : Option Nat} (leads : s.Leads Content.inOrder link order stop) {p : Nat}
    (h : lastSlot order = some p) : ∃ o, s.slot p = some (.allocated (.orphan o) true) := by
  obtain ⟨y, hy, rfl⟩ := Option.map_eq_some_iff.1 h
  obtain ⟨intact, hnext⟩ := leads.last y hy
  obtain ⟨o, ho⟩ := Content.orphan_of_inOrder hnext
  exact ⟨o, by rw [intact, ho]⟩

/-- An orphan met by the walk is removed from the order, wherever it lies on it. -/
theorem State.reordered_removeFromOrder (slots : sparseWf s.table.slots = true)
    (leads : s.Leads Content.inOrder s.table.order.head order (some n)) (len : order.length ≤ 12288)
    (other : ∀ x ∈ order, x.1 ≠ n ∧ s.table.order.tail ≠ some x.1) :
    s.Reordered (lastSlot order) (s.nextOrderOf n)
      ⟨if order = [] then s.nextOrderOf n else s.table.order.head,
        if s.table.order.tail = some n then lastSlot order else s.table.order.tail, s.table.order.length - 1⟩
      (s.removeFromOrder n) := by
  unfold State.removeFromOrder
  rw [State.walkOrder_met leads len other]
  dsimp only
  cases hl : lastSlot order with
  | none =>
    have hn : order = [] := by simpa [lastSlot] using hl
    simp only [hn, if_true]
    exact State.reordered_none slots _ _
  | some p =>
    have hn : order ≠ [] := by rintro rfl; cases hl
    obtain ⟨o, ho⟩ := leads.last_orphan hl
    simp only [hn, if_false]
    exact State.reordered_some slots ho _ _

end Sys2Proof.Machine
end

section
/-! PROOFS. Settlement: what a reckoning and a charge rest on, what they leave of a record, and the journey or orphan that
leaves the table. -/

namespace Sys2Proof.Machine

/-! ### A settlement rests on the tariff, the clock and the accounts (R1, R119) -/

/-- Two states of the same tariff, clock, accounts and count of uncapped charges settle alike. -/
structure State.SettlesAs (t s : State) : Prop where
  tariff : t.tariff = s.tariff
  clock : t.clock = s.clock
  cap : t.cap = s.cap
  untracked : t.counters.capUntracked = s.counters.capUntracked

/-- `t` with the accounts and the count of uncapped charges of `s`: all that a charge writes (R119 to R123). -/
def State.withAccounts (t s : State) : State :=
  { t with cap := s.cap, counters := { t.counters with capUntracked := s.counters.capUntracked } }

namespace State.SettlesAs

variable {s t : State} (h : t.SettlesAs s)
include h

theorem withAccounts : t.withAccounts s = t := by
  rw [State.withAccounts, ← h.cap, ← h.untracked]

theorem today : t.today = s.today := by
  rw [State.today, State.today, h.clock]

theorem testCap (cap : Nat) (r : JourneyRecord) : t.testCap cap r = s.testCap cap r := by
  simp only [State.testCap, h.today]

theorem reckon (q : SettlementRequest) : t.reckon q = s.reckon q := by
  simp only [State.reckon, State.doubtFlag, h.testCap, h.tariff, h.clock]

theorem charge (token : Token) (day cap fare : Nat) : t.charge token day cap fare =
    ((s.charge token day cap fare).1, t.withAccounts (s.charge token day cap fare).2) := by
  unfold State.charge
  rw [h.today, h.cap]
  split
  · rw [h.withAccounts]
  · split
    · simp only [State.withAccounts, ← h.untracked]
    · split
      · simp only [State.withAccounts, ← h.untracked]
      · simp only [State.withAccounts, ← h.untracked, ← h.cap]

theorem chargeRecord (x : Reckoned) :
    t.chargeRecord x = ((s.chargeRecord x).1, t.withAccounts (s.chargeRecord x).2) := by
  unfold State.chargeRecord
  cases x.dailyCap with
  | none => simp only [h.withAccounts]
  | some cap =>
    simp only [h.charge]
    obtain ⟨answer, u⟩ := s.charge x.record.token x.record.day cap x.record.classFare
    cases answer <;> rfl

theorem settle (q : SettlementRequest) : t.settle q = ((s.settle q).1, t.withAccounts (s.settle q).2) := by
  unfold State.settle
  rw [h.reckon, h.chargeRecord]

end State.SettlesAs

variable {s : State}

/-- A settlement leaves the Journey Table as it is. -/
theorem State.settle_table (s : State) (q : SettlementRequest) : (s.settle q).2.table = s.table := by
  rw [(⟨rfl, rfl, rfl, rfl⟩ : s.SettlesAs s).settle q]
  rfl

/-! ### What a settlement leaves of its record (R22) -/

/-- The test of R13 adds at most a flag. -/
theorem State.testCap_record (s : State) (cap : Nat) (r : JourneyRecord) :
    ∃ flags, (s.testCap cap r).record = { r with flags := flags } := by
  unfold State.testCap
  split
  · exact ⟨_, rfl⟩
  · split <;> exact ⟨_, rfl⟩

/-- A charge gives the amount charged, the account's spent and at most a flag. -/
theorem State.chargeRecord_record (s : State) (x : Reckoned) : ∃ charged spent flags,
    (s.chargeRecord x).1.record = { x.record with charged := charged, capSpent := spent, flags := flags } := by
  unfold State.chargeRecord
  split
  · exact ⟨_, _, _, rfl⟩
  · split <;> exact ⟨_, _, _, rfl⟩

/-- A record is of the card and the day of its request (R22). -/
theorem State.settle_card (s : State) (q : SettlementRequest) :
    (s.settle q).1.record.token = q.token ∧ (s.settle q).1.record.day = q.day := by
  obtain ⟨_, _, _, charged⟩ := s.chargeRecord_record (s.reckon q)
  rw [State.settle, charged]
  unfold State.reckon
  dsimp only
  split
  · obtain ⟨_, tested⟩ := s.testCap_record (classLookup s.tariff.liveBank q.cls).entry.dailyCap _
    rw [tested]
    exact ⟨rfl, rfl⟩
  · split
    · exact ⟨rfl, rfl⟩
    · obtain ⟨_, tested⟩ := s.testCap_record (classLookup s.tariff.liveBank q.cls).entry.dailyCap _
      rw [tested]
      exact ⟨rfl, rfl⟩
  · exact ⟨rfl, rfl⟩
  · exact ⟨rfl, rfl⟩

/-- A journey settled incomplete is charged the penalty fare outside every account (R19). -/
theorem State.settle_incomplete (s : State) {q : SettlementRequest} {legs : List RecordLeg}
    (h : q.case = .incomplete legs) :
    s.settle q = (⟨q.record s.doubtFlag (classLookup s.tariff.liveBank q.cls) .incomplete legs
      (some ⟨0, ceilingMills s.tariff.liveBank, 100⟩)
      (penaltyFare s.tariff.liveBank (classLookup s.tariff.liveBank q.cls).entry), none⟩, s) := by
  simp only [State.settle, State.reckon, h, State.chargeRecord]

/-- A journey to be completed is COMPLETE over its legs, measured (R6, R99). -/
theorem State.settle_completed (s : State) {q : SettlementRequest} {dayType : DayType} {first : Nat}
    {legs : List RecordLeg} (h : q.case = .completed dayType first legs) :
    (s.settle q).1.record.kind = .complete ∧
      (s.settle q).1.record.legs = legs.map (RecordLeg.measured s.tariff.liveBank) := by
  obtain ⟨_, _, _, charged⟩ := s.chargeRecord_record (s.reckon q)
  rw [State.settle, charged]
  simp only [State.reckon, h]
  obtain ⟨_, tested⟩ := s.testCap_record (classLookup s.tariff.liveBank q.cls).entry.dailyCap _
  rw [tested]
  exact ⟨rfl, rfl⟩

/-! ### Releases leave the accounts and the counters (R55, R60) -/

@[simp] theorem State.releaseSlot_counters (s : State) (n : Nat) : (s.releaseSlot n).counters = s.counters := by
  unfold State.releaseSlot State.judgeCleared
  split
  · rfl
  · split <;> rfl

theorem foldl_releaseSlot_keeps (ms : List Nat) : ∀ s : State,
    (ms.foldl State.releaseSlot s).cap = s.cap ∧ (ms.foldl State.releaseSlot s).counters = s.counters := by
  induction ms with
  | nil => exact fun _ => ⟨rfl, rfl⟩
  | cons m rest ih =>
    intro s
    obtain ⟨cap, counters⟩ := ih (s.releaseSlot m)
    exact ⟨cap.trans (s.releaseSlot_cap m), counters.trans (s.releaseSlot_counters m)⟩

/-! ### A journey leaves the table (R55, R67) -/

variable {n : Nat} {before : List (Nat × Content)}

/-- A slot that is not FREE has a number of the table (R48). -/
theorem State.Stored.slot_lt (stored : s.Stored) {m : Nat} {x : Slot} (h : s.slot m = some x) : m < 12288 :=
  stored.numbers _ (mem_of_sparseGet _ _ _ h)

/-- `t` is `s` with a chain relinked past the record in slot `n` and the slots `ms` released after it, so that the last of
them heads the free list; it settles as `s` does. -/
structure State.Released (s : State) (b : Nat) (prev next : Option Nat) (ms : List Nat) (t : State) : Prop where
  settles : t.SettlesAs s
  counters : t.counters = s.counters
  gone : ∀ m ∈ ms, t.slot m = none
  others : ∀ m ∉ ms, prev ≠ some m → t.slot m = s.slot m
  linked : ∀ m ∉ ms, ∀ c, s.slot m = some (.allocated c true) → prev = some m →
    t.slot m = some (.allocated (c.withNext next) true)
  heads : ∀ k, t.bucketHead k = if k = b ∧ prev = none then next else s.bucketHead k
  free : t.table.free.toList = ms.reverse ++ s.table.free.toList

/-- Slots released after a chain was relinked (R55). -/
theorem State.Relinked.release {b : Nat} {prev next : Option Nat} {u : State} (h : s.Relinked b prev next u)
    {ms : List Nat} (held : ∀ m ∈ ms, m < 12288 ∧ s.slot m ≠ none ∧ prev ≠ some m) (once : ms.Nodup) :
    s.Released b prev next ms (ms.foldl State.releaseSlot u) := by
  obtain ⟨slots, heads, free⟩ := foldl_releaseSlot_spec ms u h.slots
    (fun m hm => ⟨(held m hm).1, by rw [h.others m (held m hm).2.2]; exact (held m hm).2.1⟩) once
  obtain ⟨cap, counters⟩ := foldl_releaseSlot_keeps ms u
  have frame := (journeyFrame_closed u).foldl_releaseSlot ms (JourneyFrame.refl u)
  have tariff : u.tariff = s.tariff := by rw [h.frame]
  have clock : u.clock = s.clock := by rw [h.frame]
  have ucap : u.cap = s.cap := by rw [h.frame]
  have ucounters : u.counters = s.counters := by rw [h.frame]
  have ufree : u.table.free = s.table.free := by rw [h.frame]
  refine ⟨⟨?_, ?_, cap.trans ucap, by rw [counters, ucounters]⟩, counters.trans ucounters, fun m hm => ?_,
    fun m hm hp => ?_, fun m hm c hc hp => ?_, fun k => ?_, by rw [free, ufree]⟩
  · rw [frame, ← tariff]
  · rw [frame, ← clock]
  · rw [slots, if_pos hm]
  · rw [slots, if_neg hm, h.others m hp]
  · rw [slots, if_neg hm, h.intact m c hc, if_pos hp]
  · exact (congrArg (sparseGet · k) heads).trans (h.heads k)

/-- The head of the bucket leads past the record released, where it stood there. -/
theorem State.Released.head {b : Nat} {next : Option Nat} {ms : List Nat} {t : State}
    (h : s.Released b (lastSlot before) next ms t) (first : before = []) : t.bucketHead b = next :=
  (h.heads b).trans (if_pos ⟨rfl, by rw [first]; rfl⟩)

/-- The record before the one released leads past it, and the head stays. -/
theorem State.Released.last {b : Nat} {next : Option Nat} {ms : List Nat} {t : State}
    (h : s.Released b (lastSlot before) next ms t) {y : Nat × Content} (hy : before.getLast? = some y)
    (intact : s.slot y.1 = some (.allocated y.2 true)) (kept : y.1 ∉ ms) :
    t.bucketHead b = s.bucketHead b ∧ t.slot y.1 = some (.allocated (y.2.withNext next) true) := by
  have last : lastSlot before = some y.1 := by rw [lastSlot, hy, Option.map_some]
  refine ⟨(h.heads b).trans (if_neg fun k => ?_), h.linked y.1 kept y.2 intact last⟩
  rw [last] at k
  cases k.2

/-! ### The request of a held journey (R67, R98, R99) -/

theorem passedSlots_eq (es : List (Nat × Option Extension)) :
    passedSlots es = (es.filter fun x => x.2.isSome).map (·.1) := by
  induction es with
  | nil => rfl
  | cons x rest ih =>
    obtain ⟨i, _ | l⟩ := x
    · exact ih
    · exact congrArg (i :: ·) ih

theorem passedLegs_eq (es : List (Nat × Option Extension)) :
    passedLegs es = (es.filter fun x => x.2.isSome).filterMap fun x => x.2.map Extension.leg := by
  induction es with
  | nil => rfl
  | cons x rest ih =>
    obtain ⟨i, _ | l⟩ := x
    · exact ih
    · exact congrArg (l.leg :: ·) ih

theorem anyDamaged_iff (es : List (Nat × Option Extension)) : anyDamaged es = true ↔ ∃ x ∈ es, x.2 = none := by
  simp [anyDamaged]

/-- The legs of extensions have their metres, and are not measured again (R51). -/
theorem passedLegs_measured (b : Bank) (es : List (Nat × Option Extension)) :
    (passedLegs es).map (RecordLeg.measured b) = passedLegs es := by
  induction es with
  | nil => rfl
  | cons x rest ih =>
    obtain ⟨i, _ | l⟩ := x
    · exact ih
    · exact congrArg (l.leg :: ·) ih

/-- A damaged extension turns any settlement into the DAMAGED incomplete one (R67, R98). -/
theorem Core.request_damaged (c : Core) {es : List (Nat × Option Extension)} (h : anyDamaged es = true) (how : Closing)
    (flags : Flags) : c.request es how flags = ⟨c.token, c.cls, c.day, flags.union { damaged := true },
      .incomplete (passedLegs es ++ [c.openLeg])⟩ := by
  simp only [Core.request, h, if_true, Core.settlementCase]

/-- A journey whose extensions all pass is settled as asked for (R89, R94, R96, R99). -/
theorem Core.request_passed (c : Core) {es : List (Nat × Option Extension)} (h : anyDamaged es = false) (how : Closing)
    (flags : Flags) :
    c.request es how flags = ⟨c.token, c.cls, c.day, flags, c.settlementCase (passedLegs es) how⟩ := by
  simp only [Core.request, h, Bool.false_eq_true, if_false]

/-- A damaged extension, or a settlement asked to be so, is INCOMPLETE over the legs that passed and the current leg
(R98, R99). -/
theorem Core.request_incomplete (c : Core) {es : List (Nat × Option Extension)} {how : Closing}
    (h : anyDamaged es = true ∨ how = .incomplete) (flags : Flags) :
    (c.request es how flags).case = .incomplete (passedLegs es ++ [c.openLeg]) := by
  have closing : (if anyDamaged es then .incomplete else how) = Closing.incomplete := by
    rcases h with h | h <;> simp [h]
  simp only [Core.request, closing, Core.settlementCase]

/-- A journey settled over its completed legs, all of which passed (R89). -/
theorem Core.request_completed (c : Core) {es : List (Nat × Option Extension)} (passed : ∀ x ∈ es, x.2 ≠ none)
    (flags : Flags) :
    (c.request es .completedLegs flags).case = .completed c.dayType c.firstEntryTime (passedLegs es) := by
  have h : anyDamaged es = false := by
    rw [Bool.eq_false_iff, ne_eq, anyDamaged_iff]
    rintro ⟨x, hx, none⟩
    exact passed x hx none
  rw [c.request_passed h]
  rfl

/-- A journey with a damaged extension is settled with DAMAGED (R67, R98). -/
theorem State.settle_damaged (s : State) (c : Core) {es : List (Nat × Option Extension)} (h : anyDamaged es = true)
    (how : Closing) (flags : Flags) : (s.settle (c.request es how flags)).1.record.flags.damaged = true := by
  rw [s.settle_incomplete (c.request_incomplete (.inl h) flags), c.request_damaged h]
  simp [SettlementRequest.record, Flags.union]

/-- A core in slot `n` behind the records `before` of its chain, whose extensions read as `es` without a change: those
that pass are intact extensions, once each. -/
structure State.Holds (s : State) (n : Nat) (c : Core) (es : List (Nat × Option Extension))
    (before : List (Nat × Content)) : Prop where
  stored : s.Stored
  core : s.slot n = some (.allocated (.core c) true)
  leads : s.Leads Content.inBucket (s.bucketHead (bucketOf c.token)) before (some n)
  len : before.length ≤ 12288
  other : ∀ x ∈ before, x.1 ≠ n
  read : readExtensions c.extensions s = (es, s)
  passed : ∀ m ∈ passedSlots es, ∃ l, s.slot m = some (.allocated (.extension l) true)
  once : (passedSlots es).Nodup

/-- A core whose extensions are listed once each and are QUARANTINED or intact is so held. -/
theorem State.holds_of_slots {c : Core} {es : List (Nat × Option Extension)} (stored : s.Stored)
    (core : s.slot n = some (.allocated (.core c) true))
    (leads : s.Leads Content.inBucket (s.bucketHead (bucketOf c.token)) before (some n)) (len : before.length ≤ 12288)
    (other : ∀ x ∈ before, x.1 ≠ n) (read : readExtensions c.extensions s = (es, s))
    (slots : ∀ x ∈ es, ∀ l, x.2 = some l → s.slot x.1 = some (.allocated (.extension l) true))
    (once : (es.map (·.1)).Nodup) : s.Holds n c es before := by
  refine ⟨stored, core, leads, len, other, read, fun m hm => ?_, ?_⟩
  · rw [passedSlots_eq] at hm
    obtain ⟨x, hx, rfl⟩ := List.mem_map.1 hm
    obtain ⟨mem, some⟩ := List.mem_filter.1 hx
    obtain ⟨l, hl⟩ := Option.isSome_iff_exists.1 some
    exact ⟨l, slots x mem l hl⟩
  · rw [passedSlots_eq]
    exact once.sublist (List.filter_sublist.map _)

namespace State.Holds

variable {c : Core} {es : List (Nat × Option Extension)} (h : s.Holds n c es before)
include h

/-- An extension is on no chain, so it is not the record before the core (R54). -/
theorem passed_not_last {m : Nat} (hm : m ∈ passedSlots es) : lastSlot before ≠ some m := by
  intro hl
  obtain ⟨y, hy, rfl⟩ := Option.map_eq_some_iff.1 hl
  obtain ⟨intact, link⟩ := h.leads.last y hy
  obtain ⟨l, hl⟩ := h.passed _ hm
  have hc : y.2 = .extension l := by rw [hl] at intact; simpa using intact.symm
  rw [hc] at link
  cases link

theorem core_not_last : lastSlot before ≠ some n := by
  intro hl
  obtain ⟨y, hy, e⟩ := Option.map_eq_some_iff.1 hl
  exact h.other y (List.mem_of_getLast? hy) e

/-- The record before the core is none of the journey's. -/
theorem last_not_released {y : Nat × Content} (hy : before.getLast? = some y) : y.1 ∉ n :: passedSlots es := by
  have last : lastSlot before = some y.1 := by rw [lastSlot, hy, Option.map_some]
  intro hm
  rcases List.mem_cons.1 hm with hn | hm
  · exact h.core_not_last (hn ▸ last)
  · exact h.passed_not_last hm last

theorem core_not_passed : n ∉ passedSlots es := by
  intro hm
  obtain ⟨l, hl⟩ := h.passed n hm
  rw [h.core] at hl
  cases hl

/-- The journey leaves the table: its core and then the extensions that passed (R54, R55, R67). -/
theorem released {p : Predecessor} (hp : p = .sought ∨ p = .known (lastSlot before)) :
    s.Released (bucketOf c.token) (lastSlot before) c.next (n :: passedSlots es)
      (s.releaseJourney n c.token (passedSlots es) p) := by
  have relinked := State.relinked_unlink h.stored h.leads h.len h.other hp
  rw [State.nextOf_eq (c := .core c) h.core rfl] at relinked
  refine relinked.release (fun m hm => ?_) (List.nodup_cons.2 ⟨h.core_not_passed, h.once⟩)
  rcases List.mem_cons.1 hm with rfl | hm
  · exact ⟨h.stored.slot_lt h.core, by rw [h.core]; exact nofun, h.core_not_last⟩
  · obtain ⟨l, hl⟩ := h.passed m hm
    exact ⟨h.stored.slot_lt hl, by rw [hl]; exact nofun, h.passed_not_last hm⟩

theorem settleCore (how : Closing) (extra : Flags) (p : Predecessor) : s.settleCore n c how extra p =
    (s.releaseJourney n c.token (passedSlots es) p).settle (c.request es how (c.flags.union extra)) := by
  simp only [State.settleCore, State.closeJourney, h.read]

end State.Holds

end Sys2Proof.Machine
end

section
/-! PROOFS. Settlements: the statement on what leaves the table, for a journey, for an orphan, and for the walks. -/

namespace Sys2Proof.Machine

variable {s : State} {n : Nat} {before order : List (Nat × Content)}

/-! ### An orphan leaves the table (R57, R104) -/

/-- An orphan in slot `n` behind the records `before` of its chain and the orphans `order` of the orphan order. -/
structure State.HoldsOrphan (s : State) (n : Nat) (o : Orphan) (before order : List (Nat × Content)) : Prop where
  stored : s.Stored
  orphan : s.slot n = some (.allocated (.orphan o) true)
  leads : s.Leads Content.inBucket (s.bucketHead (bucketOf o.token)) before (some n)
  len : before.length ≤ 12288
  other : ∀ x ∈ before, x.1 ≠ n
  ordered : s.Leads Content.inOrder s.table.order.head order (some n)
  orderLen : order.length ≤ 12288
  orderOther : ∀ x ∈ order, x.1 ≠ n ∧ s.table.order.tail ≠ some x.1

/-- A slot that no record listed lies in is not the last of them. -/
theorem lastSlot_ne {xs : List (Nat × Content)} (h : ∀ x ∈ xs, x.1 ≠ n) : lastSlot xs ≠ some n := by
  intro hl
  obtain ⟨y, hy, e⟩ := Option.map_eq_some_iff.1 hl
  exact h y (List.mem_of_getLast? hy) e

namespace State.HoldsOrphan

variable {o : Orphan} (h : s.HoldsOrphan n o before order) {p : Predecessor}
  (hp : p = .sought ∨ p = .known (lastSlot before))
include h hp

theorem relinked : s.Relinked (bucketOf o.token) (lastSlot before) o.next (s.unlink n o.token p) := by
  have relinked := State.relinked_unlink h.stored h.leads h.len h.other hp
  rwa [State.nextOf_eq (c := .orphan o) h.orphan rfl] at relinked

theorem unlinked_orphan : (s.unlink n o.token p).slot n = some (.allocated (.orphan o) true) := by
  rw [(h.relinked hp).others n (lastSlot_ne h.other), h.orphan]

theorem unlinked_order : (s.unlink n o.token p).table.order = s.table.order := by
  rw [(h.relinked hp).frame]

/-- Unlinked from its chain, the orphan is removed from the order (R57). -/
theorem reordered : (s.unlink n o.token p).Reordered (lastSlot order) o.nextOrder
    ⟨if order = [] then o.nextOrder else s.table.order.head,
      if s.table.order.tail = some n then lastSlot order else s.table.order.tail, s.table.order.length - 1⟩
    ((s.unlink n o.token p).removeFromOrder n) := by
  have sameOrder := h.unlinked_order hp
  have nextOrder : (s.unlink n o.token p).nextOrderOf n = o.nextOrder := by
    simp only [State.nextOrderOf, h.unlinked_orphan hp]
  have leads := (h.relinked hp).leads h.ordered
  rw [← sameOrder] at leads
  have reordered := State.reordered_removeFromOrder (h.relinked hp).slots leads (by simpa using h.orderLen)
    fun x hx => by
      obtain ⟨y, hy, rfl⟩ := List.mem_map.1 hx
      rw [sameOrder]
      exact h.orderOther y hy
  have last : ∀ f : Nat × Content → Content, lastSlot (order.map fun x => (x.1, f x)) = lastSlot order := by
    intro f
    simp [lastSlot, List.getLast?_map, Option.map_map, Function.comp_def]
  simpa only [last, nextOrder, sameOrder, List.map_eq_nil_iff] using reordered

theorem reordered_orphan : ((s.unlink n o.token p).removeFromOrder n).slot n = some (.allocated (.orphan o) true) := by
  rw [(h.reordered hp).others n (lastSlot_ne fun x hx => (h.orderOther x hx).1), h.unlinked_orphan hp]

theorem gone : (s.releaseOrphan n o.token p).slot n = none := by
  rw [State.releaseOrphan, State.slot, State.releaseSlot_slots, sparseGet_erase_self _ _ (h.reordered hp).slots]

/-- The other slots are as the unlinking and the removal from the order leave them. -/
theorem slot_other {m : Nat} (hm : m ≠ n) :
    (s.releaseOrphan n o.token p).slot m = ((s.unlink n o.token p).removeFromOrder n).slot m := by
  rw [State.releaseOrphan, State.slot, State.releaseSlot_slots, sparseGet_erase_other _ _ _ (h.reordered hp).slots hm]
  rfl

/-- An intact record stays, its chain leading past the orphan, and the order too. -/
theorem intact {m : Nat} {c : Content} (hm : m ≠ n) (hc : s.slot m = some (.allocated c true)) :
    (s.releaseOrphan n o.token p).slot m = some (.allocated
      (if lastSlot order = some m then
          (if lastSlot before = some m then c.withNext o.next else c).withNextOrder o.nextOrder
        else if lastSlot before = some m then c.withNext o.next else c) true) := by
  rw [h.slot_other hp hm, (h.reordered hp).intact m _ ((h.relinked hp).intact m c hc)]

theorem bucketHead (b : Nat) : (s.releaseOrphan n o.token p).bucketHead b =
    if b = bucketOf o.token ∧ before = [] then o.next else s.bucketHead b := by
  have head := (h.relinked hp).heads b
  rw [State.releaseOrphan, State.bucketHead, State.releaseSlot_heads, (h.reordered hp).frame]
  simpa [lastSlot, State.bucketHead] using head

theorem order_eq : (s.releaseOrphan n o.token p).table.order =
    ⟨if order = [] then o.nextOrder else s.table.order.head,
      if s.table.order.tail = some n then lastSlot order else s.table.order.tail, s.table.order.length - 1⟩ := by
  rw [State.releaseOrphan, State.releaseSlot_order, (h.reordered hp).frame]

theorem kind : ((s.unlink n o.token p).removeFromOrder n).kind n = .orphan := by
  simp only [State.kind, h.reordered_orphan hp, Slot.kind, Content.kind]

theorem free : (s.releaseOrphan n o.token p).table.free.toList = n :: s.table.free.toList := by
  have same : ((s.unlink n o.token p).removeFromOrder n).table.free = s.table.free := by
    rw [(h.reordered hp).frame, (h.relinked hp).frame]
  rw [State.releaseOrphan, State.releaseSlot_free, h.kind hp, if_neg nofun,
    FreeList.give_toList _ _ (h.stored.slot_lt h.orphan), same]

theorem counts : (s.releaseOrphan n o.token p).table.counts =
    { s.table.counts with orphans := s.table.counts.orphans - 1, free := s.table.counts.free + 1 } := by
  have same : ((s.unlink n o.token p).removeFromOrder n).table.counts = s.table.counts := by
    rw [(h.reordered hp).frame, (h.relinked hp).frame]
  rw [State.releaseOrphan, State.releaseSlot_counts, h.kind hp, if_neg nofun, same]
  rfl

end State.HoldsOrphan

/-- The pricing of an exit without entry rests on the tariff and the clock, which no release of an orphan moves (R20). -/
theorem State.releaseOrphan_reckon (s : State) (n : Nat) (token : Token) (p : Predecessor) {q : SettlementRequest}
    {station exit : Nat} (case : q.case = .unmatched station exit) :
    (s.releaseOrphan n token p).reckon q = s.reckon q := by
  have frame := (journeyFrame_closed s).releaseOrphan n token p (JourneyFrame.refl s)
  have tariff : (s.releaseOrphan n token p).tariff = s.tariff := by rw [frame]
  have clock : (s.releaseOrphan n token p).clock = s.clock := by rw [frame]
  simp only [State.reckon, case, State.doubtFlag, tariff, clock]

/-! ### Walks that do not meet the orphan (R57, R66) -/

/-- No orphan listed is the tail when neither the last of them nor one before it is. -/
theorem not_tail_of_last {tail : Option Nat} (inner : ∀ x ∈ order.dropLast, tail ≠ some x.1)
    (last : order = [] ∨ tail ≠ lastSlot order) : ∀ x ∈ order, tail ≠ some x.1 := by
  rcases List.eq_nil_or_concat' order with rfl | ⟨init, y, rfl⟩
  · intro x hx
    cases hx
  · intro x hx
    rcases List.mem_append.1 hx with hx | hx
    · exact inner x (by simpa using hx)
    · obtain rfl := List.mem_singleton.1 hx
      simpa [lastSlot] using last

/-- An orphan that is not on the order leaves it as it is. -/
theorem State.removeFromOrder_absent {stop : Option Nat}
    (leads : s.Leads Content.inOrder s.table.order.head order stop) (len : order.length ≤ 12288)
    (other : ∀ x ∈ order, x.1 ≠ n) (inner : ∀ x ∈ order.dropLast, s.table.order.tail ≠ some x.1)
    (h : stop = none ∨ (order ≠ [] ∧ s.table.order.tail = lastSlot order)) : s.removeFromOrder n = s := by
  by_cases met : order ≠ [] ∧ s.table.order.tail = lastSlot order
  · obtain ⟨ne, tail⟩ := met
    obtain ⟨init, y, rfl⟩ := (List.eq_nil_or_concat' order).resolve_left ne
    have initLen : init.length ≤ 12288 := by
      rw [List.length_append] at len
      omega
    exact State.removeFromOrder_unmet (State.walkOrder_tail leads initLen
      (fun x hx => ⟨other x (List.mem_append_left _ hx), inner x (by simpa using hx)⟩)
      (other y (by simp)) (by simpa [lastSlot] using tail))
  · obtain rfl := h.resolve_right met
    have notTail := not_tail_of_last inner (by tauto)
    exact State.removeFromOrder_unmet (State.walkOrder_end leads len fun x hx => ⟨other x hx, notTail x hx⟩)

/-- The order cut after an orphan writes its link and makes it the tail. -/
theorem State.cutOrder_some {p : Nat} {o : Orphan} (h : s.slot p = some (.allocated (.orphan o) true)) (count : Nat) :
    s.cutOrder (some p) count = { s with table := { s.table with
      slots := sparsePut s.table.slots p (.allocated (.orphan { o with nextOrder := none }) true)
      order := { s.table.order with tail := some p, length := count } } } := by
  rw [State.cutOrder, State.setNextOrder_eq h]
  rfl

/-- A slot on the order that cannot be read ends the order before it (R66). -/
theorem State.removeFromOrder_cut {m : Nat}
    (leads : s.Leads Content.inOrder s.table.order.head order (some m)) (len : order.length ≤ 12288)
    (other : ∀ x ∈ order, x.1 ≠ n) (inner : ∀ x ∈ order.dropLast, s.table.order.tail ≠ some x.1) (hm : m ≠ n)
    (last : order = [] ∨ s.table.order.tail ≠ lastSlot order) (bad : s.Unreadable m) :
    (s.removeFromOrder n).slot m = some .quarantined ∧
      (order = [] → (s.removeFromOrder n).table.order = ⟨none, none, 0⟩ ∧
        ∀ j, j ≠ m → (s.removeFromOrder n).slot j = s.slot j) ∧
      ∀ y x, order.getLast? = some y → y.2 = .orphan x →
        (s.removeFromOrder n).table.order = ⟨s.table.order.head, some y.1, order.length⟩ ∧
        (s.removeFromOrder n).slot y.1 = some (.allocated (.orphan { x with nextOrder := none }) true) ∧
        ∀ j, j ≠ m → j ≠ y.1 → (s.removeFromOrder n).slot j = s.slot j := by
  obtain ⟨t, read, quarantined, others, sameOrder⟩ := bad.readSlot
  have notTail := not_tail_of_last inner last
  have cut := State.removeFromOrder_unmet
    (State.walkOrder_cut leads len (fun x hx => ⟨other x hx, notTail x hx⟩) hm read)
  rw [cut]
  cases hy : order.getLast? with
  | none =>
    rw [lastSlot, hy]
    exact ⟨quarantined, fun _ => ⟨rfl, others⟩, fun _ _ h => by cases h⟩
  | some y =>
    have ne : order ≠ [] := by rintro rfl; cases hy
    obtain ⟨intact, hnext⟩ := leads.last y hy
    obtain ⟨o, ho⟩ := Content.orphan_of_inOrder hnext
    have hym : y.1 ≠ m := fun e => bad.not_intact _ (e ▸ intact)
    have hyt : t.slot y.1 = some (.allocated (.orphan o) true) := by rw [others _ hym, intact, ho]
    rw [lastSlot, hy, Option.map_some, State.cutOrder_some hyt]
    have hput : ∀ j, j ≠ y.1 → sparseGet (sparsePut t.table.slots y.1
        (.allocated (.orphan { o with nextOrder := none }) true)) j = t.slot j := fun j => sparseGet_put_other _ _ _ _
    refine ⟨(hput m hym.symm).trans quarantined, fun e => absurd e ne, fun y' x e hx => ?_⟩
    cases e
    cases ho.symm.trans hx
    refine ⟨by rw [← sameOrder], sparseGet_put_self _ _ _, fun j hjm hjy => (hput j hjy).trans (others j hjm)⟩

/-! ### The statement -/

/-- A state whose Journey Table is another's has its slots. -/
theorem State.slot_of_table {t u : State} (h : t.table = u.table) (m : Nat) : t.slot m = u.slot m := by
  rw [State.slot, State.slot, h]

/-- A state whose Journey Table is another's has its bucket heads. -/
theorem State.bucketHead_of_table {t u : State} (h : t.table = u.table) (b : Nat) :
    t.bucketHead b = u.bucketHead b := by
  rw [State.bucketHead, State.bucketHead, h]

/-- Settles O49: by the rules of an unlinking, of a release and of a removal from the order, and by what a settlement
leaves of its record. -/
theorem settlementReleasesTheJourney : Obligations.SettlementReleasesTheJourney := by
  unfold Obligations.SettlementReleasesTheJourney
  refine ⟨?_, ?_, ?_, ?_, ?_⟩
  · intro s n c how extra es before stored core leads len other listed slots once p hp r passed legs damaged flags
      journey penalty
    have passedEq : passedSlots es = passed.map (·.1) := passedSlots_eq es
    have legsEq : passedLegs es = legs := passedLegs_eq es
    have holds : s.Holds n c es before :=
      State.holds_of_slots stored core leads len other (by rw [listed]; exact readExtensions_eq s es slots)
        (fun x hx l hl => by rw [slots x hx, hl]) once
    have released := holds.released hp
    have settled : r = (s.releaseJourney n c.token (passedSlots es) p).settle (c.request es how (c.flags.union extra)) :=
      holds.settleCore how extra p
    have request : c.request es how (c.flags.union extra) = ⟨c.token, c.cls, c.day, flags, journey⟩ := by
      have hd : damaged = anyDamaged es := rfl
      cases h : anyDamaged es with
      | true =>
        rw [c.request_damaged h]
        simp only [flags, journey, hd, h, if_true, legsEq]
        rfl
      | false =>
        rw [c.request_passed h]
        simp only [flags, journey, hd, h, Bool.false_eq_true, if_false, legsEq]
        cases how <;> rfl
    have table : r.2.table = (s.releaseJourney n c.token (passedSlots es) p).table := by
      rw [settled, State.settle_table]
    refine ⟨⟨_, by rw [settled, request], released.settles.cap, released.settles.tariff, released.settles.clock,
      released.counters, table.symm⟩, ?_, ?_, ?_, ?_, ?_, ?_, ?_, ?_, ?_, ?_, ?_⟩
    · exact (State.slot_of_table table n).trans (released.gone n List.mem_cons_self)
    · intro x hx
      refine (State.slot_of_table table x.1).trans (released.gone _ (List.mem_cons_of_mem _ ?_))
      rw [passedEq]
      exact List.mem_map_of_mem hx
    · intro m hm hpassed hlast
      refine (State.slot_of_table table m).trans (released.others m (fun h => ?_) hlast)
      rw [passedEq] at h
      exact (List.mem_cons.1 h).elim hm hpassed
    · exact fun first => (State.bucketHead_of_table table _).trans (released.head first)
    · intro y hy
      obtain ⟨head, linked⟩ := released.last hy (leads.last y hy).1 (holds.last_not_released hy)
      exact ⟨(State.bucketHead_of_table table _).trans head, (State.slot_of_table table y.1).trans linked⟩
    · rw [table, released.free, List.reverse_cons, List.append_assoc, passedEq]
      rfl
    · rw [settled]
      exact (State.settle_card _ _).1
    · rw [settled]
      exact (State.settle_card _ _).2
    · intro h
      have hcase := c.request_incomplete (h.imp_left (anyDamaged_iff es).2) (c.flags.union extra)
      rw [settled, State.settle_incomplete _ hcase, legsEq, released.settles.tariff]
      exact ⟨rfl, rfl, rfl, rfl, rfl⟩
    · intro h
      rw [settled]
      exact State.settle_damaged _ c ((anyDamaged_iff es).2 h) how _
    · rintro intact rfl
      obtain ⟨kind, hlegs⟩ := State.settle_completed (s.releaseJourney n c.token (passedSlots es) p)
        (c.request_completed intact (c.flags.union extra))
      rw [settled]
      exact ⟨kind, hlegs.trans ((passedLegs_measured _ es).trans legsEq)⟩
  · intro s n o extra before order stored orphan leads len other ordered orderLen orderOther p hp r relinked
    have holds : s.HoldsOrphan n o before order :=
      ⟨stored, orphan, leads, len, other, ordered, orderLen, orderOther⟩
    refine ⟨?_, rfl, holds.gone hp, ?_, ?_, holds.bucketHead hp, holds.order_eq hp, holds.free hp, holds.counts hp⟩
    · exact congrArg Reckoned.record (s.releaseOrphan_reckon n o.token p rfl)
    · intro m hm hb ho
      exact (holds.slot_other hp hm).trans (((holds.reordered hp).others m ho).trans ((holds.relinked hp).others m hb))
    · intro m c hm hc
      refine (holds.intact hp hm hc).trans ?_
      simp only [relinked]
      generalize (if lastSlot before = some m then c.withNext o.next else c) = d
      cases d <;> rfl
  · intro s n token before stop leads len other prev
    refine ⟨?_, ?_, fun m hstop hm => ⟨fun d hd => ?_, fun hq => ?_⟩⟩
    · rintro rfl
      exact State.unlink_sought_end leads len other
    · rintro rfl
      exact State.unlink_sought leads len other
    · subst hstop
      exact State.unlink_sought_cut leads len other hm (State.readSlot_failed hd)
    · subst hstop
      exact State.unlink_sought_cut leads len other hm (State.readSlot_quarantined hq)
  · intro s n m token d intact hd t
    have eq : t = _ := State.setNext_eq hd (s.nextOf n)
    rw [eq]
    exact ⟨sparseGet_put_self _ _ _, fun j hj => sparseGet_put_other _ _ _ _ hj, rfl⟩
  · intro s n order stop leads len other inner
    refine ⟨State.removeFromOrder_absent leads len other inner, fun m hstop hm last bad => ?_⟩
    subst hstop
    exact State.removeFromOrder_cut leads len other inner hm last bad

end Sys2Proof.Machine
end

section
/-! PROOFS. A tap-out that finds its card's OPEN journey of the current day (spec/04 section 4.5): how it is taken, what it
goes on to, and what its handling ends with. -/

namespace Sys2Proof.Machine

variable {s : State} {n : Nat} {before : List (Nat × Content)}

/-! ### The tap as taken (R79, R80) -/

/-- Whether the day check or the time check gives a tap of the current day or a later one the service time (R79). -/
def State.takenLate (s : State) (t : Tap) : Bool :=
  decide (s.today < t.day ∨ s.clock.time + s.settings.timing.futureTolerance * 10 < t.time)

/-- The time and the flags with which a tap-out is taken that is not of an earlier day (R79, R80). -/
theorem State.checkedTap_out {e : TapEntry} (h : s.today ≤ e.tap.day) (out : e.tap.direction = 1) :
    (s.checkedTap e).time = (if s.takenLate e.tap then s.clock.time else e.tap.time) ∧
      (s.checkedTap e).flags.timeClamped = s.takenLate e.tap ∧
      (s.checkedTap e).flags.denied = s.deny.contains e.tap.token ∧
      (s.checkedTap e).flags.clockDoubt = s.clock.doubt := by
  unfold State.checkedTap
  rw [if_neg (Nat.not_lt.2 h)]
  simp only [State.tapContext, State.clampTap, State.takenLate, State.futureTolerance, out]
  by_cases hday : s.today < e.tap.day
  · simp [hday]
  · by_cases htime : s.clock.time + s.settings.timing.futureTolerance * 10 < e.tap.time
    · simp [hday, htime]
    · simp [hday, htime]

/-! ### The lookup (R54) -/

/-- A lookup finds the first record of its card, wherever it lies on its chain, and changes nothing (R54). -/
theorem State.lookup_found {token : Token} {c : Core}
    (leads : s.Leads Content.inBucket (s.bucketHead (bucketOf token)) before (some n)) (len : before.length ≤ 12288)
    (others : ∀ x ∈ before, ∀ next, x.2.link ≠ some (token, next)) (core : s.slot n = some (.allocated (.core c) true))
    (own : c.token = token) : s.lookup token = (some ⟨lastSlot before, n, .core c⟩, s) := by
  unfold State.lookup
  rw [show Config.slotCount + 1 = before.length + (12288 - before.length + 1) by simp only [Config.slotCount]; omega,
    chainLookup_passes _ _ _ _ _ none _ leads others, Option.or_none]
  simp only [chainLookup, State.readSlot_of_intact core, Content.link, own, if_true]

/-! ### The end of a tap's handling (R75, R82, R100) -/

/-- The verdict of an outcome offered, when its tap is live (R82, R83). -/
def State.verdictOffered (s : State) (e : TapEntry) (o : TapOutcome) : State :=
  if e.tap.gateDecided = 0 then s.offerVerdict e.stamp (o.toVerdict e.tap) else s

/-- An offer touches the verdict queue and the counter of stale verdicts alone. -/
theorem State.verdictOffered_eq (s : State) (e : TapEntry) (o : TapOutcome) : ∃ queue stale,
    s.verdictOffered e o = { s with verdicts := queue, counters := { s.counters with staleVerdicts := stale } } := by
  unfold State.verdictOffered
  split
  · exact s.offerVerdict_eq _ _
  · exact ⟨_, _, rfl⟩

/-- The verdict queue after an offer rests on the clock, the settings and the queue. -/
theorem State.verdictOffered_verdicts {t : State} (clock : t.clock = s.clock) (settings : t.settings = s.settings)
    (verdicts : t.verdicts = s.verdicts) (e : TapEntry) (o : TapOutcome) :
    (t.verdictOffered e o).verdicts = (s.verdictOffered e o).verdicts := by
  unfold State.verdictOffered State.offerVerdict
  rw [clock, settings, verdicts]
  split
  · split <;> rfl
  · exact verdicts

/-- A tap's handling that ends without a record. -/
theorem State.finishTap_none (s : State) (e : TapEntry) {o : TapOutcome} (h : o.records = []) :
    s.finishTap e o = { s.verdictOffered e o with unit := .idle } := by
  simp only [State.finishTap, h, appendWhileRoom, if_true]
  rfl

/-- A tap's handling that ends with one record, for which there is room. -/
theorem State.finishTap_one {e : TapEntry} {o : TapOutcome} {r : JourneyRecord} (h : o.records = [r])
    (room : s.records.length < 256) :
    s.finishTap e o = { (s.verdictOffered e o).appendRecord r with unit := .idle } := by
  obtain ⟨queue, stale, offered⟩ := s.verdictOffered_eq e o
  have hroom : (s.verdictOffered e o).recordRoom = true := by
    rw [offered]
    simpa [State.recordRoom, Config.recordQueueCapacity] using room
  have finish : s.finishTap e o = { (appendWhileRoom [r] (s.verdictOffered e o)).2 with
      unit := if (appendWhileRoom [r] (s.verdictOffered e o)).1 = [] then .idle
        else .appending (appendWhileRoom [r] (s.verdictOffered e o)).1 } := by
    rw [← h]
    rfl
  rw [finish]
  simp only [appendWhileRoom, hroom, if_true]

/-- A record appended leaves the count of uncapped charges. -/
theorem Counters.countRecord_capUntracked (c : Counters) (k : RecordKind) :
    (c.countRecord k).capUntracked = c.capUntracked := by
  cases k <;> rfl

/-! ### The break hold (R95) -/

/-- The slot that an allocation takes is on the free list (R55). -/
theorem FreeList.mem_of_take {f g : FreeList} {x : Nat} (h : f.take = some (x, g)) : x ∈ f.toList := by
  unfold FreeList.take at h
  unfold FreeList.toList
  split at h
  · rename_i hr
    cases h
    simp [hr]
  · split at h
    · rename_i hlt
      cases h
      exact List.mem_append_right _ (List.mem_range'_1.2 (by omega))
    · cases h

/-- An allocation writes its record into the slot at the head of the free list (R55, R59). -/
theorem State.allocate_some {x : Nat} {f : FreeList} (h : s.table.free.take = some (x, f)) (c : Content) :
    ∃ t, s.allocate c = (some x, t) ∧ t.table.slots = sparsePut s.table.slots x (.allocated c true) ∧
      t.table.heads = s.table.heads ∧ t.table.free = f ∧ t.cap = s.cap ∧ JourneyFrame s t := by
  have frame := (journeyFrame_closed s).allocate s c (JourneyFrame.refl s)
  simp only [State.allocate, h] at frame ⊢
  obtain ⟨slots, heads, free, -, -, -, cap, -⟩ := State.judgeShortage_keeps { s with table := { s.table with
    free := f
    slots := sparsePut s.table.slots x (.allocated c true)
    counts := s.table.counts.move .free c.kind } }
  exact ⟨_, rfl, slots, heads, free, cap, frame⟩

/-- With no slot free nothing is allocated, and nothing changes (R56). -/
theorem State.allocate_none (h : s.table.free.take = none) (c : Content) : s.allocate c = (none, s) := by
  simp only [State.allocate, h]

section

variable (e : TapEntry) (x : TapContext) (o : TapOutcome) (p : Predecessor) (c : Core)

/-- A break with a slot to be had writes its leg and holds the journey (R95). -/
theorem cardToEnd_holdLeg {k : Nat} {t : State}
    (h : s.allocate (.extension (x.extension s.tariff.liveBank n c)) = (some k, t)) :
    cardToEnd ⟨e, x, [.holdLeg n c p], plainOutcome .allow .none []⟩ s =
      (⟨e, x, [], ⟨.allow, .journeyHeld, some 0, none, []⟩⟩, t.rewrite n (.core (c.heldAt x k))) := by
  rw [cardToEnd_cons]
  simp only [State.cardStep, State.holdLeg, h, Handling.push, List.cons_append, List.nil_append]
  rw [cardToEnd_cons]
  rfl

/-- A break with no slot to be had is a final exit (R95, R61). -/
theorem cardToEnd_holdLeg_noSlot (h : s.table.free.take = none) :
    cardToEnd ⟨e, x, [.holdLeg n c p], o⟩ s = cardToEnd ⟨e, x, [x.ending p n c], o⟩ s := by
  rw [cardToEnd_cons]
  simp only [State.cardStep, State.holdLeg, State.allocate_none h, Handling.push, List.cons_append, List.nil_append]

/-- A journey ended by its exit is settled whole, and gives the verdict its amounts (R81, R94, R96). -/
theorem cardToEnd_ending {how : Closing} {flags : Flags}
    (h : x.ending p n c = .closeJourney n c how flags true p) :
    cardToEnd ⟨e, x, [x.ending p n c], plainOutcome .allow .none []⟩ s =
      (⟨e, x, [], ⟨.allow, .none, some (s.settleCore n c how flags p).1.record.charged,
        (s.settleCore n c how flags p).1.capRemaining, [(s.settleCore n c how flags p).1.record]⟩⟩,
        (s.settleCore n c how flags p).2) := by
  rw [h, cardToEnd_closeJourney]
  rfl

end

/-! ### A tap-out that finds an OPEN journey (R92) -/

/-- What leads somewhere leads there in any state of the same slots. -/
theorem State.Leads.of_slots {t : State} {f : Content → Option (Option Nat)} {stop : Option Nat}
    (h : ∀ m, t.slot m = s.slot m) : ∀ {xs : List (Nat × Content)} {link : Option Nat},
    s.Leads f link xs stop → t.Leads f link xs stop := by
  intro xs
  induction xs with
  | nil => exact fun leads => leads
  | cons x rest ih =>
    rintro link ⟨hlink, intact, next, hnext, leads⟩
    exact ⟨hlink, (h x.1).trans intact, next, hnext, ih leads⟩

/-- A tap taken leaves the stores as they were. -/
theorem State.Stored.tapTaken (h : s.Stored) (rest : List TapEntry) : (s.tapTaken rest).Stored where
  slots := h.slots
  heads := h.heads
  marks := h.marks
  accounts := h.accounts
  buckets := h.buckets
  hint := h.hint
  spent := h.spent
  journeys := h.journeys
  numbers := h.numbers
  kinds := h.kinds
  sum := h.sum
  freeOnce := h.freeOnce
  freeSlots := h.freeSlots
  accountsOfDay := h.accountsOfDay

/-- A tap-out of the current day, or of a later one, is to be taken, and its card's OPEN journey of the current day lies
in slot `n` behind the records `before`, none of which is its card's. -/
structure State.FindsOpen (s : State) (e : TapEntry) (rest : List TapEntry) (n : Nat) (c : Core)
    (before : List (Nat × Content)) : Prop where
  stored : s.Stored
  takes : s.Takes e rest
  out : e.tap.direction = 1
  day : s.today ≤ e.tap.day
  len : before.length ≤ 12288
  leads : s.Leads Content.inBucket (s.bucketHead (bucketOf e.tap.token)) before (some n)
  others : ∀ x ∈ before, ∀ next, x.2.link ≠ some (e.tap.token, next)
  core : s.slot n = some (.allocated (.core c) true)
  own : c.token = e.tap.token
  today : c.day = s.today
  opened : c.state = .opened

/-- A card operation at its end: its tap's handling ends with the outcome. -/
def finishCard (r : Handling × State) : State := r.2.finishTap r.1.entry r.1.outcome

namespace State.FindsOpen

variable {e : TapEntry} {rest : List TapEntry} {c : Core} (h : s.FindsOpen e rest n c before)
include h

theorem station : (s.checkedTap e).station = e.tap.station := by
  obtain ⟨-, station, -⟩ := State.checkedTap_today h.day
  exact station

theorem leadsTaken : (s.tapTaken rest).Leads Content.inBucket
    ((s.tapTaken rest).bucketHead (bucketOf e.tap.token)) before (some n) :=
  State.Leads.of_slots (s := s) (t := s.tapTaken rest) (fun _ => rfl) h.leads

/-- The tap's handling is the one step of its exit, a break hold where one is called for. -/
theorem tapTake : exec (.tapTake none) s = .next (finishCard (cardToEnd
    ⟨e, s.checkedTap e, [if ¬(c.extensions = [] ∧ e.tap.station = c.entryStation) ∧
        breakPermittedAt s.tariff.liveBank e.tap.station = true ∧ c.extensions.length < 2 then
        .holdLeg n c (.known (lastSlot before))
      else (s.checkedTap e).ending (.known (lastSlot before)) n c], plainOutcome .allow .none []⟩
    (s.tapTaken rest))) := by
  have found : (s.tapTaken rest).lookup e.tap.token = (some ⟨lastSlot before, n, .core c⟩, s.tapTaken rest) :=
    State.lookup_found h.leadsTaken h.len h.others h.core h.own
  have earlier : (s.checkedTap e).earlier = false := by
    obtain ⟨-, -, -, -, -, -, earlier, -⟩ := State.checkedTap_today h.day
    exact earlier
  have today : c.day = (s.tapTaken rest).today := h.today
  have tariff : (s.tapTaken rest).tariff = s.tariff := rfl
  rw [h.takes.tapTake (.inl h.out), found]
  simp only [State.afterLookup, h.out, if_true, earlier, Bool.false_eq_true, if_false, State.decideTapOut, today, h.opened,
    State.decideExit, h.station, tariff, finishCard]
  split <;> rfl

/-- The journey is not before itself on its chain. -/
theorem other : ∀ x ∈ before, x.1 ≠ n := by
  intro x hx hn
  obtain ⟨intact, -⟩ := h.leads.intact x hx
  rw [hn, h.core] at intact
  have hc : x.2 = .core c := by simpa using intact.symm
  exact h.others x hx c.next (by rw [hc, Content.link, h.own])

/-- The exit that ends the journey by its exit, where no break holds it (R94, R96). -/
theorem settled {how : Closing} {flags : Flags}
    (ending : (s.checkedTap e).ending (.known (lastSlot before)) n c =
      .closeJourney n c how flags true (.known (lastSlot before)))
    (final : (c.extensions = [] ∧ e.tap.station = c.entryStation) ∨
      breakPermittedAt s.tariff.liveBank e.tap.station = false ∨ 2 ≤ c.extensions.length ∨ s.table.free.take = none) :
    exec (.tapTake none) s = .next
      (((s.tapTaken rest).settleCore n c how flags (.known (lastSlot before))).2.finishTap e
        ⟨.allow, .none,
          some ((s.tapTaken rest).settleCore n c how flags (.known (lastSlot before))).1.record.charged,
          ((s.tapTaken rest).settleCore n c how flags (.known (lastSlot before))).1.capRemaining,
          [((s.tapTaken rest).settleCore n c how flags (.known (lastSlot before))).1.record]⟩) := by
  rw [h.tapTake]
  split
  · rename_i hold
    obtain ⟨notSame, permitted, fewer⟩ := hold
    have noSlot : (s.tapTaken rest).table.free.take = none := by
      rcases final with same | closed | many | noSlot
      · exact absurd same notSame
      · exact absurd (permitted.symm.trans closed) nofun
      · omega
      · exact noSlot
    rw [cardToEnd_holdLeg_noSlot _ _ _ _ _ noSlot, cardToEnd_ending _ _ _ _ ending]
    rfl
  · rw [cardToEnd_ending _ _ _ _ ending]
    rfl

end State.FindsOpen

end Sys2Proof.Machine
end

section
/-! PROOFS. A tap-out that finds an OPEN journey: the journey of one leg that leaves the table, the journey held at a break,
and the statement on both. -/

namespace Sys2Proof.Machine

namespace State.FindsOpen

variable {s : State} {n : Nat} {before : List (Nat × Content)} {e : TapEntry} {rest : List TapEntry} {c : Core}
  (h : s.FindsOpen e rest n c before)
include h

/-! ### A journey of one leg leaves the table (R54, R55, R94, R96) -/

/-- A journey without extensions, as the table holds it when its tap is taken. -/
theorem holds (noExtensions : c.extensions = []) : (s.tapTaken rest).Holds n c [] before where
  stored := h.stored.tapTaken rest
  core := h.core
  leads := by
    rw [h.own]
    exact h.leadsTaken
  len := h.len
  other := h.other
  read := by
    rw [noExtensions]
    rfl
  passed := nofun
  once := List.nodup_nil

/-- Its settlement is that of the state before the tap, over the table without it. -/
theorem settleCore (noExtensions : c.extensions = []) (how : Closing) (flags : Flags) :
    (s.tapTaken rest).settleCore n c how flags (.known (lastSlot before)) =
      ((s.settle (c.request [] how (c.flags.union flags))).1,
        ((s.tapTaken rest).releaseJourney n c.token [] (.known (lastSlot before))).withAccounts
          (s.settle (c.request [] how (c.flags.union flags))).2) := by
  obtain ⟨tariff, clock, cap, untracked⟩ := ((h.holds noExtensions).released (.inr rfl)).settles
  have settles : ((s.tapTaken rest).releaseJourney n c.token [] (.known (lastSlot before))).SettlesAs s :=
    ⟨tariff, clock, cap, untracked⟩
  exact ((h.holds noExtensions).settleCore how flags _).trans (settles.settle _)

/-- The release of a core alone moves one count (R49). -/
theorem counts (noExtensions : c.extensions = []) :
    ((s.tapTaken rest).releaseJourney n c.token [] (.known (lastSlot before))).table.counts =
      { s.table.counts with cores := s.table.counts.cores - 1, free := s.table.counts.free + 1 } := by
  have holds := h.holds noExtensions
  have relinked := State.relinked_unlink holds.stored holds.leads holds.len holds.other (.inr rfl)
  have kind : ((s.tapTaken rest).unlink n c.token (.known (lastSlot before))).kind n = .core := by
    simp only [State.kind, relinked.others n holds.core_not_last, holds.core, Slot.kind, Content.kind]
  have same : ((s.tapTaken rest).unlink n c.token (.known (lastSlot before))).table.counts = s.table.counts := by
    rw [relinked.frame]
    rfl
  rw [State.releaseJourney, List.foldl_nil, State.releaseSlot_counts, kind, if_neg nofun, same]
  rfl

/-- A journey of one leg that its exit ends: its record is appended, its accounts are as its settlement leaves them, and
its core is released and unlinked. -/
theorem ends (noExtensions : c.extensions = []) (room : s.records.length < 256) {how : Closing} {flags : Flags}
    (ending : (s.checkedTap e).ending (.known (lastSlot before)) n c =
      .closeJourney n c how flags true (.known (lastSlot before)))
    (final : (c.extensions = [] ∧ e.tap.station = c.entryStation) ∨
      breakPermittedAt s.tariff.liveBank e.tap.station = false ∨ 2 ≤ c.extensions.length ∨ s.table.free.take = none)
    {r : Settled × State} (hr : s.settle (c.request [] how (c.flags.union flags)) = r) :
    ∃ t, exec (.tapTake none) s = .next t ∧ t.records = s.records ++ [r.1.record] ∧ t.cap = r.2.cap ∧
      t.counters.capUntracked = r.2.counters.capUntracked ∧ t.slot n = none ∧
      (∀ m, m ≠ n → lastSlot before ≠ some m → t.slot m = s.slot m) ∧
      (before = [] → t.bucketHead (bucketOf e.tap.token) = c.next) ∧
      (∀ y, before.getLast? = some y → t.bucketHead (bucketOf e.tap.token) = s.bucketHead (bucketOf e.tap.token) ∧
        t.slot y.1 = some (.allocated (y.2.withNext c.next) true)) ∧
      t.table.counts = { s.table.counts with cores := s.table.counts.cores - 1, free := s.table.counts.free + 1 } ∧
      t.unit = .idle ∧ t.taps = rest ∧
      t.verdicts = (s.verdictOffered e
        ⟨.allow, .none, some r.1.record.charged, r.1.capRemaining, [r.1.record]⟩).verdicts := by
  have holds := h.holds noExtensions
  have released := holds.released (.inr rfl)
  have counts := h.counts noExtensions
  have frame := (journeyFrame_closed (s.tapTaken rest)).releaseJourney n c.token [] (.known (lastSlot before))
    (JourneyFrame.refl _)
  have run := h.settled ending final
  rw [h.settleCore noExtensions how flags, hr] at run
  rw [h.own] at released counts frame run
  simp only [passedSlots, List.filterMap_nil] at released
  generalize (s.tapTaken rest).releaseJourney n e.tap.token [] (.known (lastSlot before)) = w at *
  have records : w.records = s.records := by rw [frame]; rfl
  have taps : w.taps = rest := by rw [frame]; rfl
  have verdicts : w.verdicts = s.verdicts := by rw [frame]; rfl
  have settings : w.settings = s.settings := by rw [frame]; rfl
  obtain ⟨queue, stale, offered⟩ := (w.withAccounts r.2).verdictOffered_eq e
    ⟨.allow, .none, some r.1.record.charged, r.1.capRemaining, [r.1.record]⟩
  have queued := State.verdictOffered_verdicts (s := s) (t := w.withAccounts r.2) released.settles.clock settings
    verdicts e ⟨.allow, .none, some r.1.record.charged, r.1.capRemaining, [r.1.record]⟩
  rw [State.finishTap_one (s := w.withAccounts r.2) rfl (by rw [← records] at room; exact room), offered] at run
  rw [offered] at queued
  refine ⟨_, run, congrArg (· ++ [r.1.record]) records, rfl, Counters.countRecord_capUntracked _ _,
    released.gone n (by simp), fun m hm hl => released.others m (by simpa using hm) hl, fun first => released.head first,
    fun y hy => released.last hy (h.leads.last y hy).1 (holds.last_not_released hy), counts, rfl, taps, queued⟩

/-! ### A journey held at a break (R95) -/

/-- A break permitted, with fewer than two legs completed and a slot to be had, holds the journey: its leg is written into
the slot, its core is rewritten, and there is no record. -/
theorem held (notSame : ¬(c.extensions = [] ∧ e.tap.station = c.entryStation))
    (permitted : breakPermittedAt s.tariff.liveBank e.tap.station = true) (fewer : c.extensions.length < 2) {k : Nat}
    {f : FreeList} (slot : s.table.free.take = some (k, f)) :
    ∃ t, exec (.tapTake none) s = .next t ∧ t.records = s.records ∧ t.unit = .idle ∧ t.taps = rest ∧
      t.slot k = some (.allocated (.extension ((s.checkedTap e).extension s.tariff.liveBank n c)) true) ∧
      t.slot n = some (.allocated (.core (c.heldAt (s.checkedTap e) k)) true) ∧
      (∀ m, m ≠ n → m ≠ k → t.slot m = s.slot m) ∧ t.table.heads = s.table.heads ∧ t.cap = s.cap ∧
      t.table.free = f ∧ t.verdicts = (s.verdictOffered e ⟨.allow, .journeyHeld, some 0, none, []⟩).verdicts := by
  have hk : n ≠ k := by
    rintro rfl
    have free := ((h.stored.freeSlots n).1 (FreeList.mem_of_take slot)).2
    rw [h.core] at free
    cases free
  obtain ⟨t, allocated, slots, heads, free, cap, frame⟩ := State.allocate_some (s := s.tapTaken rest) slot
    (.extension ((s.checkedTap e).extension s.tariff.liveBank n c))
  have core : t.slot n = some (.allocated (.core c) true) := by
    rw [State.slot, slots, sparseGet_put_other _ _ _ _ hk]
    exact h.core
  have written := State.rewrite_eq (s := t) (n := n) (c := .core (c.heldAt (s.checkedTap e) k))
    (by simp only [State.kind, core, Slot.kind, Content.kind])
  have run := h.tapTake
  rw [if_pos ⟨notSame, permitted, fewer⟩, cardToEnd_holdLeg _ _ _ _ allocated, finishCard,
    State.finishTap_none _ _ rfl] at run
  generalize t.rewrite n (.core (c.heldAt (s.checkedTap e) k)) = w at *
  obtain ⟨queue, stale, offered⟩ := w.verdictOffered_eq e ⟨.allow, .journeyHeld, some 0, none, []⟩
  have queued := State.verdictOffered_verdicts (s := s) (t := w) (by rw [written, frame]; rfl)
    (by rw [written, frame]; rfl) (by rw [written, frame]; rfl) e ⟨.allow, .journeyHeld, some 0, none, []⟩
  have others : ∀ m, m ≠ n → w.slot m = t.slot m := by
    intro m hm
    rw [written]
    exact sparseGet_put_other _ _ _ _ hm
  rw [offered] at run queued
  refine ⟨_, run, by rw [written, frame]; rfl, rfl, by rw [written, frame]; rfl, (others k hk.symm).trans ?_, ?_,
    fun m hn hm => (others m hn).trans ?_, by rw [written]; exact heads, by rw [written]; exact cap,
    by rw [written]; exact free, queued⟩
  · rw [State.slot, slots, sparseGet_put_self]
  · rw [written]
    exact sparseGet_put_self _ _ _
  · rw [State.slot, slots, sparseGet_put_other _ _ _ _ hm]
    rfl

end State.FindsOpen

/-! ### The statement -/

/-- Settles O39: the tap's handling is the one step of its exit, and each exit is told by its settlement or its hold. -/
theorem tapOutEndsTheJourney : Obligations.TapOutEndsTheJourney := by
  unfold Obligations.TapOutEndsTheJourney
  intro s e rest n c before stored takes out day len leads others core own today opened bank prev late time exit clamped
    denied exitFlags metres found offered record ends priced u settled
  have h : s.FindsOpen e rest n c before :=
    ⟨stored, takes, out, day, len, leads, others, core, own, today, opened⟩
  obtain ⟨htime, hclamped, hdenied, hdoubt⟩ := State.checkedTap_out day out
  have hexit : (s.checkedTap e).exitTime c = exit := by
    rw [TapContext.exitTime, htime]
    rfl
  have hexitClamped : ((s.checkedTap e).flags.timeClamped || (s.checkedTap e).exitClamped c) = clamped := by
    rw [TapContext.exitClamped, htime, hclamped]
    rfl
  have hoffline : (s.checkedTap e).offline = (e.tap.gateDecided == 1) := by
    obtain ⟨-, -, -, -, -, -, -, offline⟩ := State.checkedTap_today day
    exact offline
  have hflags : (s.checkedTap e).exitFlags c = exitFlags := by
    rw [TapContext.exitFlags, hexitClamped, hdenied, hoffline]
  have sameStation : c.extensions = [] → e.tap.station = c.entryStation →
      (s.checkedTap e).ending (.known prev) n c =
        .closeJourney n c (.sameStation exit) exitFlags true (.known prev) := by
    intro noExtensions same
    rw [TapContext.ending, h.station, if_pos ⟨noExtensions, same⟩, hexit, hflags]
  have final : c.extensions ≠ [] ∨ e.tap.station ≠ c.entryStation →
      (s.checkedTap e).ending (.known prev) n c =
        .closeJourney n c (.final e.tap.station exit) exitFlags true (.known prev) := by
    intro other
    rw [TapContext.ending, h.station, if_neg (by tauto), hexit, hflags]
  have request : ∀ how, c.request [] how (c.flags.union exitFlags) =
      ⟨c.token, c.cls, c.day, c.flags.union exitFlags, c.settlementCase [] how⟩ := fun how => c.request_passed rfl how _
  have recorded : ∀ case kind length basis fare,
      SettlementRequest.record ⟨c.token, c.cls, c.day, c.flags.union exitFlags, case⟩ s.doubtFlag found kind
        [⟨some ⟨c.entryStation, c.entryTime⟩, some ⟨e.tap.station, exit⟩, some length⟩] basis fare =
      record kind length basis fare := by
    intro case kind length basis fare
    rw [own]
    rfl
  refine ⟨fun noExtensions room => ⟨fun same => ⟨fun within => ?_, fun beyond => ?_⟩, fun other closed => ?_⟩,
    fun noExtensions same => h.settled (sameStation noExtensions same) (.inl ⟨noExtensions, same⟩),
    fun other => ⟨fun noHold => h.settled (final other) (.inr noHold), fun k f permitted fewer slot => ?_⟩⟩
  · refine h.ends noExtensions room (sameStation noExtensions same) (.inl ⟨noExtensions, same⟩) ?_
    rw [request, State.settle, s.reckon_withinGrace rfl within, ← recorded, same]
    rfl
  · refine h.ends noExtensions room (sameStation noExtensions same) (.inl ⟨noExtensions, same⟩) ?_
    rw [request, State.settle, s.reckon_beyondGrace rfl beyond, ← recorded, same]
    rfl
  · refine h.ends noExtensions room (final (.inr other)) (.inr (.inl closed)) ?_
    rw [request, ← recorded]
    rfl
  · obtain ⟨t, run, records, unit, taps, extension, held, unchanged⟩ :=
      h.held (by tauto) permitted fewer slot
    refine ⟨t, run, records, unit, taps, ?_, ?_, unchanged⟩
    · rw [extension, TapContext.extension, h.station, hexit]
    · rw [held, Core.heldAt, hexit, hexitClamped, hdenied, hdoubt]

end Sys2Proof.Machine
end

section
/-! PROOFS. The deny list (R44, R45): what a run of additions and a run of removals leave, and the statement on DENY_ADD and
DENY_REMOVE. -/

namespace Sys2Proof.Machine

/-- A deny list in order: its tokens strictly rise as numbers (R44). -/
abbrev Ascending (l : List Token) : Prop := l.Pairwise fun a b => a.toNat < b.toNat

theorem Ascending.nodup {l : List Token} (h : Ascending l) : l.Nodup := h.imp fun hlt heq => by simp [heq] at hlt

/-! ### A token put at its place (R44) -/

theorem mem_insertToken {t u : Token} {l : List Token} : u ∈ insertToken t l ↔ u = t ∨ u ∈ l := by
  induction l with
  | nil => simp [insertToken]
  | cons v rest ih =>
    unfold insertToken
    split
    · simp
    · split
      · rename_i same; simp [same]
      · simp only [List.mem_cons, ih]; tauto

theorem length_insertToken {t : Token} {l : List Token} (h : t ∉ l) : (insertToken t l).length = l.length + 1 := by
  induction l with
  | nil => rfl
  | cons v rest ih =>
    unfold insertToken
    split
    · rfl
    · simp_all

theorem Ascending.insertToken {l : List Token} (h : Ascending l) (t : Token) : Ascending (insertToken t l) := by
  induction l with
  | nil => exact List.pairwise_singleton _ t
  | cons v rest ih =>
    obtain ⟨above, hrest⟩ := List.pairwise_cons.1 h
    unfold Machine.insertToken
    split
    · rename_i below
      refine List.pairwise_cons.2 ⟨fun u hu => ?_, h⟩
      rcases List.mem_cons.1 hu with rfl | hu
      · exact below
      · exact Nat.lt_trans below (above u hu)
    · rename_i notBelow
      split
      · exact h
      · rename_i other
        refine List.pairwise_cons.2 ⟨fun u hu => ?_, ih hrest⟩
        rcases mem_insertToken.1 hu with rfl | hu
        · exact Nat.lt_of_le_of_ne (Nat.le_of_not_lt notBelow) fun same => other (BitVec.eq_of_toNat_eq same.symm)
        · exact above u hu

/-! ### Additions (R44) -/

/-- What an edit that began with the list `start` and has taken the tokens `taken`, in that order, has come to: the list in
order and within its size, its count, the tokens it holds, and whether one found no room. -/
structure DenyEdit.Adds (start taken : List Token) (e : DenyEdit) : Prop where
  ascending : Ascending e.list
  within : e.list.length ≤ Config.denyCapacity
  counted : e.list.length = start.length + e.changed
  keeps : ∀ u ∈ start, u ∈ e.list
  only : ∀ u ∈ e.list, u ∈ start ∨ u ∈ taken
  full_iff : e.full = true ↔ ∃ u ∈ taken, u ∉ e.list
  full_length : e.full = true → e.list.length = Config.denyCapacity
  inOrder : ∀ before u after, taken = before ++ u :: after → u ∉ e.list → ∀ v ∈ after, v ∈ e.list → v ∈ start ∨ v ∈ before

theorem DenyEdit.adds_nil {start : List Token} (h : Ascending start) (within : start.length ≤ Config.denyCapacity) :
    DenyEdit.Adds start [] ⟨start, 0, false⟩ where
  ascending := h
  within := within
  counted := rfl
  keeps _ hu := hu
  only _ hu := .inl hu
  full_iff := by simp
  full_length := by simp
  inOrder before u after h := by simp at h

/-- A split of `taken ++ [t]` at a token is at `t` itself or splits `taken`. -/
theorem split_append_singleton {α : Type} {taken before after : List α} {t u : α}
    (h : taken ++ [t] = before ++ u :: after) :
    after = [] ∨ ∃ rest, after = rest ++ [t] ∧ taken = before ++ u :: rest := by
  rcases List.eq_nil_or_concat after with rfl | ⟨rest, last, rfl⟩
  · exact .inl rfl
  · right
    rw [List.concat_eq_append, ← List.cons_append, ← List.append_assoc] at h
    obtain ⟨htaken, hlast⟩ := List.append_inj' h rfl
    simp only [List.cons.injEq, and_true] at hlast
    exact ⟨rest, by rw [List.concat_eq_append, hlast], htaken⟩

/-- One token more is taken (R44). -/
theorem DenyEdit.Adds.add {start taken : List Token} {e : DenyEdit} (h : e.Adds start taken) (t : Token) :
    (e.add t).Adds start (taken ++ [t]) := by
  have only : ∀ u ∈ e.list, u ∈ start ∨ u ∈ taken ++ [t] := fun u hu =>
    (h.only u hu).imp_right (List.mem_append_left _)
  unfold DenyEdit.add
  split
  next held =>
    replace held : t ∈ e.list := by simpa using held
    refine { h with only := only, full_iff := ?_, inOrder := ?_ }
    · rw [h.full_iff]
      constructor
      · rintro ⟨u, hu, out⟩; exact ⟨u, List.mem_append_left _ hu, out⟩
      · rintro ⟨u, hu, out⟩
        rcases List.mem_append.1 hu with hu | hu
        · exact ⟨u, hu, out⟩
        · rw [List.mem_singleton.1 hu] at out; exact absurd held out
    · intro before u after split out v hv listed
      rcases split_append_singleton split with rfl | ⟨rest, rfl, htaken⟩
      · simp at hv
      · have earlier := h.inOrder before u rest htaken out
        rcases List.mem_append.1 hv with hv | hv
        · exact earlier v hv listed
        · obtain rfl := List.mem_singleton.1 hv
          rcases h.only v held with hs | ht
          · exact .inl hs
          · rw [htaken, List.mem_append, List.mem_cons] at ht
            rcases ht with hb | rfl | hr
            · exact .inr hb
            · exact absurd held out
            · exact earlier v hr listed
  next absent =>
    replace absent : t ∉ e.list := by simpa using absent
    split
    next room =>
      have notFull : ¬ e.full = true := fun full => by have := h.full_length full; omega
      have all : ∀ u ∈ taken ++ [t], u ∈ insertToken t e.list := by
        intro u hu
        rw [mem_insertToken]
        rcases List.mem_append.1 hu with hu | hu
        · exact .inr (by_contra fun out => notFull (h.full_iff.2 ⟨u, hu, out⟩))
        · exact .inl (List.mem_singleton.1 hu)
      exact {
        ascending := h.ascending.insertToken t
        within := by rw [length_insertToken absent]; exact room
        counted := by rw [length_insertToken absent, h.counted]; rfl
        keeps := fun u hu => mem_insertToken.2 (.inr (h.keeps u hu))
        only := fun u hu => by
          rcases mem_insertToken.1 hu with rfl | hu
          · exact .inr (by simp)
          · exact only u hu
        full_iff := ⟨fun full => absurd full notFull, fun ⟨u, hu, out⟩ => absurd (all u hu) out⟩
        full_length := fun full => absurd full notFull
        inOrder := fun before u after split out => absurd (all u (by simp [split])) out }
    next noRoom =>
      refine { h with only := only, full_iff := ?_, full_length := ?_, inOrder := ?_ }
      · exact ⟨fun _ => ⟨t, by simp, absent⟩, fun _ => rfl⟩
      · intro _; exact Nat.le_antisymm h.within (Nat.le_of_not_lt noRoom)
      · intro before u after split out v hv listed
        rcases split_append_singleton split with rfl | ⟨rest, rfl, htaken⟩
        · simp at hv
        · rcases List.mem_append.1 hv with hv | hv
          · exact h.inOrder before u rest htaken out v hv listed
          · rw [List.mem_singleton.1 hv] at listed; exact absurd listed absent

theorem DenyEdit.Adds.foldl {start : List Token} (tokens : List Token) : ∀ {taken : List Token} {e : DenyEdit},
    e.Adds start taken → (tokens.foldl DenyEdit.add e).Adds start (taken ++ tokens) := by
  induction tokens with
  | nil => intro taken e h; simpa using h
  | cons t rest ih => intro taken e h; simpa using ih (h.add t)

/-- The tokens of a DENY_ADD taken one after another (R44). -/
theorem DenyEdit.adds {start : List Token} (h : Ascending start) (within : start.length ≤ Config.denyCapacity)
    (tokens : List Token) : (tokens.foldl DenyEdit.add ⟨start, 0, false⟩).Adds start tokens :=
  (DenyEdit.adds_nil h within).foldl tokens

/-! ### Removals (R45) -/

/-- A token removed is gone from the list, and counted when it was there. -/
theorem DenyEdit.remove_spec {e : DenyEdit} (h : e.list.Nodup) (t : Token) :
    (e.remove t).list = e.list.filter (fun u => u != t) ∧
      (e.remove t).changed + (e.remove t).list.length = e.changed + e.list.length := by
  unfold DenyEdit.remove
  split
  next held =>
    replace held : t ∈ e.list := by simpa using held
    have some := List.length_pos_of_mem held
    refine ⟨h.erase_eq_filter t, ?_⟩
    simp only [List.length_erase_of_mem held]
    omega
  next absent =>
    replace absent : t ∉ e.list := by simpa using absent
    refine ⟨(List.filter_eq_self.2 fun u hu => ?_).symm, rfl⟩
    simpa using fun same : u = t => absent (same ▸ hu)

/-- The tokens of a DENY_REMOVE taken one after another (R45). -/
theorem DenyEdit.removes (tokens : List Token) : ∀ {e : DenyEdit}, e.list.Nodup →
    (tokens.foldl DenyEdit.remove e).list = e.list.filter (fun u => !tokens.contains u) ∧
      (tokens.foldl DenyEdit.remove e).changed + (tokens.foldl DenyEdit.remove e).list.length =
        e.changed + e.list.length := by
  induction tokens with
  | nil => intro e _; simp
  | cons t rest ih =>
    intro e h
    obtain ⟨hlist, hcount⟩ := e.remove_spec h t
    obtain ⟨hlist', hcount'⟩ := @ih (e.remove t) (by rw [hlist]; exact h.filter _)
    refine ⟨?_, hcount'.trans hcount⟩
    rw [List.foldl_cons, hlist', hlist, List.filter_filter]
    refine List.filter_congr fun u _ => ?_
    simp only [List.contains_cons, Bool.not_or]
    rw [Bool.and_comm]; rfl

/-- The response of a DENY_REMOVE tells whether it removed anything: whether a token carried was on the list. -/
theorem filter_length_eq_iff {l tokens : List Token} :
    (l.filter fun u => !tokens.contains u).length = l.length ↔ ¬ ∃ u ∈ tokens, u ∈ l := by
  rw [List.length_filter_eq_length_iff]
  simp only [Bool.not_eq_true', List.contains_eq_mem, decide_eq_false_iff_not]
  exact ⟨fun h ⟨u, hu, hl⟩ => h u hl hu, fun h u hl hu => h ⟨u, hu, hl⟩⟩

/-! ### The statement -/

/-- With no request in hand a request acts. -/
theorem State.whenFree_of_none {s : State} (h : s.hand = none) (act : State → State) : s.whenFree act = act s := by
  simp [State.whenFree, h]

theorem exec_denyAdd {s : State} (h : s.hand = none) (src count : Nat) (tokens : List Token) :
    exec (.denyAdd src count tokens) s = .next (s.denyAdd src count tokens) := congrArg _ (State.whenFree_of_none h _)

theorem exec_denyRemove {s : State} (h : s.hand = none) (src count : Nat) (tokens : List Token) :
    exec (.denyRemove src count tokens) s = .next (s.denyRemove src count tokens) :=
  congrArg _ (State.whenFree_of_none h _)

theorem State.denyEdit_refused {s : State} {src kind count : Nat} {tokens : List Token} {act : State → State}
    (h : count = 0 ∨ 8 < count) :
    s.denyEdit src kind count tokens act = s.respond ⟨src, kind, .badArgument, .deny 0 s.deny.length⟩ := if_pos h

theorem State.denyEdit_accepted {s : State} {src kind count : Nat} {tokens : List Token} {act : State → State}
    (least : 1 ≤ count) (most : count ≤ 8) (carried : tokens.length = count) :
    s.denyEdit src kind count tokens act = act s := by
  unfold State.denyEdit
  rw [if_neg (by omega), if_neg (by simp [carried])]

/-- Settles O22: the additions by the invariant of a run of them, the removals as a filter of the list. -/
theorem denyListIsEditedInOrder : Obligations.DenyListIsEditedInOrder := by
  unfold Obligations.DenyListIsEditedInOrder
  refine ⟨fun src count tokens s free ordered within => ⟨fun least most carried => ?_, fun bad => ⟨.deny 0 s.deny.length, ?_⟩⟩,
    fun src count tokens s free ordered => ⟨fun least most carried => ?_, fun bad => ⟨.deny 0 s.deny.length, ?_⟩⟩⟩
  · have added := DenyEdit.adds ordered within tokens
    rw [exec_denyAdd free, State.denyAdd, State.denyEdit_accepted least most carried]
    generalize tokens.foldl DenyEdit.add ⟨s.deny, 0, false⟩ = e at *
    have changed : e.changed = e.list.length - s.deny.length := by have := added.counted; omega
    refine ⟨e.list, e.full, ?_, added.ascending, added.within, ?_, added.keeps, added.only, added.full_iff,
      added.full_length, added.inOrder⟩
    · rw [← changed]
    · rw [added.counted]; exact Nat.le_add_right _ _
  · rw [exec_denyAdd free, State.denyAdd, State.denyEdit_refused bad]
  · obtain ⟨removed, counted⟩ := DenyEdit.removes tokens (e := ⟨s.deny, 0, false⟩) (Ascending.nodup ordered)
    have none_iff := filter_length_eq_iff (l := s.deny) (tokens := tokens)
    rw [exec_denyRemove free, State.denyRemove, State.denyEdit_accepted least most carried]
    dsimp only at *
    generalize tokens.foldl DenyEdit.remove ⟨s.deny, 0, false⟩ = e at *
    have changed : e.changed = s.deny.length - e.list.length := by omega
    have result : (if e.changed = 0 then Result.notFound else .done) =
        if ∃ u ∈ tokens, u ∈ s.deny then .done else .notFound := by
      rw [← removed] at none_iff
      by_cases found : ∃ u ∈ tokens, u ∈ s.deny
      · rw [if_pos found, if_neg (by have := mt none_iff.1 (not_not.2 found); omega)]
      · rw [if_neg found, if_pos (by have := none_iff.2 found; omega)]
    rw [← removed, ← changed, result]
  · rw [exec_denyRemove free, State.denyRemove, State.denyEdit_refused bad]

end Sys2Proof.Machine
end

section
/-! PROOFS. The Tariff Store (spec/02): the banks by role after each operation on the store, a table written and a table copied,
and the statements on seeking, writing, reading, checking, committing and copying. -/

namespace Sys2Proof.Machine

/-! ### The banks by role (R25) -/

section

variable (t : TariffStore)

@[simp] theorem TariffStore.seek_liveBank (table index : Nat) : (t.seek table index).liveBank = t.liveBank := rfl
@[simp] theorem TariffStore.seek_staging (table index : Nat) : (t.seek table index).staging = t.staging := rfl
@[simp] theorem TariffStore.marks_liveBank (v p : Bool) : (t.marks v p).liveBank = t.liveBank := rfl
@[simp] theorem TariffStore.marks_staging (v p : Bool) : (t.marks v p).staging = t.staging := rfl

@[simp] theorem TariffStore.setStaging_liveBank (b : Bank) : (t.setStaging b).liveBank = t.liveBank := by
  unfold TariffStore.setStaging TariffStore.liveBank
  cases t.live <;> simp [TariffStore.bank]

@[simp] theorem TariffStore.setStaging_staging (b : Bank) : (t.setStaging b).staging = b := by
  unfold TariffStore.setStaging TariffStore.staging
  cases t.live <;> simp [TariffStore.bank, BankName.other]

/-- Only a bank moves when staging is replaced. -/
theorem TariffStore.setStaging_eq (b : Bank) :
    ∃ a c, t.setStaging b = { t with bankA := a, bankB := c } := by
  unfold TariffStore.setStaging
  split <;> exact ⟨_, _, rfl⟩

@[simp] theorem TariffStore.swapRoles_liveBank : t.swapRoles.liveBank = t.staging := rfl

@[simp] theorem TariffStore.swapRoles_staging : t.swapRoles.staging = t.liveBank := by
  unfold TariffStore.swapRoles TariffStore.staging TariffStore.liveBank
  cases t.live <;> simp [TariffStore.bank, BankName.other]

@[simp] theorem TariffStore.setStaging_live (b : Bank) : (t.setStaging b).live = t.live := by
  obtain ⟨a, c, h⟩ := t.setStaging_eq b
  rw [h]

theorem TariffStore.written_live (n : Nat) (es : List Byte) : (t.written n es).live = t.live :=
  t.setStaging_live _

theorem TariffStore.written_liveBank (n : Nat) (es : List Byte) : (t.written n es).liveBank = t.liveBank := by
  simp [TariffStore.written]

theorem TariffStore.written_staging (n : Nat) (es : List Byte) :
    (t.written n es).staging = t.staging.write t.cursorTable t.cursorIndex n es := by
  simp [TariffStore.written]

end

/-! ### The tables of a bank, one of them written or copied into (R26) -/

/-- A bank after a write: the table named holds it, and the others are as they were. -/
theorem Bank.write_tables (b : Bank) (table index count : Nat) (bytes : List Byte) :
    (b.write table index count bytes).stations =
        (if table = 1 then b.stations.write {} index (readEntries 5 readStation count bytes) else b.stations) ∧
      (b.write table index count bytes).fareBands =
        (if table = 2 then b.fareBands.write {} index (readEntries 4 readFareBand count bytes) else b.fareBands) ∧
      (b.write table index count bytes).timeBands =
        (if table = 3 then b.timeBands.write {} index (readEntries 5 readTimeBand count bytes) else b.timeBands) ∧
      (b.write table index count bytes).classes =
        (if table = 4 then b.classes.write {} index (readEntries 6 readClass count bytes) else b.classes) ∧
      (b.write table index count bytes).constants =
        (if table = 5 then b.constants.write {} index (readEntries 9 readConstants count bytes) else b.constants) := by
  unfold Bank.write
  repeat' split
  all_goals simp_all

/-- A bank after an entry copied into it: the table named holds it, and the others are as they were. -/
theorem Bank.copyEntry_tables (b live : Bank) (table index : Nat) :
    (b.copyEntry live table index).stations =
        (if table = 1 then b.stations.copyEntry live.stations {} index else b.stations) ∧
      (b.copyEntry live table index).fareBands =
        (if table = 2 then b.fareBands.copyEntry live.fareBands {} index else b.fareBands) ∧
      (b.copyEntry live table index).timeBands =
        (if table = 3 then b.timeBands.copyEntry live.timeBands {} index else b.timeBands) ∧
      (b.copyEntry live table index).classes =
        (if table = 4 then b.classes.copyEntry live.classes {} index else b.classes) ∧
      (b.copyEntry live table index).constants =
        (if table = 5 then b.constants.copyEntry live.constants {} index else b.constants) := by
  unfold Bank.copyEntry
  repeat' split
  all_goals simp_all

/-! ### TABLE_SEEK (R32) -/

theorem exec_tableSeek {s : State} (h : s.hand = none) (src table index : Nat) :
    exec (.tableSeek src table index) s = .next (s.tableSeek src table index) := congrArg _ (State.whenFree_of_none h _)

/-- The tables that a seek may name, with their capacities and the lengths a response gives (R25, R32, R160). -/
def State.seekTables (s : State) : List (Nat × Nat × Nat) :=
  [(1, 64, s.tariff.staging.stations.length), (2, 16, s.tariff.staging.fareBands.length),
    (3, 18, s.tariff.staging.timeBands.length), (4, 16, s.tariff.staging.classes.length),
    (5, 1, s.tariff.staging.constants.length), (8, 4096, s.deny.length)]

theorem State.seekTables_capacity {s : State} {table capacity length : Nat}
    (h : (table, capacity, length) ∈ s.seekTables) : seekCapacity table = capacity := by
  simp only [State.seekTables, List.mem_cons, List.not_mem_nil, or_false, Prod.mk.injEq] at h
  rcases h with ⟨rfl, rfl, -⟩ | ⟨rfl, rfl, -⟩ | ⟨rfl, rfl, -⟩ | ⟨rfl, rfl, -⟩ | ⟨rfl, rfl, -⟩ | ⟨rfl, rfl, -⟩ <;> rfl

theorem State.seekTables_length {s : State} {capacity length : Nat}
    (h : (s.tariff.cursorTable, capacity, length) ∈ s.seekTables) : s.cursorLength s.tariff.staging = length := by
  simp only [State.seekTables, List.mem_cons, List.not_mem_nil, or_false, Prod.mk.injEq] at h
  rcases h with ⟨e, -, rfl⟩ | ⟨e, -, rfl⟩ | ⟨e, -, rfl⟩ | ⟨e, -, rfl⟩ | ⟨e, -, rfl⟩ | ⟨e, -, rfl⟩ <;>
    simp [State.cursorLength, Bank.tableLength, e]

theorem seekCapacity_unnamed {table : Nat} (h : table ∉ [1, 2, 3, 4, 5, 8]) : seekCapacity table = 0 := by
  simp only [List.mem_cons, List.not_mem_nil, or_false, not_or] at h
  simp [seekCapacity, tableCapacity, h]

theorem State.tableSeek_busy {s : State} (h : s.copy ≠ none) (src table index : Nat) :
    s.tableSeek src table index = s.respond (tariffResponse src 0x10 .busy s.stagingReport) :=
  if_pos (Option.isSome_iff_ne_none.2 h)

theorem State.tableSeek_beyond {s : State} {table index : Nat} (idle : s.copy = none) (h : seekCapacity table ≤ index)
    (src : Nat) :
    s.tableSeek src table index = s.respond (tariffResponse src 0x10 .badArgument s.stagingReport) := by
  unfold State.tableSeek
  rw [if_neg (by simp [idle]), if_pos h]

/-- Settles O14: BUSY, then the index, then the cursor, by the branches of the seek. -/
theorem tableSeekMovesTheCursor : Obligations.TableSeekMovesTheCursor := by
  unfold Obligations.TableSeekMovesTheCursor
  intro src s free tables refused
  have refuse : ∀ r table index,
      s.tableSeek src table index = s.respond (tariffResponse src 0x10 r s.stagingReport) → refused r table index :=
    fun r table index h => ⟨s.cursorLength s.tariff.staging, fun _ _ listed => (State.seekTables_length listed).symm ▸ rfl,
      by rw [exec_tableSeek free, h]; rfl⟩
  refine ⟨fun table capacity length index listed => ⟨fun idle below => ?_, fun idle above => ?_, fun busy => ?_⟩,
    fun table index unnamed => ⟨fun idle => ?_, fun busy => ?_⟩⟩
  · have sought : (s.tariff.seek table index).cursorTable = table := rfl
    have held : State.cursorLength { s with tariff := s.tariff.seek table index } s.tariff.staging = length :=
      State.seekTables_length (s := { s with tariff := s.tariff.seek table index }) listed
    rw [exec_tableSeek free, State.tableSeek, if_neg (by simp [idle]),
      if_neg (by rw [State.seekTables_capacity listed]; omega), ← held]
    rfl
  · exact refuse _ _ _ (State.tableSeek_beyond idle (by rw [State.seekTables_capacity listed]; exact above) src)
  · exact refuse _ _ _ (State.tableSeek_busy busy _ _ _)
  · exact refuse _ _ _ (State.tableSeek_beyond idle (by rw [seekCapacity_unnamed unnamed]; exact Nat.zero_le _) src)
  · exact refuse _ _ _ (State.tableSeek_busy busy _ _ _)

/-! ### TABLE_WRITE (R26, R33, R40) -/

theorem exec_tableWrite {s : State} (h : s.hand = none) (src count : Nat) (entries : List Byte) :
    exec (.tableWrite src count entries) s = .next (s.tableWrite src count entries) :=
  congrArg _ (State.whenFree_of_none h _)

/-- A write of good form that no rule refuses is stored, and the response tells of a commit withdrawn (R33, R40). -/
theorem State.tableWrite_accepted {s : State} {count : Nat} {entries : List Byte}
    (formed : s.writeFormed count entries = true) (idle : s.copy = none) (taken : s.writeRefused count = false)
    (src : Nat) :
    s.tableWrite src count entries =
      State.respond { s with tariff := s.tariff.written count entries } (tariffResponse src 0x11 .done
        { State.stagingReport { s with tariff := s.tariff.written count entries } with
          withdrawn := s.tariff.pendingSwap, count := count }) := by
  unfold State.tableWrite
  rw [if_neg (by simp [formed]), if_neg (by simp [idle]), if_neg (by simp [taken])]

theorem State.tableWrite_refused {s : State} {count : Nat} {entries : List Byte}
    (formed : s.writeFormed count entries = true) (idle : s.copy = none) (refused : s.writeRefused count = true)
    (src : Nat) :
    s.tableWrite src count entries = s.respond (tariffResponse src 0x11 .badArgument s.stagingReport) := by
  unfold State.tableWrite
  rw [if_neg (by simp [formed]), if_neg (by simp [idle]), if_pos refused]

theorem State.tableWrite_busy {s : State} {count : Nat} {entries : List Byte}
    (formed : s.writeFormed count entries = true) (busy : s.copy ≠ none) (src : Nat) :
    s.tableWrite src count entries = s.respond (tariffResponse src 0x11 .busy s.stagingReport) := by
  unfold State.tableWrite
  rw [if_neg (by simp [formed]), if_pos (Option.isSome_iff_ne_none.2 busy)]

/-- The tables of a bank with their capacities and entry sizes (R25, R160). -/
def bankTables : List (Nat × Nat × Nat) := [(1, 64, 5), (2, 16, 4), (3, 18, 5), (4, 16, 6), (5, 1, 9)]

theorem bankTables_spec {table capacity size : Nat} (h : (table, capacity, size) ∈ bankTables) :
    table ≠ 8 ∧ tableCapacity table = capacity ∧ entrySize table = size := by
  simp only [bankTables, List.mem_cons, List.not_mem_nil, or_false, Prod.mk.injEq] at h
  rcases h with ⟨rfl, rfl, rfl⟩ | ⟨rfl, rfl, rfl⟩ | ⟨rfl, rfl, rfl⟩ | ⟨rfl, rfl, rfl⟩ | ⟨rfl, rfl, rfl⟩ <;> decide

/-- A list made of a part kept, a gap, the entries written and the rest, read at an index. -/
theorem BankTable.write_spec {α : Type} (t : BankTable α) (gap : α) (index : Nat) (es : List α)
    (length : t.length ≤ t.entries.length) (fits : index + es.length ≤ t.entries.length) :
    (t.write gap index es).entries.length = t.entries.length ∧
      (∀ i, i < es.length → (t.write gap index es).entries[index + i]? = es[i]?) ∧
      (∀ i, t.length ≤ i → i < index → (t.write gap index es).entries[i]? = some gap) ∧
      (∀ i, i < t.length → i < index → (t.write gap index es).entries[i]? = t.entries[i]?) ∧
      ∀ i, index + es.length ≤ i → (t.write gap index es).entries[i]? = t.entries[i]? := by
  have kept : (t.entries.take (min t.length index)).length = min t.length index := by
    rw [List.length_take]; omega
  have gaps : (t.entries.take (min t.length index) ++ List.replicate (index - t.length) gap).length = index := by
    rw [List.length_append, kept, List.length_replicate]; omega
  have written : (t.entries.take (min t.length index) ++ List.replicate (index - t.length) gap ++ es).length =
      index + es.length := by rw [List.length_append, gaps]
  unfold BankTable.write
  refine ⟨?_, fun i hi => ?_, fun i above below => ?_, fun i held below => ?_, fun i beyond => ?_⟩
  · simp only [List.length_append, List.length_take, List.length_replicate, List.length_drop]; omega
  · rw [List.getElem?_append_left (by omega), List.getElem?_append_right (by omega), gaps, Nat.add_sub_cancel_left]
  · rw [List.getElem?_append_left (by omega), List.getElem?_append_left (by omega),
      List.getElem?_append_right (by omega), List.getElem?_replicate, if_pos (by omega)]
  · rw [List.getElem?_append_left (by omega), List.getElem?_append_left (by omega),
      List.getElem?_append_left (by omega), List.getElem?_take_of_lt (by omega)]
  · rw [List.getElem?_append_right (by omega), written, List.getElem?_drop, Nat.add_sub_cancel' beyond]

/-- Settles O15: a write is taken or refused by the branches of TABLE_WRITE, and a written table is read part by part. -/
theorem tableWriteStoresEntriesAndGaps : Obligations.TableWriteStoresEntriesAndGaps := by
  unfold Obligations.TableWriteStoresEntriesAndGaps
  refine ⟨fun src count entries s free idle => ⟨fun capacity size listed least most fits length => ?_, fun bad => ?_,
    fun capacity size listed least most beyond length => ?_⟩, fun α t gap index es length fits some => ?_⟩
  · obtain ⟨bank, capacity, size⟩ := bankTables_spec listed
    subst capacity size
    have formed : s.writeFormed count entries = true := by simp [State.writeFormed, length]
    have taken : s.writeRefused count = false := by
      simp only [State.writeRefused, Bool.or_eq_false_iff, beq_eq_false_iff_ne, decide_eq_false_iff_not]
      omega
    obtain ⟨stations, fareBands, timeBands, classes, constants⟩ :=
      s.tariff.staging.write_tables s.tariff.cursorTable s.tariff.cursorIndex count entries
    rw [← s.tariff.written_staging] at *
    refine ⟨s.tariff.written count entries, ?_, ?_, s.tariff.written_liveBank _ _, rfl, rfl, rfl, rfl, stations, fareBands,
      timeBands, classes, constants⟩
    · have held : State.cursorLength { s with tariff := s.tariff.written count entries }
          (s.tariff.written count entries).staging =
            (s.tariff.written count entries).staging.tableLength s.tariff.cursorTable := if_neg bank
      rw [exec_tableWrite free, State.tableWrite_accepted formed idle taken, ← held, ← s.tariff.written_live count entries]
      rfl
    · exact s.tariff.written_live count entries
  · have formed : s.writeFormed count entries = true := by
      rcases bad with h | h | h <;> simp [State.writeFormed, h]
    have refused : s.writeRefused count = true := by
      rcases bad with h | h | h <;> simp [State.writeRefused, h]
    exact ⟨.tariff s.stagingReport, by rw [exec_tableWrite free, State.tableWrite_refused formed idle refused]; rfl⟩
  · obtain ⟨bank, capacity, size⟩ := bankTables_spec listed
    subst capacity size
    refine ⟨.tariff s.stagingReport, ?_⟩
    rw [exec_tableWrite free, State.tableWrite_refused (by simp [State.writeFormed, length]) idle
      (by simp [State.writeRefused, beyond])]
    rfl
  · exact ⟨rfl, t.write_spec gap index es length fits⟩

/-! ### TABLE_READ (R34, R35) -/

theorem exec_tableRead {s : State} (h : s.hand = none) (src count : Nat) (bank : Option Nat) :
    exec (.tableRead src count bank) s = .next (s.tableRead src count bank) := congrArg _ (State.whenFree_of_none h _)

theorem TariffStore.chosen_eq (t : TariffStore) {bank : Option Nat} (h : bank = none ∨ bank = some 0 ∨ bank = some 1) :
    t.chosen bank = some (if bank = some 1 then t.liveBank else t.staging) := by
  rcases h with rfl | rfl | rfl <;> rfl

/-- The entries of a bank's tables below their lengths, and the deny list, as a read returns them (R34, R35). -/
def State.readTables (s : State) (b : Bank) : List (Nat × Nat × List ReadEntry) :=
  [(1, b.stations.length, (b.stations.entries.take b.stations.length).map ReadEntry.station),
    (2, b.fareBands.length, (b.fareBands.entries.take b.fareBands.length).map ReadEntry.fareBand),
    (3, b.timeBands.length, (b.timeBands.entries.take b.timeBands.length).map ReadEntry.timeBand),
    (4, b.classes.length, (b.classes.entries.take b.classes.length).map ReadEntry.cls),
    (5, b.constants.length, (b.constants.entries.take b.constants.length).map ReadEntry.constants),
    (8, s.deny.length, s.deny.map ReadEntry.token)]

theorem State.readTables_spec {s : State} {b : Bank} {length : Nat} {es : List ReadEntry}
    (h : (s.tariff.cursorTable, length, es) ∈ s.readTables b) (count : Nat) :
    s.cursorLength b = length ∧ s.readFrom b count = (es.drop s.tariff.cursorIndex).take count := by
  simp only [State.readTables, List.mem_cons, List.not_mem_nil, or_false, Prod.mk.injEq] at h
  rcases h with ⟨e, rfl, rfl⟩ | ⟨e, rfl, rfl⟩ | ⟨e, rfl, rfl⟩ | ⟨e, rfl, rfl⟩ | ⟨e, rfl, rfl⟩ | ⟨e, rfl, rfl⟩ <;>
    simp [State.cursorLength, State.readFrom, Bank.tableLength, Bank.read, BankTable.read, e]

/-- A read that is served returns what it reads and moves the cursor past it (R34). -/
theorem State.tableRead_served {s : State} {bank : Option Nat} {b : Bank} {count : Nat} (chosen : s.tariff.chosen bank = some b)
    (served : (s.copy.isSome && s.readsStaging bank) = false) (least : 1 ≤ count) (most : count ≤ 8) (src : Nat) :
    s.tableRead src count bank =
      let index := s.tariff.cursorIndex + (s.readFrom b count).length
      State.respond { s with tariff := { s.tariff with cursorIndex := index } }
        ⟨src, 0x12, .done, .tariff ⟨s.tariff.cursorTable, index, s.cursorLength b, s.tariff.valid, s.tariff.pendingSwap,
          false, s.tariff.live, (s.readFrom b count).length, none, s.readFrom b count⟩⟩ := by
  unfold State.tableRead
  rw [chosen]
  dsimp only
  rw [if_neg (by simp [served]), if_neg (by omega)]
  rfl

theorem State.tableRead_busy {s : State} {bank : Option Nat} {b : Bank} (chosen : s.tariff.chosen bank = some b)
    (busy : s.copy ≠ none) (staging : s.readsStaging bank = true) (src count : Nat) :
    s.tableRead src count bank = s.respond (tariffResponse src 0x12 .busy (s.tariffReport (s.cursorLength b))) := by
  unfold State.tableRead
  rw [chosen]
  exact if_pos (by rw [Option.isSome_iff_ne_none.2 busy, staging]; rfl)

/-- A count of 0 or above 8 is refused, whichever bank is named (R34). -/
theorem State.tableRead_refused {s : State} {count : Nat} (wrong : count = 0 ∨ 8 < count) (idle : s.copy = none)
    (src : Nat) (bank : Option Nat) :
    ∃ d, s.tableRead src count bank = s.respond ⟨src, 0x12, .badArgument, d⟩ := by
  unfold State.tableRead
  split
  · exact ⟨_, rfl⟩
  · exact ⟨_, by rw [if_neg (by simp [idle]), if_pos wrong]; rfl⟩

/-- Settles O16: the bank a read chooses, then what it returns, by the table on which the cursor stands. -/
theorem tableReadReturnsEntries : Obligations.TableReadReturnsEntries := by
  unfold Obligations.TableReadReturnsEntries
  intro src count bank s free least most
  refine ⟨fun table length es b named role served cursor listed => ?_, fun wrong bad idle => ?_⟩
  · subst cursor role
    have mayRead : (s.copy.isSome && s.readsStaging bank) = false := by
      rcases served with h | h | h <;> simp [State.readsStaging, h]
    obtain ⟨held, returned⟩ := State.readTables_spec listed count
    rw [exec_tableRead free, State.tableRead_served (s.tariff.chosen_eq named) mayRead least most, held, returned]
  · obtain ⟨d, h⟩ := State.tableRead_refused bad idle src bank
    exact ⟨d, by rw [exec_tableRead free, h]⟩

/-! ### TARIFF_CHECK, TARIFF_COMMIT and TARIFF_COPY (R37 to R42) -/

theorem exec_tariffCheck {s : State} (h : s.hand = none) (src : Nat) :
    exec (.tariffCheck src) s = .next (s.tariffCheck src) := congrArg _ (State.whenFree_of_none h _)

theorem exec_tariffCommit {s : State} (h : s.hand = none) (src : Nat) :
    exec (.tariffCommit src) s = .next (s.tariffCommit src) := congrArg _ (State.whenFree_of_none h _)

theorem exec_tariffCopy {s : State} (h : s.hand = none) (src : Nat) :
    exec (.tariffCopy src) s = .next (s.tariffCopy src) := congrArg _ (State.whenFree_of_none h _)

theorem State.tariffCheck_busy {s : State} (h : s.copy ≠ none) (src : Nat) :
    s.tariffCheck src = s.respond (tariffResponse src 0x13 .busy s.stagingReport) :=
  if_pos (Option.isSome_iff_ne_none.2 h)

theorem State.tariffCommit_busy {s : State} (h : s.copy ≠ none) (src : Nat) :
    s.tariffCommit src = s.respond (tariffResponse src 0x14 .busy s.stagingReport) :=
  if_pos (Option.isSome_iff_ne_none.2 h)

theorem State.tariffCopy_busy {s : State} (h : s.copy ≠ none) (src : Nat) :
    s.tariffCopy src = s.respond (tariffResponse src 0x15 .busy s.stagingReport) :=
  if_pos (Option.isSome_iff_ne_none.2 h)

/-- Settles O17: each of the requests with a copy in progress. -/
theorem copyInProgressRefusesBusy : Obligations.CopyInProgressRefusesBusy := by
  unfold Obligations.CopyInProgressRefusesBusy
  intro src c s free copy busy
  have running : s.copy ≠ none := by simp [copy]
  have answered : ∀ {kind i t report}, exec i s = .next t → t = s.respond (tariffResponse src kind .busy report) →
      busy kind i := fun run h => ⟨_, run.trans (congrArg _ h)⟩
  refine ⟨fun table index => answered (exec_tableSeek free ..) (State.tableSeek_busy running ..),
    fun count es _ _ _ length => answered (exec_tableWrite free ..)
      (State.tableWrite_busy (by simp [State.writeFormed, length]) running src),
    fun count cursor => ⟨answered (exec_tableRead free ..) (State.tableRead_busy rfl running ?_ src count),
      answered (exec_tableRead free ..) (State.tableRead_busy rfl running ?_ src count)⟩,
    answered (exec_tariffCheck free _) (State.tariffCheck_busy running _),
    answered (exec_tariffCommit free _) (State.tariffCommit_busy running _),
    answered (exec_tariffCopy free _) (State.tariffCopy_busy running _)⟩
  · simp [State.readsStaging, cursor]
  · simp [State.readsStaging, cursor]

/-- TARIFF_CHECK with no copy in progress sets the validity mark as staging passes or fails (R37). -/
theorem State.tariffCheck_idle {s : State} (idle : s.copy = none) (src : Nat) :
    s.tariffCheck src =
      let t := s.tariff.marks s.tariff.staging.firstFailure.isNone s.tariff.pendingSwap
      State.respond { s with tariff := t } (tariffResponse src 0x13
        (if s.tariff.staging.firstFailure = none then .done else .tableInvalid)
        { State.stagingReport { s with tariff := t } with failure := s.tariff.staging.firstFailure }) := by
  unfold State.tariffCheck
  rw [if_neg (by simp [idle])]
  split <;> rename_i h <;> rw [h] <;> rfl

/-- TARIFF_COMMIT over a failing staging bank clears both marks (R38). -/
theorem State.tariffCommit_failing {s : State} {f : CheckFailure} (idle : s.copy = none)
    (fails : s.tariff.staging.firstFailure = some f) (src : Nat) :
    s.tariffCommit src =
      State.respond { s with tariff := s.tariff.marks false false } (tariffResponse src 0x14 .tableInvalid
        { State.stagingReport { s with tariff := s.tariff.marks false false } with failure := some f }) := by
  unfold State.tariffCommit
  rw [if_neg (by simp [idle]), fails]

/-- TARIFF_COMMIT over a passing staging bank swaps the roles at once or leaves the swap pending, by the mode
(R38, R39). -/
theorem State.tariffCommit_passing {s : State} (idle : s.copy = none) (passes : s.tariff.staging.firstFailure = none)
    (src : Nat) :
    s.tariffCommit src =
      State.respond { s with tariff := s.tariff.committed s.mode } (tariffResponse src 0x14 .done
        (State.stagingReport { s with tariff := s.tariff.committed s.mode })) := by
  unfold State.tariffCommit
  rw [if_neg (by simp [idle]), passes]

/-- Settles O18: the check and the commit by what the tariff check finds of staging, and the commit by the mode. -/
theorem checkAndCommitJudgeStaging : Obligations.CheckAndCommitJudgeStaging := by
  unfold Obligations.CheckAndCommitJudgeStaging
  refine ⟨fun t b => ⟨fun live => ?_, fun live => ?_, rfl, rfl, rfl, rfl, rfl⟩,
    fun src s free idle => ⟨fun passes => ?_, fun f fails => ?_⟩,
    fun src s free idle => ⟨fun f fails => ?_, fun passes mode => ?_, fun passes mode => ?_⟩⟩
  · simp [TariffStore.liveBank, TariffStore.staging, live, TariffStore.bank, BankName.other]
  · simp [TariffStore.liveBank, TariffStore.staging, live, TariffStore.bank, BankName.other]
  · rw [exec_tariffCheck free, State.tariffCheck_idle idle, passes]; rfl
  · rw [exec_tariffCheck free, State.tariffCheck_idle idle, fails]; rfl
  · rw [exec_tariffCommit free, State.tariffCommit_failing idle fails]; rfl
  · refine ⟨s.tariff.swapRoles, ?_, rfl, rfl, rfl, s.tariff.swapRoles_staging, rfl, rfl, rfl, rfl⟩
    rw [exec_tariffCommit free, State.tariffCommit_passing idle passes, mode]; rfl
  · rw [exec_tariffCommit free, State.tariffCommit_passing idle passes, mode]; rfl

/-! ### COPY_ENTRY (R42) -/

/-- An entry copied that is not the last of its table: it stands at its place, and nothing else moves. -/
theorem BankTable.copyEntry_within {α : Type} (t live : BankTable α) (blank : α) {i : Nat} (h : i + 1 < live.length) :
    t.copyEntry live blank i = ⟨t.entries.set i (live.entries.getD i blank), t.length⟩ := by
  unfold BankTable.copyEntry
  rw [if_pos (by omega : i < live.length)]
  exact if_pos h

/-- The last entry of a table copied, or the step of a table of length 0: the places at and above the live length are
blank (R26, log 25, log 47). -/
theorem BankTable.copyEntry_last {α : Type} (t live : BankTable α) (blank : α) {i : Nat} (h : live.length ≤ i + 1) :
    t.copyEntry live blank i =
      ⟨((if i < live.length then t.entries.set i (live.entries.getD i blank) else t.entries).take live.length) ++
        List.replicate (t.entries.length - live.length) blank, live.length⟩ := by
  unfold BankTable.copyEntry
  dsimp only
  rw [if_neg (by omega)]
  congr 4
  split
  · rw [List.length_set]
  · rfl

/-- The entries `0` to `n - 1` copied, none of them the last of the table: they are the live ones, the others and the
length as they were. -/
theorem BankTable.foldl_copyEntry {α : Type} (staging live : BankTable α) (blank : α)
    (size : staging.entries.length = live.entries.length) (fits : live.length ≤ live.entries.length) (n : Nat)
    (within : n < live.length ∨ n = 0) :
    let t := (List.range n).foldl (fun t i => t.copyEntry live blank i) staging
    t.length = staging.length ∧ t.entries.length = live.entries.length ∧ ∀ i, i < n → t.entries[i]? = live.entries[i]? := by
  induction n with
  | zero => exact ⟨rfl, size, fun i hi => absurd hi (Nat.not_lt_zero i)⟩
  | succ n ih =>
    have below : n + 1 < live.length := within.resolve_right (Nat.succ_ne_zero n)
    obtain ⟨length, entries, copied⟩ := ih (.inl (by omega))
    rw [List.range_succ, List.foldl_append, List.foldl_cons, List.foldl_nil,
      BankTable.copyEntry_within _ _ _ below]
    refine ⟨length, by rw [List.length_set, entries], fun i hi => ?_⟩
    rw [List.getElem?_set]
    split
    next same =>
      subst same
      rw [if_pos (by omega), List.getD_eq_getElem?_getD, List.getElem?_eq_getElem (by omega), Option.getD_some]
    next other => exact copied i (by omega)

/-- A table into which every entry has been copied is the live one below its length, and blank above it (R26, R42). -/
theorem BankTable.copied_spec {α : Type} (staging live : BankTable α) (blank : α)
    (size : staging.entries.length = live.entries.length) (fits : live.length ≤ live.entries.length) :
    let copied := (List.range (max 1 live.length)).foldl (fun t i => t.copyEntry live blank i) staging
    copied.length = live.length ∧ copied.entries.length = live.entries.length ∧
      (∀ i, i < live.length → copied.entries[i]? = live.entries[i]?) ∧
      ∀ i, live.length ≤ i → i < live.entries.length → copied.entries[i]? = some blank := by
  obtain ⟨n, last⟩ : ∃ n, max 1 live.length = n + 1 := ⟨max 1 live.length - 1, by omega⟩
  obtain ⟨-, entries, copied⟩ := staging.foldl_copyEntry live blank size fits n (by omega)
  rw [last, List.range_succ, List.foldl_append, List.foldl_cons, List.foldl_nil,
    BankTable.copyEntry_last _ _ _ (by omega)]
  generalize (List.range n).foldl (fun t i => t.copyEntry live blank i) staging = t at *
  have full : (if n < live.length then t.entries.set n (live.entries.getD n blank) else t.entries).length =
      live.entries.length := by split <;> simp [entries]
  have taken : ((if n < live.length then t.entries.set n (live.entries.getD n blank) else t.entries).take
      live.length).length = live.length := by rw [List.length_take, full]; omega
  refine ⟨rfl, ?_, fun i below => ?_, fun i above room => ?_⟩
  · rw [List.length_append, taken, List.length_replicate, entries]; omega
  · rw [List.getElem?_append_left (by omega), List.getElem?_take_of_lt below, if_pos (by omega), List.getElem?_set]
    split
    next same =>
      subst same
      rw [if_pos (by omega), List.getD_eq_getElem?_getD, List.getElem?_eq_getElem (by omega), Option.getD_some]
    next other => exact copied i (by omega)
  · rw [List.getElem?_append_right (by omega), taken, List.getElem?_replicate, if_pos (by omega)]

theorem CopyOperation.advance_eq (c : CopyOperation) (length : Nat) :
    c.advance length = { c with
      table := if c.index + 1 < length then c.table else c.table + 1
      index := if c.index + 1 < length then c.index + 1 else 0 } := by
  unfold CopyOperation.advance
  split <;> rfl

/-- A copy in progress with a table left copies its next entry and goes on (R42). -/
theorem exec_copyEntry {s : State} {c : CopyOperation} (copy : s.copy = some c) (running : c.table < 6) :
    exec .copyEntry s = .next { s with
      tariff := s.tariff.setStaging (s.tariff.staging.copyEntry s.tariff.liveBank c.table c.index)
      copy := some (c.advance (s.tariff.liveBank.tableLength c.table)) } := by
  show execCopyEntry s = _
  unfold execCopyEntry
  rw [copy]
  exact if_pos (decide_eq_true running)

/-- Settles O19: the start and the single entry by their definitions, the whole table by induction over its entries. -/
theorem tariffCopyMakesTablesEqual : Obligations.TariffCopyMakesTablesEqual := by
  unfold Obligations.TariffCopyMakesTablesEqual
  refine ⟨⟨fun src s free idle => ?_, fun c s copy first last => ?_⟩,
    fun α staging live blank size fits => ⟨fun t i within entries => ?_, staging.copied_spec live blank size fits⟩⟩
  · rw [exec_tariffCopy free, State.tariffCopy, if_neg (by simp [idle])]; rfl
  · refine ⟨s.tariff.setStaging (s.tariff.staging.copyEntry s.tariff.liveBank c.table c.index), ?_,
      s.tariff.setStaging_liveBank _, s.tariff.setStaging_live _, ?_⟩
    · rw [exec_copyEntry copy (Nat.lt_succ_of_le last), CopyOperation.advance_eq]
    · rw [TariffStore.setStaging_staging]
      obtain ⟨a, b, moved⟩ := s.tariff.setStaging_eq (s.tariff.staging.copyEntry s.tariff.liveBank c.table c.index)
      rw [moved]
      exact ⟨rfl, rfl, rfl, rfl, s.tariff.staging.copyEntry_tables s.tariff.liveBank c.table c.index⟩
  · rw [t.copyEntry_within live blank within]
    refine ⟨rfl, ?_, fun j other => List.getElem?_set_ne (Ne.symm other)⟩
    rw [List.getElem?_set_self (by omega), List.getD_eq_getElem?_getD, List.getElem?_eq_getElem (by omega),
      Option.getD_some]

/-! ### TARIFF_COPY_COMPLETION (R42, R164) -/

/-- A copy with every table copied is checked, and its response formed and queued or held (R42, R164). -/
theorem exec_tariffCopyCompletion {s : State} {c : CopyOperation} (copy : s.copy = some c) (ended : c.running = false)
    (unformed : c.response = none) :
    exec .tariffCopyCompletion s =
      .next (if s.responses.length < Config.responseQueueCapacity then
        { s with
          tariff := s.tariff.copied
          responses := s.responses ++ [State.copyResponse { s with tariff := s.tariff.copied } c]
          copy := none }
      else
        { s with
          tariff := s.tariff.copied
          copy := some { c with response := some (State.copyResponse { s with tariff := s.tariff.copied } c) } }) := by
  show execTariffCopyCompletion s = _
  unfold execTariffCopyCompletion
  split
  next d held =>
    obtain rfl : d = c := Option.some.inj (held.symm.trans copy)
    rw [if_pos ⟨ended, unformed⟩]
    by_cases room : s.responses.length < Config.responseQueueCapacity
    · rw [if_pos room]; exact if_pos (decide_eq_true room)
    · rw [if_neg room]; exact if_neg (by simpa [State.responseRoom] using room)
  next idle => exact absurd (idle.symm.trans copy) (by simp)

/-- The store after a copy's check: the validity mark is set over a staging bank that passes (R42). -/
theorem TariffStore.copied_eq (t : TariffStore) :
    t.copied = { t with valid := if t.staging.firstFailure = none then true else t.valid } := by
  unfold TariffStore.copied
  split <;> rename_i h <;> rw [h] <;> rfl

@[simp] theorem TariffStore.copied_staging (t : TariffStore) : t.copied.staging = t.staging := by
  rw [TariffStore.copied_eq]; rfl

@[simp] theorem TariffStore.copied_liveBank (t : TariffStore) : t.copied.liveBank = t.liveBank := by
  rw [TariffStore.copied_eq]; rfl

theorem TariffStore.copyResult_eq (t : TariffStore) :
    t.copyResult = if t.staging.firstFailure = none then .done else .tableInvalid := by
  unfold TariffStore.copyResult
  split <;> rename_i h <;> rw [h] <;> rfl

/-- Settles O20: by what the tariff check finds of staging, and by the room in the response queue. -/
theorem copyCompletionChecksStaging : Obligations.CopyCompletionChecksStaging := by
  unfold Obligations.CopyCompletionChecksStaging
  intro src index withdrawn s copy f check valid response
  have answer : State.copyResponse { s with tariff := s.tariff.copied } ⟨src, withdrawn, 6, index, none⟩ = response := by
    rw [State.copyResponse, TariffStore.copyResult_eq, TariffStore.copied_staging, check, TariffStore.copied_eq, check]
    rfl
  rw [exec_tariffCopyCompletion copy rfl rfl, answer, TariffStore.copied_eq, check]

end Sys2Proof.Machine
end

section
/-! PROOFS. What every step keeps: the basic updates of which the part's steps are made, but for those of the tariff banks,
and that a property which they and the requests keep is kept by every command. -/

namespace Sys2Proof.Machine

/-! ### The basic updates -/

/-- `t` differs from `s` at most in what holds no queue, no counter, no port, no bank and no mode. -/
def BackgroundFrame (s t : State) : Prop :=
  t = { s with
    pending := t.pending, clock := t.clock, watchdog := t.watchdog, table := t.table, cap := t.cap, unit := t.unit
    sweep := t.sweep, hand := t.hand, dayOp := t.dayOp, auditOp := t.auditOp, settings := t.settings
    written := t.written, fault := t.fault }

/-- Every counter stands in its range (R168). -/
def Counters.InRange (c : Counters) : Prop := ∀ n ∈ c.values, n ≤ Config.counterMax

/-- What a property of the next state says of an outcome. -/
def NextMeets (P : State → Prop) : Host.Outcome State Fault Refusal → Prop
  | .next t => P t
  | .fault _ => True
  | .refused _ => True

/-- A property of the state that rests on the queues, the counters, the ports, the tariff and the mode, and that each basic
update of the queues, the counters and the ports keeps. -/
structure QueueClosed (P : State → Prop) : Prop where
  background : ∀ {s t}, P s → BackgroundFrame s t → P t
  raise : ∀ s d, P s → P (s.raise d)
  count : ∀ s c, (s.counters.InRange → c.InRange) → P s → P { s with counters := c }
  appendRecord : ∀ s r, s.recordRoom = true → P s → P (s.appendRecord r)
  queueVerdict : ∀ s v, s.verdicts.length < Config.verdictQueueCapacity → P s → P { s with verdicts := s.verdicts ++ [v] }
  queueResponse : ∀ s r, s.responseRoom = true → P s → P { s with responses := s.responses ++ [r] }
  queueTap : ∀ s e, s.taps.length < Config.tapQueueCapacity → P s → P { s with taps := s.taps ++ [e] }
  dropTap : ∀ s e rest, s.taps = e :: rest → P s → P { s with taps := rest }
  pushTransit : ∀ s p f, (s.transit p).length < Config.transitCapacity → P s → P (s.pushTransit p f)
  setPort : ∀ s p ps, ((s.port p).Bounded → ps.Bounded) → P s → P (s.setPort p ps)
  grant : ∀ s p x f t, s.granted p = some x → s.takeFrom x = some (f, t) → P s → P { t with passed := s.passedAfter p x }

/-! ### Counters (R168) -/

theorem raised_le {n : Nat} (h : n ≤ Config.counterMax) : raised n ≤ Config.counterMax := by
  unfold raised
  split <;> omega

/-- A counter raised stays in its range; `i` is its place in the order of R168. -/
theorem Counters.InRange.of_raised {c d : Counters} (i : Nat) (e : d.values = c.values.modify i raised)
    (h : c.InRange) : d.InRange := by
  intro n hn
  rw [e] at hn
  obtain ⟨j, hj⟩ := List.mem_iff_getElem?.1 hn
  rw [List.getElem?_modify] at hj
  obtain ⟨m, hm, rfl⟩ := Option.map_eq_some_iff.1 hj
  have := h m (List.mem_of_getElem? hm)
  split
  · exact raised_le this
  · exact this

theorem Counters.InRange.countRecord {c : Counters} (h : c.InRange) (k : RecordKind) : (c.countRecord k).InRange := by
  cases k with
  | complete => exact h.of_raised 5 rfl
  | incomplete => exact h.of_raised 6 rfl
  | unmatchedExit => exact h.of_raised 7 rfl
  | entryCancelled => exact h.of_raised 8 rfl
  | refusal => exact h.of_raised 9 rfl
  | entryUntracked => exact h.of_raised 10 rfl

theorem Counters.InRange.badFrame {c : Counters} (h : c.InRange) (p : Port) : (c.badFrame p).InRange := by
  cases p with
  | line => exact h.of_raised 12 rfl
  | office => exact h.of_raised 13 rfl

theorem Counters.InRange.misplaced {c : Counters} (h : c.InRange) (p : Port) : (c.misplaced p).InRange := by
  cases p with
  | line => exact h.of_raised 14 rfl
  | office => exact h.of_raised 15 rfl

theorem Counters.InRange.lineError {c : Counters} (h : c.InRange) (p : Port) : (c.lineError p).InRange := by
  cases p with
  | line => exact h.of_raised 16 rfl
  | office => exact h.of_raised 17 rfl

theorem Counters.InRange.countUnfit {c : Counters} (h : c.InRange) (p : Port) (d : Destination) :
    (c.countUnfit p d).InRange := by
  cases d with
  | tapQueue => exact h.of_raised 1 rfl
  | management => exact h.badFrame p
  | clock => exact h.badFrame p
  | transit => exact h.badFrame p

theorem Counters.InRange.foldl_countUnfit (p : Port) (ds : List Destination) : ∀ {c : Counters}, c.InRange →
    (ds.foldl (fun c d => c.countUnfit p d) c).InRange := by
  induction ds with
  | nil => exact fun h => h
  | cons d rest ih => exact fun h => ih (h.countUnfit p d)

theorem Counters.InRange.countRouting {c : Counters} (h : c.InRange) (p : Port) (f : StoredFrame)
    (r : List Destination × Bool) : (c.countRouting p f r).InRange := by
  refine Counters.InRange.foldl_countUnfit p _ ?_
  split
  · exact h.misplaced p
  · exact h

theorem Counters.inRange_zero : ({} : Counters).InRange := by simp [Counters.InRange, Counters.values]

/-! ### Ports (R149 to R152, R156, R158) -/

section

variable {ps : PortState}

theorem PortState.bounded_cleared (sent : List Character) : (PortState.cleared sent).Bounded where
  queue := Nat.zero_le _
  places := Nat.zero_le _
  stored _ _ h := by cases h
  unpaused _ := (by decide : 0 < Config.pauseLevel)
  paused h := by cases h
  noFrame _ := rfl
  inFrame _ h := by cases h

/-- A flow mark sent when the places held have come to 48 leaves the port in order, if it was up to one place more. -/
theorem PortState.bounded_markRise (queue : ps.queue.length ≤ Config.statusQueueCapacity)
    (places : ps.places ≤ Config.receivePlaces)
    (stored : ∀ bytes n, ps.rx = .inside bytes n → bytes.length = min n Config.storedBytes)
    (unpaused : ps.pauseSent = false → ps.places ≤ Config.pauseLevel)
    (paused : ps.pauseSent = true → Config.resumeLevel < ps.places)
    (noFrame : ps.holding = none → ps.position = 0)
    (inFrame : ∀ f, ps.holding = some f → ps.position < f.characters.length) : ps.markRise.Bounded := by
  unfold PortState.markRise
  split
  next due =>
    obtain ⟨full, -⟩ := due
    exact {
      queue := queue, places := places, stored := stored, noFrame := noFrame, inFrame := inFrame
      unpaused := fun h => by cases h
      paused := fun _ => by show Config.resumeLevel < ps.places; rw [full]; decide }
  next notDue =>
    refine ⟨queue, places, stored, fun h => ?_, paused, noFrame, inFrame⟩
    have below := unpaused h
    have other : ps.places ≠ Config.pauseLevel := fun full => notDue ⟨full, h⟩
    omega

/-- A flow mark sent when the places held have come to 16 leaves the port in order, if it was up to one place fewer. -/
theorem PortState.bounded_markFall (queue : ps.queue.length ≤ Config.statusQueueCapacity)
    (places : ps.places ≤ Config.receivePlaces)
    (stored : ∀ bytes n, ps.rx = .inside bytes n → bytes.length = min n Config.storedBytes)
    (unpaused : ps.pauseSent = false → ps.places < Config.pauseLevel)
    (paused : ps.pauseSent = true → Config.resumeLevel ≤ ps.places)
    (noFrame : ps.holding = none → ps.position = 0)
    (inFrame : ∀ f, ps.holding = some f → ps.position < f.characters.length) : ps.markFall.Bounded := by
  unfold PortState.markFall
  split
  next due =>
    obtain ⟨low, -⟩ := due
    exact {
      queue := queue, places := places, stored := stored, noFrame := noFrame, inFrame := inFrame
      unpaused := fun _ => by show ps.places < Config.pauseLevel; rw [low]; decide
      paused := fun h => by cases h }
  next notDue =>
    refine ⟨queue, places, stored, unpaused, fun h => ?_, noFrame, inFrame⟩
    have above := paused h
    have other : ps.places ≠ Config.resumeLevel := fun low => notDue ⟨low, h⟩
    omega

/-- The place of a stored frame in reception. -/
theorem PortState.places_inside {bytes : List Byte} {n : Nat} (h : ps.rx = .inside bytes n) :
    ps.places = ps.queue.length + ps.held.length + 1 := by
  unfold PortState.places
  rw [h]

/-- The port with its places told apart: those of the two queues, and that of the frame in reception. -/
theorem PortState.places_bounds (ps : PortState) :
    ps.queue.length + ps.held.length ≤ ps.places ∧ ps.places ≤ ps.queue.length + ps.held.length + 1 := by
  unfold PortState.places
  split <;> omega

namespace PortState.Bounded

/-- A stored frame that ends keeps its place. -/
theorem complete (h : ps.Bounded) {bytes : List Byte} {n : Nat} (inside : ps.rx = .inside bytes n) (f : StoredFrame) :
    (ps.complete f).Bounded := by
  have was := places_inside inside
  unfold PortState.complete
  split
  next room =>
    have now : PortState.places { ps with rx := .outside true, queue := ps.queue ++ [f] } = ps.places := by
      rw [was]; simp [PortState.places]; omega
    exact { h with
      queue := by simp; omega
      places := now ▸ h.places
      stored := fun _ _ k => by cases k
      unpaused := fun k => now ▸ h.unpaused k
      paused := fun k => now ▸ h.paused k }
  next =>
    have now : PortState.places { ps with rx := .outside true, held := ps.held ++ [f] } = ps.places := by
      rw [was]; simp [PortState.places]; omega
    exact { h with
      places := now ▸ h.places
      stored := fun _ _ k => by cases k
      unpaused := fun k => now ▸ h.unpaused k
      paused := fun k => now ▸ h.paused k }

/-- A frame without a place ends. -/
theorem unstoredEnds (h : ps.Bounded) (unstored : ps.rx = .unstored) :
    PortState.Bounded { ps with rx := .outside true } := by
  have now : PortState.places { ps with rx := .outside true } = ps.places := by
    simp [PortState.places, unstored]
  exact { h with
    places := now ▸ h.places
    stored := fun _ _ k => by cases k
    unpaused := fun k => now ▸ h.unpaused k
    paused := fun k => now ▸ h.paused k }

theorem cutShort (h : ps.Bounded) : ps.cutShort.Bounded := by
  unfold PortState.cutShort
  split
  next => exact h
  next inside => exact h.complete inside _
  next unstored => exact h.unstoredEnds unstored

/-- A frame begins in a place that was free. -/
theorem begin_stored (h : ps.Bounded) (room : ps.places < Config.receivePlaces) :
    ({ ps with rx := .inside [] 0 } : PortState).markRise.Bounded := by
  have now : PortState.places { ps with rx := .inside [] 0 } = ps.queue.length + ps.held.length + 1 := rfl
  have was := ps.places_bounds
  refine bounded_markRise h.queue ?_ ?_ ?_ ?_ h.noFrame h.inFrame
  · omega
  · rintro bytes n k; cases k; rfl
  · intro k; have := h.unpaused k; omega
  · intro k; have := h.paused k; omega

/-- A frame begins with no place free. -/
theorem begin_unstored (h : ps.Bounded) (full : ¬ps.places < Config.receivePlaces) :
    PortState.Bounded { ps with rx := .unstored } := by
  have now : PortState.places { ps with rx := .unstored } = ps.queue.length + ps.held.length := rfl
  have was := ps.places_bounds
  have most := h.places
  exact { h with
    places := by omega
    stored := fun _ _ k => by cases k
    unpaused := fun k => by have := h.unpaused k; omega
    paused := fun _ => by
      have least : Config.resumeLevel + 2 ≤ Config.receivePlaces := by decide
      omega }

/-- A data byte joins a frame that has its place, up to the bytes a port stores. -/
theorem store (h : ps.Bounded) {bytes : List Byte} {n : Nat} (inside : ps.rx = .inside bytes n) (b : Byte) :
    PortState.Bounded
      { ps with rx := .inside (if n < Config.storedBytes then bytes ++ [b] else bytes) (n + 1) } := by
  have now : PortState.places
      { ps with rx := .inside (if n < Config.storedBytes then bytes ++ [b] else bytes) (n + 1) } = ps.places :=
    (places_inside inside).symm
  have size := h.stored bytes n inside
  exact { h with
    places := now ▸ h.places
    stored := fun bytes' n' k => by
      cases k
      split
      · rw [List.length_append, size, List.length_singleton]; omega
      · omega
    unpaused := fun k => now ▸ h.unpaused k
    paused := fun k => now ▸ h.paused k }

/-- The first entry held joins the frame status queue. -/
theorem joinHeld (h : ps.Bounded) {f : StoredFrame} {rest : List StoredFrame} (held : ps.held = f :: rest)
    (room : ps.queue.length < Config.statusQueueCapacity) :
    PortState.Bounded { ps with queue := ps.queue ++ [f], held := rest } := by
  have now : PortState.places { ps with queue := ps.queue ++ [f], held := rest } = ps.places := by
    simp only [PortState.places, held, List.length_append, List.length_cons, List.length_nil]; omega
  exact { h with
    queue := by simp; omega
    places := now ▸ h.places
    unpaused := fun k => now ▸ h.unpaused k
    paused := fun k => now ▸ h.paused k }

/-- The head frame leaves, and its place is freed. -/
theorem dropHead (h : ps.Bounded) : ps.dropHead.Bounded := by
  have now : PortState.places { ps with queue := ps.queue.tail, routed := none } ≤ ps.places ∧
      ps.places ≤ PortState.places { ps with queue := ps.queue.tail, routed := none } + 1 := by
    simp only [PortState.places, List.length_tail]; omega
  have most := h.places
  have size := h.queue
  refine bounded_markFall ?_ ?_ h.stored ?_ ?_ h.noFrame h.inFrame
  · simp only [List.length_tail]; omega
  · omega
  · intro k; have := h.unpaused k; omega
  · intro k; have := h.paused k; omega

/-- A frame to send fills the holding frame, no character of it sent. -/
theorem hold (h : ps.Bounded) (f : Frame) : PortState.Bounded { ps with holding := some f, position := 0 } :=
  { h with
    noFrame := fun k => by cases k
    inFrame := fun g k => by cases k; simp [Frame.characters] }

theorem sendToEnd (h : ps.Bounded) (f : Frame) : (ps.sendToEnd f).Bounded :=
  { h with
    noFrame := fun _ => rfl
    inFrame := fun g k => by cases k }

theorem sendCharacter (h : ps.Bounded) : ps.sendCharacter.Bounded := by
  unfold PortState.sendCharacter
  split
  next => exact { h with }
  next f holding =>
    split
    next c d rest left =>
      have more := congrArg List.length left
      simp only [List.length_drop, List.length_cons] at more
      exact { h with
        noFrame := fun k => by rw [holding] at k; cases k
        inFrame := fun g k => by
          rw [holding] at k; cases k
          show ps.position + 1 < _
          omega }
    next => exact h.sendToEnd f

end PortState.Bounded

end

end Sys2Proof.Machine
end

section
/-! PROOFS. What the basic updates of the queues keep, every command keeps but for the requests and the two steps of a tariff
copy: the Journey Table's operations, the Journey Unit, the walks, the clock and the links, each said once. -/

namespace Sys2Proof.Machine

namespace QueueClosed

variable {P : State → Prop} (H : QueueClosed P) {s : State}

include H

/-! ### The Journey Table (spec/03) -/

theorem writeFault (code : FaultCode) (n : Nat) (h : P s) : P (s.writeFault code n) := H.background h rfl

theorem startSequence (h : P s) : P s.startSequence := by
  obtain ⟨w, hw⟩ := s.startSequence_eq
  rw [hw]
  exact H.background h rfl

theorem judgeShortage (h : P s) : P s.judgeShortage := by
  unfold State.judgeShortage
  split
  · exact H.startSequence (H.raise _ _ (H.background h rfl))
  · exact h

theorem judgeCleared (h : P s) : P s.judgeCleared := by
  unfold State.judgeCleared
  split
  · exact H.raise _ _ (H.background h rfl)
  · exact h

/-- What the basic updates of the queues keep, those of the Journey Table and the Cap Table keep. -/
theorem journey : JourneyClosed P where
  rewrite s n c h := by
    unfold State.rewrite
    split
    · exact H.background h rfl
    · exact h
  quarantine s n c _ h := H.writeFault _ _ (H.raise _ _ (H.background h rfl))
  setBucketHead s b next h := H.background h rfl
  setOrder s o h := H.background h rfl
  allocate s c h := by
    unfold State.allocate
    split
    · exact h
    · exact H.judgeShortage (H.background h rfl)
  releaseSlot s n h := by
    unfold State.releaseSlot
    split
    · exact h
    · exact H.judgeCleared (H.background h rfl)
  charge s t d k f h := by
    unfold State.charge
    split
    · exact h
    · split
      · exact H.background h rfl
      · split
        · exact H.background h rfl
        · exact H.count _ _ (Counters.InRange.of_raised 11 rfl) h
  mark s n h := H.background h rfl
  setAuditCounts s c h := H.background h rfl

/-! ### Responses, records and verdicts (R82, R100, R162) -/

theorem respond (r : Response) (h : P s) : P (s.respond r) := by
  unfold State.respond
  split
  next room => exact H.queueResponse _ _ room h
  next => exact H.background h rfl

theorem appendWhileRoom (rs : List JourneyRecord) : ∀ {s : State}, P s → P (appendWhileRoom rs s).2 := by
  induction rs with
  | nil => exact fun h => h
  | cons r rs ih =>
    intro s h
    unfold Machine.appendWhileRoom
    split
    next room => exact ih (H.appendRecord _ _ room h)
    next => exact h

theorem offerVerdict (stamp : Nat) (v : Verdict) (h : P s) : P (s.offerVerdict stamp v) := by
  unfold State.offerVerdict
  split
  next => exact H.count _ _ (Counters.InRange.of_raised 4 rfl) h
  next fresh =>
    simp only [not_or, Nat.not_le] at fresh
    exact H.queueVerdict _ _ fresh.2.2 h

/-! ### The Journey Unit (spec/04) -/

theorem finishTap (e : TapEntry) (o : TapOutcome) (h : P s) : P (s.finishTap e o) := by
  unfold State.finishTap
  refine H.background (H.appendWhileRoom o.records ?_) rfl
  split
  · exact H.offerVerdict _ _ h
  · exact h

theorem handle (x : Handling) (steps : Option Nat) (h : P s) : P (s.handle x steps) := by
  have run := H.journey.runCard (steps.getD x.most) x h
  unfold State.handle
  dsimp only
  split
  · exact H.finishTap _ _ run
  · exact H.background run rfl

theorem takeTap (e : TapEntry) (steps : Option Nat) (h : P s) : P (s.takeTap e steps) := by
  unfold State.takeTap
  split
  · exact H.writeFault _ _ (H.count _ _ (Counters.InRange.of_raised 1 rfl) h)
  · split
    · exact H.finishTap _ _ (H.count _ _ (Counters.InRange.of_raised 2 rfl) h)
    · exact H.handle _ _ h

theorem tapTake (steps : Option Nat) (h : P s) : NextMeets P (execTapTake s steps) := by
  unfold execTapTake
  split
  · exact H.handle _ _ h
  next e rest _ taps =>
    split
    · exact h
    · exact H.takeTap _ _
        (H.count { s with taps := rest } _ (Counters.InRange.of_raised 0 rfl) (H.dropTap _ _ _ taps h))
  · exact h

theorem recordAppend (h : P s) : NextMeets P (execRecordAppend s) := by
  unfold execRecordAppend
  split
  · split
    next room => exact H.background (H.appendRecord _ _ room h) rfl
    next => exact h
  · exact h

/-! ### The Sweep Unit (spec/07) -/

theorem startAge (h : P s) : P s.startAge := H.background h rfl

theorem startForced (h : P s) : P s.startForced := H.background h rfl

theorem afterWalk (h : P s) : P s.afterWalk := by
  unfold State.afterWalk
  split
  · exact H.background h rfl
  · split
    · exact H.startForced h
    · split
      · exact H.startForced (H.background h rfl)
      · split
        · exact H.startAge (H.background h rfl)
        · exact H.background h rfl

theorem endWalk (w : Walk) (h : P s) : P (s.endWalk w) := by
  cases w with
  | age n => exact H.afterWalk h
  | forced n forcing =>
    refine H.afterWalk ?_
    split
    · exact H.background h rfl
    · exact h
  | day n => exact H.afterWalk (H.background h rfl)
  | audit a => exact H.afterWalk (H.background h rfl)

theorem endIfFinished (h : P s) : P s.endIfFinished := by
  unfold State.endIfFinished
  split
  · split
    · exact H.endWalk _ h
    · exact h
  · exact h

theorem walkRecords (rs : List JourneyRecord) (h : P s) : P (s.walkRecords rs) := by
  unfold State.walkRecords
  split
  · exact H.background (H.appendWhileRoom rs h) rfl
  · exact H.background h rfl

theorem finishExamination (rs : List JourneyRecord) (h : P s) : P (s.finishExamination rs) :=
  H.endIfFinished (H.walkRecords rs (H.background h rfl))

theorem agePassExamination (h : P s) : NextMeets P (execAgePassExamination s) := by
  unfold execAgePassExamination
  split
  · split
    · exact H.finishExamination _ (H.journey.examineByAge _ _ h)
    · exact h
  · exact h

theorem forcedPassExamination (h : P s) : NextMeets P (execForcedPassExamination s) := by
  unfold execForcedPassExamination
  split
  · split
    · exact H.finishExamination _ (H.journey.examineByAge _ _ h)
    · exact h
  · exact h

theorem dayChangeWalkExamination (h : P s) : NextMeets P (execDayChangeWalkExamination s) := by
  unfold execDayChangeWalkExamination
  split
  · split
    · exact H.finishExamination _ (H.background (H.journey.examineByDay _ h) rfl)
    · exact h
  · exact h

theorem walkRecordAppend (h : P s) : NextMeets P (execWalkRecordAppend s) := by
  unfold execWalkRecordAppend
  split
  next room =>
    split
    · exact H.background (H.appendRecord _ _ room h) rfl
    · exact H.endIfFinished (H.background (H.appendRecord _ _ room h) rfl)
    · exact h
  next => exact h

theorem sweepTimerExpiry (h : P s) : NextMeets P (execSweepTimerExpiry s) := by
  unfold execSweepTimerExpiry
  split
  · dsimp only
    split
    · exact H.background h rfl
    · split
      · exact H.startForced (H.background h rfl)
      · exact H.startAge (H.background h rfl)
  · exact h

/-! ### The pool audit (spec/03 section 3.9) -/

theorem setAuditStep (a : AuditStep) (h : P s) : P (s.setAuditStep a) := H.background h rfl

theorem auditChainStep (b : Nat) (passed : Option Nat) (h : P s) : P (s.auditChainStep b passed) := by
  unfold State.auditChainStep
  split
  · exact H.setAuditStep _ h
  · exact H.walkRecords _ (H.setAuditStep _ (H.journey.auditChainSlot _ _ _ h))

theorem runChain (b k : Nat) : ∀ {s : State}, P s → P (runChain b k s) := by
  induction k with
  | zero => exact fun h => h
  | succ k ih =>
    intro s h
    unfold Machine.runChain
    split
    · split
      · exact ih (H.auditChainStep _ _ h)
      · exact h
    · exact h

theorem auditChainWalk (slots : Option Nat) (h : P s) : NextMeets P (execAuditChainWalk s slots) := by
  unfold execAuditChainWalk
  split
  · split
    · exact H.runChain _ _ h
    · exact h
  · exact h

theorem auditSlotExamination (h : P s) : NextMeets P (execAuditSlotExamination s) := by
  unfold execAuditSlotExamination
  split
  · split
    · split
      · exact H.setAuditStep _ h
      · exact H.walkRecords _ (H.setAuditStep _ (H.journey.auditSlot _ h))
    · exact h
  · exact h

theorem auditSlotTest (passes : Bool) (h : P s) : NextMeets P (execAuditSlotTest passes s) := by
  unfold execAuditSlotTest
  split
  · split
    · split
      · exact H.setAuditStep _ h
      · refine H.setAuditStep _ ?_
        split
        · exact H.journey.setAuditCounts _ _ (H.journey.releaseSlot _ _ h)
        · exact h
    · exact h
  · exact h

theorem rebuildStep (a : AuditStep) (h : P s) : P (s.rebuildStep a) := by
  unfold State.rebuildStep
  split
  · split
    · exact H.setAuditStep _ h
    · exact H.setAuditStep _ (H.journey.gatherOrphan _ _ h)
  · split
    · split
      · exact H.setAuditStep _ (H.journey.setOrder _ _ h)
      · exact H.walkRecords _ (H.setAuditStep _ (H.journey.shedOrphan _ h))
    · exact H.setAuditStep _ (H.journey.setOrder _ _ h)
  · exact H.setAuditStep _ (H.journey.linkOrphan _ h)
  · exact H.endIfFinished (H.setAuditStep _ h)
  · exact h
  · exact h
  · exact h
  · exact h

theorem runRebuild (k : Nat) : ∀ {s : State}, P s → P (runRebuild k s) := by
  induction k with
  | zero => exact fun h => h
  | succ k ih =>
    intro s h
    unfold Machine.runRebuild
    split
    · split
      · exact ih (H.rebuildStep _ h)
      · exact h
    · exact h

theorem auditOrderRebuild (steps : Option Nat) (h : P s) : NextMeets P (execAuditOrderRebuild s steps) := by
  unfold execAuditOrderRebuild
  split
  · exact H.runRebuild _ h
  · exact h

/-! ### The Service Clock and the timers (spec/07) -/

/-- A port whose pause timer alone is set anew stays in order. -/
theorem setPauseTimer (p : Port) (timer : Option Nat) (h : P s) :
    P (s.setPort p { s.port p with pauseTimer := timer }) :=
  H.setPort _ _ _ (fun b => { b with }) h

theorem foldl_disturb (ns : List Nat) : ∀ {s : State}, P s → P (ns.foldl State.disturb s) := by
  induction ns with
  | nil => exact fun h => h
  | cons n rest ih =>
    intro s h
    refine ih ?_
    unfold State.disturb
    split
    · exact H.background h rfl
    · exact h

theorem elapse (h : P s) : P s.elapse := by
  have line : P (s.setPort .line { s.line with pauseTimer := countDown s.line.pauseTimer }) :=
    H.setPauseTimer .line _ h
  exact H.background (H.setPauseTimer .office (countDown s.office.pauseTimer) line) rfl

theorem countTime (h : P s) : P s.countTime := by
  unfold State.countTime
  split
  · exact h
  · split
    · exact H.background h rfl
    · split
      · exact H.raise _ _ (H.background h rfl)
      · exact h

theorem serviceTimeTick (ns : List Nat) (h : P s) : NextMeets P (execServiceTimeTick ns s) :=
  H.countTime (H.elapse (H.foldl_disturb ns h))

theorem clockHold (h : P s) : NextMeets P (execClockHold s) := by
  unfold execClockHold
  split
  · exact H.countTime (H.elapse h)
  · exact h

theorem acceptBeacon (h : P s) : P s.acceptBeacon := H.background h rfl

theorem takeBeacon (day time : Nat) (h : P s) : P (s.takeBeacon day time) := by
  unfold State.takeBeacon
  split
  · exact h
  · exact H.raise _ _ h
  · exact H.acceptBeacon (H.background h rfl)
  · exact H.acceptBeacon h

theorem beaconWatchdogExpiry (h : P s) : NextMeets P (execBeaconWatchdogExpiry s) := by
  unfold execBeaconWatchdogExpiry
  split
  · exact H.raise _ _ (H.background h rfl)
  · exact h

/-! ### Reception and pause episodes (R149, R151, R152, R157) -/

theorem lineErrorAt (p : Port) (h : P s) : P (s.lineErrorAt p) := H.count _ _ (fun c => c.lineError p) h

/-- A port set and the counters with it. -/
theorem setPortCount (p : Port) {ps : PortState} {c : Counters} (port : (s.port p).Bounded → ps.Bounded)
    (count : s.counters.InRange → c.InRange) (h : P s) : P { s.setPort p ps with counters := c } :=
  H.count _ _ (by rw [State.setPort_counters]; exact count) (H.setPort _ _ _ port h)

theorem beginFrame (p : Port) (h : P s) : P (s.beginFrame p) := by
  unfold State.beginFrame
  dsimp only
  split
  next room => exact H.setPort _ _ _ (fun b => b.begin_stored room) h
  next full => exact H.setPortCount p (fun b => b.begin_unstored full) (fun c => c.badFrame p) h

theorem frameStart (p : Port) (h : P s) : NextMeets P (execFrameStart p s) :=
  H.beginFrame p (H.setPort _ _ _ (fun b => b.cutShort) h)

theorem dataByte (p : Port) (b : Byte) (h : P s) : NextMeets P (execDataByte p b s) := by
  unfold execDataByte
  split
  next inside => exact H.setPort _ _ _ (fun k => k.store inside b) h
  next =>
    show P _
    split
    · exact H.lineErrorAt p h
    · exact h
  next => exact h

theorem frameEnd (p : Port) (h : P s) : NextMeets P (execFrameEnd p s) := by
  unfold execFrameEnd
  split
  next inside => exact H.setPort _ _ _ (fun k => k.complete inside _) h
  next =>
    show P _
    split
    · exact H.lineErrorAt p h
    · exact h
  next unstored => exact H.setPort _ _ _ (fun k => k.unstoredEnds unstored) h

theorem abort (p : Port) (h : P s) : NextMeets P (execAbort p s) := by
  unfold execAbort
  split
  · exact H.lineErrorAt p h
  · exact H.setPort _ _ _ (fun k => k.cutShort) h

theorem lineError (p : Port) (char : Character) (h : P s) : NextMeets P (execLineError p char s) := by
  show P _
  split
  · exact H.lineErrorAt p h
  · exact h

theorem statusEntryJoin (p : Port) (h : P s) : NextMeets P (execStatusEntryJoin p s) := by
  unfold execStatusEntryJoin
  dsimp only
  split
  next held =>
    split
    next room => exact H.setPort _ _ _ (fun k => k.joinHeld held room) h
    next => exact h
  next => exact h

theorem pause (p : Port) (h : P s) : NextMeets P (execPause p s) := by
  unfold execPause
  dsimp only
  split
  · exact h
  · exact H.setPort _ _ _ (fun b => { b with }) h

theorem resume (p : Port) (h : P s) : NextMeets P (execResume p s) := by
  unfold execResume
  dsimp only
  split
  · exact H.setPort _ _ _ (fun b => { b with }) h
  · exact h

theorem pauseLimitExpiry (p : Port) (h : P s) : NextMeets P (execPauseLimitExpiry p s) := by
  unfold execPauseLimitExpiry
  dsimp only
  split
  · exact H.raise _ _ (H.setPauseTimer p none h)
  · exact h

/-! ### Routing, delivery and egress (R153 to R155, R158) -/

theorem routeHead (p : Port) (f : StoredFrame) (h : P s) : P (s.routeHead p f) :=
  H.setPortCount p (fun b => { b with }) (fun c => c.countRouting p f _) h

theorem finishRouting (p : Port) (h : P s) : P (s.finishRouting p) := by
  unfold State.finishRouting
  split
  · exact H.setPort _ _ _ (fun k => k.dropHead) h
  · exact h

theorem egressGrant (p : Port) (h : P s) : NextMeets P (execEgressGrant p s) := by
  unfold execEgressGrant
  split
  · exact h
  · split
    next x f t e =>
      obtain ⟨y, granted, taken⟩ := Option.bind_eq_some_iff.1 e
      obtain ⟨r, took, pair⟩ := Option.map_eq_some_iff.1 taken
      cases pair
      exact H.setPort _ _ _ (fun k => k.hold f) (H.grant _ _ _ _ _ granted took h)
    next => exact h

theorem endSent (p : Port) (h : P s) : NextMeets P (execEndSent p s) := by
  unfold execEndSent
  split
  · exact H.setPort _ _ _ (fun k => k.sendToEnd _) h
  · exact h

theorem sendCharacters (h : P s) : P s.sendCharacters :=
  H.setPort (s.setPort .line s.line.sendCharacter) .office _ (fun k => k.sendCharacter)
    (H.setPort s .line _ (fun k => k.sendCharacter) h)

end QueueClosed

end Sys2Proof.Machine
end

section
/-! PROOFS. What every step keeps: with the basic updates of the Tariff Store, the deny list and the mode, a property that the
basic updates keep is kept by every request and every command, and is an invariant of every step. -/

namespace Sys2Proof.Machine

/-- A property that the basic updates of the queues keep, and with them the resets, the changes of mode, the edits of the deny
list, and the basic updates of the Tariff Store, each where the part makes it. -/
structure StepClosed (P : State → Prop) : Prop extends QueueClosed P where
  reset : P State.reset
  warmReset : ∀ s, P s → P s.warmReset
  maintain : ∀ s, P s → P { s with mode := .maintenance }
  serve : ∀ s, s.tariff.liveBank.firstFailure = none → P s → P { s with mode := .service }
  editDeny : ∀ s d,
    (Ascending s.deny → s.deny.length ≤ Config.denyCapacity → Ascending d ∧ d.length ≤ Config.denyCapacity) →
    P s → P { s with deny := d }
  seek : ∀ s table index, P s → P { s with tariff := s.tariff.seek table index }
  write : ∀ s count entries, s.copy = none → P s → P { s with tariff := s.tariff.written count entries }
  check : ∀ s, s.copy = none → P s →
    P { s with tariff := s.tariff.marks s.tariff.staging.firstFailure.isNone s.tariff.pendingSwap }
  commitFails : ∀ s, P s → P { s with tariff := s.tariff.marks false false }
  commit : ∀ s, s.copy = none → s.tariff.staging.firstFailure = none → P s →
    P { s with tariff := s.tariff.committed s.mode }
  dayChange : ∀ s, P s → P { s with tariff := s.tariff.dayChange }
  startCopy : ∀ s c, P s → P { s with tariff := s.tariff.marks false false, copy := some c }
  copyEntry : ∀ s c, s.copy = some c → c.running = true → P s →
    P { s with
      tariff := s.tariff.setStaging (s.tariff.staging.copyEntry s.tariff.liveBank c.table c.index)
      copy := some (c.advance (s.tariff.liveBank.tableLength c.table)) }
  checkCopy : ∀ s c, s.copy = some c → c.running = false → P s → P { s with tariff := s.tariff.copied }
  holdCopy : ∀ s c r, s.copy = some c → P s → P { s with copy := some { c with response := some r } }
  endCopy : ∀ s, P s → P { s with copy := none }

/-! ### Requests that touch no bank and no mode (R162) -/

namespace QueueClosed

variable {P : State → Prop} (H : QueueClosed P) {s : State}

include H

theorem settingWrite (src : Nat) (v : SettingValues) (h : P s) : P (s.settingWrite src v) := by
  unfold State.settingWrite
  split
  · exact H.respond _ h
  · split
    · exact H.respond _ h
    · split
      · exact H.respond _ h
      · exact H.respond _ (H.background h rfl)

theorem journeyQuery (src : Nat) (token : Token) (h : P s) : P (s.journeyQuery src token) :=
  H.respond _ (H.journey.queryJourney token h)

theorem poolAudit (src : Nat) (h : P s) : P (s.poolAudit src) := by
  unfold State.poolAudit
  split
  · exact H.respond _ h
  · split
    · exact H.respond _ h
    · exact H.background h rfl

theorem statusRead (src : Nat) (clear : Bool) (h : P s) : P (s.statusRead src clear) := by
  have cleared : P { s with counters := if clear then {} else s.counters } :=
    H.count _ _ (fun c => by cases clear; exact c; exact Counters.inRange_zero) h
  exact H.respond _ (H.background cleared rfl)

theorem endPass (h : P s) : P s.endPass := by
  unfold State.endPass
  split
  · exact H.background h rfl
  · exact H.background h rfl
  · exact h

end QueueClosed

/-! ### The requests (R162) -/

/-- An accepted SERVICE_START has found that the live bank passes (R175). -/
theorem State.judgeStart_accepts {s : State} {src : Nat} (h : s.judgeStart src = none) :
    s.tariff.liveBank.firstFailure = none := by
  cases judged : s.tariff.liveBank.firstFailure with
  | none => rfl
  | some f =>
    simp only [State.judgeStart, judged] at h
    split_ifs at h

/-- Whether a destination has room does not rest on what a port's routing holds. -/
theorem State.hasRoom_setPort (s : State) (p : Port) (ps : PortState) (f : StoredFrame)
    (d : Destination) : (s.setPort p ps).hasRoom p f d = s.hasRoom p f d := by
  cases p <;> cases d <;> rfl

namespace StepClosed

variable {P : State → Prop} (H : StepClosed P) {s : State}

include H

theorem fullReset : P s.fullReset :=
  H.background (H.setPort (State.reset.setPort .line s.line.afterReset) .office s.office.afterReset
    (fun _ => PortState.bounded_cleared _) (H.setPort _ _ _ (fun _ => PortState.bounded_cleared _) H.reset)) rfl

theorem engineReset (src kind : Nat) (h : P s) : P (s.engineReset src kind) := by
  unfold State.engineReset
  split
  · exact H.queueResponse s.warmReset _ rfl (H.warmReset _ h)
  · split
    · exact H.queueResponse s.fullReset _ rfl H.fullReset
    · exact H.respond _ h

theorem tableSeek (src table index : Nat) (h : P s) : P (s.tableSeek src table index) := by
  unfold State.tableSeek
  split
  · exact H.respond _ h
  · split
    · exact H.respond _ h
    · exact H.respond _ (H.seek _ _ _ h)

theorem tableWrite (src count : Nat) (entries : List Byte) (h : P s) : P (s.tableWrite src count entries) := by
  unfold State.tableWrite
  split
  · exact H.respond _ h
  · split
    · exact H.respond _ h
    next idle =>
      split
      · exact H.respond _ h
      · exact H.respond _ (H.write _ _ _ (by simpa using idle) h)

theorem tableRead (src count : Nat) (bank : Option Nat) (h : P s) : P (s.tableRead src count bank) := by
  unfold State.tableRead
  split
  · exact H.respond _ h
  · split
    · exact H.respond _ h
    · split
      · exact H.respond _ h
      · exact H.respond _ (H.seek _ _ _ h)

theorem tariffCheck (src : Nat) (h : P s) : P (s.tariffCheck src) := by
  by_cases idle : s.copy = none
  · rw [State.tariffCheck_idle idle]
    exact H.respond _ (H.check _ idle h)
  · rw [State.tariffCheck_busy idle]
    exact H.respond _ h

theorem tariffCommit (src : Nat) (h : P s) : P (s.tariffCommit src) := by
  by_cases idle : s.copy = none
  · cases judged : s.tariff.staging.firstFailure with
    | none =>
      rw [State.tariffCommit_passing idle judged]
      exact H.respond _ (H.commit _ idle judged h)
    | some f =>
      rw [State.tariffCommit_failing idle judged]
      exact H.respond _ (H.commitFails _ h)
  · rw [State.tariffCommit_busy idle]
    exact H.respond _ h

theorem tariffCopy (src : Nat) (h : P s) : P (s.tariffCopy src) := by
  unfold State.tariffCopy
  split
  · exact H.respond _ h
  · exact H.startCopy _ _ h

theorem denyEdit {src kind count : Nat} {tokens : List Token} {act : State → State} (h : P s) (edited : P (act s)) :
    P (s.denyEdit src kind count tokens act) := by
  unfold State.denyEdit
  split
  · exact H.respond _ h
  · split
    · exact H.respond _ h
    · exact edited

theorem denyAdd (src count : Nat) (tokens : List Token) (h : P s) : P (s.denyAdd src count tokens) := by
  refine H.denyEdit h (H.respond _ (H.editDeny _ _ (fun ascending within => ?_) h))
  have added := DenyEdit.adds ascending within tokens
  exact ⟨added.ascending, added.within⟩

theorem denyRemove (src count : Nat) (tokens : List Token) (h : P s) : P (s.denyRemove src count tokens) := by
  refine H.denyEdit h (H.respond _ (H.editDeny _ _ (fun ascending within => ?_) h))
  obtain ⟨removed, -⟩ := DenyEdit.removes tokens (e := ⟨s.deny, 0, false⟩) (Ascending.nodup ascending)
  rw [removed]
  exact ⟨ascending.filter _, Nat.le_trans (List.length_filter_le _ _) within⟩

theorem serviceStart (src : Nat) (h : P s) : P (s.serviceStart src) := by
  unfold State.serviceStart
  split
  · exact H.respond _ h
  next accepted => exact H.respond _ (H.background (H.serve s (State.judgeStart_accepts accepted) h) rfl)

theorem serviceStop (src : Nat) (h : P s) : P (s.serviceStop src) := by
  unfold State.serviceStop
  split
  · exact H.respond _ h
  · exact H.respond _ (H.background (H.maintain _ (H.endPass h)) rfl)

theorem openDay (src day : Nat) (t : DayType) (h : P s) : P (s.openDay src day t) := by
  have begun : P { s with
      tariff := s.tariff.dayChange
      cap := s.cap.afterDayChange s.clock.day day
      clock := { day := some day, dayType := t, time := 0, doubt := true }
      watchdog := none } := H.background (H.dayChange _ h) rfl
  exact H.background (H.endPass begun) rfl

theorem dayChangeRequest (src day t : Nat) (h : P s) : P (s.dayChange src day t) := by
  unfold State.dayChange
  split
  · exact H.respond _ h
  · exact H.openDay _ _ _ h

/-- Each request keeps the property (R162). -/
theorem takeRequest (src : Nat) (q : Request) (h : P s) : P (s.takeRequest src q) := by
  cases q with
  | settingWrite v => exact H.settingWrite _ _ h
  | settingRead g => exact H.respond _ h
  | tableSeek t i => exact H.tableSeek _ _ _ h
  | tableWrite n es => exact H.tableWrite _ _ _ h
  | tableRead n b => exact H.tableRead _ _ _ h
  | tariffCheck => exact H.tariffCheck _ h
  | tariffCommit => exact H.tariffCommit _ h
  | tariffCopy => exact H.tariffCopy _ h
  | denyAdd n ts => exact H.denyAdd _ _ _ h
  | denyRemove n ts => exact H.denyRemove _ _ _ h
  | serviceStart => exact H.serviceStart _ h
  | serviceStop => exact H.serviceStop _ h
  | dayChange d t => exact H.dayChangeRequest _ _ _ h
  | journeyQuery t => exact H.journeyQuery _ _ h
  | poolAudit => exact H.poolAudit _ h
  | statusRead c => exact H.statusRead _ _ h
  | engineReset k => exact H.engineReset _ _ h
  | malformed k => exact H.respond _ h

/-! ### The steps of a tariff copy (R42) -/

theorem copyStep (h : P s) : NextMeets P (execCopyEntry s) := by
  unfold execCopyEntry
  split
  next c copy =>
    split
    next running => exact H.copyEntry _ _ copy running h
    next => exact h
  next => exact h

theorem copyCompletion (h : P s) : NextMeets P (execTariffCopyCompletion s) := by
  unfold execTariffCopyCompletion
  split
  next c copy =>
    split
    next ended =>
      have checked := H.checkCopy _ _ copy ended.1 h
      dsimp only
      split
      next room => exact H.endCopy _ (H.queueResponse { s with tariff := s.tariff.copied } _ room checked)
      next => exact H.holdCopy { s with tariff := s.tariff.copied } c _ copy checked
    next => exact h
  next => exact h

/-! ### Delivery, waiting responses and the step (R155, R163, R164) -/

theorem deliver (p : Port) (f : StoredFrame) (d : Destination) (room : s.hasRoom p f d = true) (h : P s) :
    P (s.deliver p f d) := by
  cases d with
  | tapQueue => exact H.queueTap _ _ (of_decide_eq_true room) h
  | management => exact H.takeRequest _ _ h
  | clock => exact H.takeBeacon _ _ h
  | transit => exact H.pushTransit _ _ _ (of_decide_eq_true room) h

theorem tryDelivery (p : Port) (f : StoredFrame) (d : Destination) (h : P s) : P (s.tryDelivery p f d) := by
  unfold State.tryDelivery
  split
  next waits =>
    obtain ⟨-, room⟩ := Bool.and_eq_true_iff.1 waits
    exact H.deliver p f d (by rw [State.hasRoom_setPort, room]) (H.setPort _ _ _ (fun b => { b with }) h)
  next => exact h

theorem switchEntry (p : Port) (h : P s) : NextMeets P (execSwitchEntry p s) := by
  unfold execSwitchEntry
  split
  next f rest _ _ =>
    split
    · refine H.finishRouting p ?_
      simp only [List.foldl_cons, List.foldl_nil]
      exact H.tryDelivery p f _ (H.tryDelivery p f _ (H.tryDelivery p f _ (H.tryDelivery p f _ (H.routeHead p f h))))
    · exact H.setPortCount p (fun b => b.dropHead) (fun c => c.badFrame p) h
  next => exact h

theorem frameDelivery (p : Port) (d : Destination) (h : P s) : NextMeets P (execFrameDelivery p d s) := by
  unfold execFrameDelivery
  split
  · exact H.finishRouting p (H.tryDelivery p _ d h)
  · exact h

/-- A request as a command is taken as from its frame, or not at all. -/
theorem request (src : Nat) (q : Request) (h : P s) : NextMeets P (.next (s.whenFree fun s => s.takeRequest src q)) := by
  show P _
  unfold State.whenFree
  split
  · exact h
  · exact H.takeRequest _ _ h

theorem malformedRequest (src : Nat) (payload : List Byte) (h : P s) :
    NextMeets P (execMalformedRequest src payload s) := by
  show P _
  unfold State.whenFree
  split
  · exact h
  · dsimp only
    split
    next k _ => exact H.takeRequest src (.malformed k) h
    next => exact h

theorem queryCommand (src : Nat) (token : Token) (h : P s) : NextMeets P (execJourneyQuery src token s) := by
  show P _
  unfold State.whenFree
  split
  · exact h
  · dsimp only
    split
    · exact H.takeRequest src (.journeyQuery token) h
    · exact h

theorem dayChangeCompletion (h : P s) : NextMeets P (execDayChangeCompletion s) := by
  unfold execDayChangeCompletion
  split
  · split
    · split
      next room => exact H.background (H.queueResponse _ _ room h) rfl
      next => exact H.background h rfl
    · exact h
  · exact h

theorem poolAuditCompletion (h : P s) : NextMeets P (execPoolAuditCompletion s) := by
  unfold execPoolAuditCompletion
  split
  · dsimp only
    split
    next room => exact H.background (H.queueResponse _ _ room h) rfl
    next => exact H.background h rfl
  · exact h

theorem responseQueueJoin (w : Waiter) (h : P s) : NextMeets P (execResponseQueueJoin w s) := by
  unfold execResponseQueueJoin
  split
  next r _ =>
    split
    next room =>
      have joined := H.queueResponse s r room h
      cases w with
      | requestInHand => exact H.background joined rfl
      | tariffCopy => exact H.endCopy _ joined
      | dayChange => exact H.background joined rfl
      | poolAudit => exact H.background joined rfl
    next => exact h
  next => exact h

/-- Every command keeps what the basic updates, the requests and the steps of a copy keep. -/
theorem exec (c : Instr) (h : P s) : NextMeets P (exec c s) := by
  cases c with
  | powerOn => exact H.background H.reset rfl
  | fullReset src => exact H.request src (.engineReset 2) h
  | warmReset src => exact H.request src (.engineReset 1) h
  | settingWrite src v => exact H.request src (.settingWrite v) h
  | settingRead src g => exact H.request src (.settingRead g) h
  | tableSeek src t i => exact H.request src (.tableSeek t i) h
  | tableWrite src n es => exact H.request src (.tableWrite n es) h
  | tableRead src n b => exact H.request src (.tableRead n b) h
  | tariffCheck src => exact H.request src .tariffCheck h
  | tariffCommit src => exact H.request src .tariffCommit h
  | tariffCopy src => exact H.request src .tariffCopy h
  | tariffCopyCompletion => exact H.copyCompletion h
  | denyAdd src n ts => exact H.request src (.denyAdd n ts) h
  | denyRemove src n ts => exact H.request src (.denyRemove n ts) h
  | serviceStart src => exact H.request src .serviceStart h
  | serviceStop src => exact H.request src .serviceStop h
  | dayChange src d t => exact H.request src (.dayChange d t) h
  | journeyQuery src t => exact H.queryCommand src t h
  | poolAudit src => exact H.request src .poolAudit h
  | auditChainWalk n => exact H.auditChainWalk n h
  | auditSlotExamination => exact H.auditSlotExamination h
  | auditSlotTest b => exact H.auditSlotTest b h
  | auditOrderRebuild n => exact H.auditOrderRebuild n h
  | poolAuditCompletion => exact H.poolAuditCompletion h
  | statusRead src b => exact H.request src (.statusRead b) h
  | responseQueueJoin w => exact H.responseQueueJoin w h
  | tapTake n => exact H.tapTake n h
  | recordAppend => exact H.recordAppend h
  | sweepTimerExpiry => exact H.sweepTimerExpiry h
  | agePassExamination => exact H.agePassExamination h
  | forcedPassExamination => exact H.forcedPassExamination h
  | dayChangeWalkExamination => exact H.dayChangeWalkExamination h
  | dayChangeCompletion => exact H.dayChangeCompletion h
  | walkRecordAppend => exact H.walkRecordAppend h
  | serviceTimeTick ns => exact H.serviceTimeTick ns h
  | clockHold => exact H.clockHold h
  | beacon d t => exact H.takeBeacon d t h
  | beaconWatchdogExpiry => exact H.beaconWatchdogExpiry h
  | frameStart p => exact H.frameStart p h
  | frameEnd p => exact H.frameEnd p h
  | abort p => exact H.abort p h
  | lineError p ch => exact H.lineError p ch h
  | pause p => exact H.pause p h
  | resume p => exact H.resume p h
  | pauseLimitExpiry p => exact H.pauseLimitExpiry p h
  | statusEntryJoin p => exact H.statusEntryJoin p h
  | switchEntry p => exact H.switchEntry p h
  | frameDelivery p d => exact H.frameDelivery p d h
  | egressGrant p => exact H.egressGrant p h
  | dataByte p b => exact H.dataByte p b h
  | endSent p => exact H.endSent p h
  | copyEntry => exact H.copyStep h
  | malformedRequest src b => exact H.malformedRequest src b h
  | engineReset src k => exact H.request src (.engineReset k) h

/-- Such a property is an invariant of every step. -/
theorem step {t : State} (h : P s) (run : step s = .next t) : P t := by
  have met : NextMeets P (Machine.step s) := by
    unfold Machine.step
    split
    · exact H.sendCharacters h
    · exact H.exec _ (H.background h rfl)
  rwa [run] at met

end StepClosed

end Sys2Proof.Machine
end

section
/-! PROOFS. The four invariants at the reset, and the two of this family at every step: the sizes and marks of the queues, and
the safety of the tariff. -/

namespace Sys2Proof.Machine

/-! ### The queues (R44, R74, R76, R82, R100, R152 to R156, R163, R168, R172) -/

/-- A raising keeps one notice of each kind (R172). -/
theorem raiseIn_nodup {ns : List Notice} (h : (ns.map fun n => n.detail.kind).Nodup) (d : NoticeDetail) (time : Nat) :
    ((raiseIn ns d time).map fun n => n.detail.kind).Nodup := by
  unfold raiseIn
  split
  next absent =>
    rw [List.find?_eq_none] at absent
    rw [List.map_append, List.map_singleton]
    refine List.nodup_append.2 ⟨h, List.nodup_singleton _, fun k hk j hj => ?_⟩
    obtain ⟨n, hn, rfl⟩ := List.mem_map.1 hk
    rw [List.mem_singleton.1 hj]
    simpa using absent n hn
  next =>
    rw [List.map_append, List.map_singleton]
    refine List.nodup_append.2 ⟨h.sublist (List.filter_sublist.map _), List.nodup_singleton _, fun k hk j hj => ?_⟩
    obtain ⟨n, hn, rfl⟩ := List.mem_map.1 hk
    rw [List.mem_singleton.1 hj]
    simpa using (List.mem_filter.1 hn).2

/-- The count of a notice stays between 1 and 65,535 (R172). -/
theorem raiseIn_counts {ns : List Notice} (h : ∀ n ∈ ns, 1 ≤ n.count ∧ n.count ≤ Config.noticeCountMax)
    (d : NoticeDetail) (time : Nat) : ∀ n ∈ raiseIn ns d time, 1 ≤ n.count ∧ n.count ≤ Config.noticeCountMax := by
  unfold raiseIn
  split
  next =>
    intro n hn
    rcases List.mem_append.1 hn with hn | hn
    · exact h n hn
    · rw [List.mem_singleton.1 hn]; exact ⟨Nat.le_refl 1, (by decide : 1 ≤ Config.noticeCountMax)⟩
  next m found =>
    have held := h m (List.mem_of_find?_eq_some found)
    intro n hn
    rcases List.mem_append.1 hn with hn | hn
    · exact h n (List.mem_of_mem_filter hn)
    · rw [List.mem_singleton.1 hn]
      dsimp only
      split <;> omega

namespace State.Bounded

variable {s : State}

theorem appendRecord (h : s.Bounded) (room : s.recordRoom = true) (r : JourneyRecord) : (s.appendRecord r).Bounded := by
  replace room : s.records.length < Config.recordQueueCapacity := of_decide_eq_true room
  have length : (s.appendRecord r).records.length = s.records.length + 1 := by simp
  exact { h with
    records := by omega
    counters := Counters.InRange.countRecord h.counters r.kind
    unstalled := fun k => by
      simp only [State.appendRecord, Bool.or_eq_false_iff, decide_eq_false_iff_not] at k
      omega
    stalled := fun k => by
      simp only [State.appendRecord, Bool.or_eq_true, decide_eq_true_eq] at k
      rcases k with k | k
      · have := h.stalled k; omega
      · have least : Config.stallClearLevel < Config.stallSetLevel := by decide
        omega }

theorem dropRecord (h : s.Bounded) : s.dropRecord.Bounded := by
  have length : s.dropRecord.records.length = s.records.length - 1 := List.length_tail
  have most := h.records
  exact { h with
    records := by omega
    unstalled := fun k => by
      simp only [State.dropRecord, Bool.and_eq_false_iff, decide_eq_false_iff_not] at k
      have least : Config.stallClearLevel < Config.stallSetLevel := by decide
      rcases k with k | k
      · have := h.unstalled k; omega
      · exact Nat.lt_of_le_of_lt (Nat.le_of_not_lt k) least
    stalled := fun k => by
      simp only [State.dropRecord, Bool.and_eq_true, decide_eq_true_eq] at k
      exact k.2 }

/-- A grant takes the head of its source (R159). -/
theorem takeFrom (h : s.Bounded) {x : Source} {f : Frame} {t : State} (took : s.takeFrom x = some (f, t)) :
    t.Bounded := by
  have tail : ∀ {α : Type} {l : List α} {n : Nat}, l.length ≤ n → l.tail.length ≤ n := fun hl => by
    rw [List.length_tail]; omega
  cases x <;> obtain ⟨y, -, pair⟩ := Option.map_eq_some_iff.1 took <;> cases pair
  case response => exact { h with responses := tail h.responses }
  case notice =>
    exact { h with
      notices := h.notices.sublist ((List.tail_sublist _).map _)
      noticeCounts := fun n hn => h.noticeCounts n (List.mem_of_mem_tail hn) }
  case record => exact h.dropRecord
  case upTransit => exact { h with upTransit := tail h.upTransit }
  case verdict =>
    exact { h with verdicts := tail h.verdicts, counters := Counters.InRange.of_raised 3 rfl h.counters }
  case downTransit => exact { h with downTransit := tail h.downTransit }

end State.Bounded

theorem State.bounded_reset : State.reset.Bounded where
  taps := Nat.zero_le _
  verdicts := Nat.zero_le _
  records := Nat.zero_le _
  responses := Nat.zero_le _
  upTransit := Nat.zero_le _
  downTransit := Nat.zero_le _
  deny := Nat.zero_le _
  denyRises := .nil
  notices := .nil
  noticeCounts _ h := nomatch h
  counters := Counters.inRange_zero
  unstalled _ := (by decide : 0 < Config.stallSetLevel)
  stalled h := by cases h
  line := PortState.bounded_cleared _
  office := PortState.bounded_cleared _

/-- The sizes and marks of the queues are kept by each basic update. -/
theorem queueClosed_bounded : QueueClosed State.Bounded where
  background h f := by rw [f]; exact { h with }
  raise s d h := { h with
    notices := raiseIn_nodup h.notices d _
    noticeCounts := raiseIn_counts h.noticeCounts d _ }
  count s c k h := { h with counters := k h.counters }
  appendRecord s r room h := h.appendRecord room r
  queueVerdict s v room h := { h with verdicts := by simpa using room }
  queueResponse s r room h := { h with responses := by simpa [State.responseRoom] using room }
  queueTap s e room h := { h with taps := by simpa using room }
  dropTap s e rest taps h := { h with taps := Nat.le_trans (taps ▸ Nat.le_succ rest.length) h.taps }
  pushTransit s p f room h := by
    cases p with
    | line => exact { h with upTransit := by simpa [State.pushTransit, State.transit] using room }
    | office => exact { h with downTransit := by simpa [State.pushTransit, State.transit] using room }
  setPort s p ps k h := by
    cases p with
    | line => exact { h with line := k h.line }
    | office => exact { h with office := k h.office }
  grant s p x f t _ took h := { h.takeFrom took with }

/-- The sizes and marks of the queues rest on no bank and no mode, and each edit keeps the deny list in order. -/
theorem stepClosed_bounded : StepClosed State.Bounded where
  toQueueClosed := queueClosed_bounded
  reset := State.bounded_reset
  warmReset s h := { State.bounded_reset with
    deny := h.deny
    denyRises := h.denyRises
    line := PortState.bounded_cleared _
    office := PortState.bounded_cleared _ }
  maintain s h := { h with }
  serve s _ h := { h with }
  editDeny s d edit h := by
    obtain ⟨ascending, within⟩ := edit h.denyRises h.deny
    exact { h with deny := within, denyRises := ascending }
  seek s table index h := { h with }
  write s count entries _ h := { h with }
  check s _ h := { h with }
  commitFails s h := { h with }
  commit s _ _ h := { h with }
  dayChange s h := { h with }
  startCopy s c h := { h with }
  copyEntry s c _ _ h := { h with }
  checkCopy s c _ _ h := { h with }
  holdCopy s c r _ h := { h with }
  endCopy s h := { h with }

/-- Settles O6: each basic update keeps the sizes and marks of the queues, and every step is made of such updates. -/
theorem queuesStayWithinSize : Obligations.QueuesStayWithinSize := by
  unfold Obligations.QueuesStayWithinSize
  exact fun s t bounded run => stepClosed_bounded.step bounded run

/-! ### The tariff (R37, R39, R40, R41, R174) -/

/-- The safety of the tariff rests on the mode, the Tariff Store and the copy alone. -/
theorem State.TariffSafe.congr {s t : State} (h : s.TariffSafe) (mode : t.mode = s.mode) (tariff : t.tariff = s.tariff)
    (copy : t.copy = s.copy) : t.TariffSafe where
  live := by rw [mode, tariff]; exact h.live
  pending := by rw [tariff, copy]; exact h.pending
  valid := by rw [tariff, copy]; exact h.valid

theorem State.tariffSafe_reset : State.reset.TariffSafe where
  live h := by cases h
  pending h := by cases h
  valid h := by cases h

/-- What leaves the mode, the Tariff Store and the copy keeps the tariff safe. -/
theorem queueClosed_tariffSafe : QueueClosed State.TariffSafe where
  background h f := h.congr (by rw [f]) (by rw [f]) (by rw [f])
  raise s d h := h.congr rfl rfl rfl
  count s c _ h := h.congr rfl rfl rfl
  appendRecord s r _ h := h.congr rfl rfl rfl
  queueVerdict s v _ h := h.congr rfl rfl rfl
  queueResponse s r _ h := h.congr rfl rfl rfl
  queueTap s e _ h := h.congr rfl rfl rfl
  dropTap s e rest _ h := h.congr rfl rfl rfl
  pushTransit s p f _ h := h.congr (by simp) (by simp) (by simp)
  setPort s p ps _ h := h.congr (by simp) (by simp) (by simp)
  grant s p x f t _ took h := by
    cases x <;> obtain ⟨y, -, pair⟩ := Option.map_eq_some_iff.1 took <;> cases pair <;> exact h.congr rfl rfl rfl

/-- With a copy in progress no swap waits. -/
theorem State.TariffSafe.not_pending {s : State} (h : s.TariffSafe) {c : CopyOperation} (copy : s.copy = some c) :
    s.tariff.pendingSwap ≠ true := fun k => by
  obtain ⟨-, idle⟩ := h.pending k
  rw [copy] at idle
  cases idle

/-- With a copy in progress that has a table left staging is not marked valid. -/
theorem State.TariffSafe.not_valid {s : State} (h : s.TariffSafe) {c : CopyOperation} (copy : s.copy = some c)
    (running : c.running = true) : s.tariff.valid ≠ true := fun k => by
  obtain ⟨-, ended⟩ := h.valid k
  rw [ended c copy] at running
  cases running

/-- A store whose marks are both clear, over a live bank that has stayed. -/
theorem State.TariffSafe.unmarked {s t : State} (h : s.TariffSafe) (mode : t.mode = s.mode)
    (live : t.tariff.liveBank = s.tariff.liveBank) (pending : t.tariff.pendingSwap = false)
    (valid : t.tariff.valid = false) : t.TariffSafe where
  live := by rw [mode, live]; exact h.live
  pending k := by rw [pending] at k; cases k
  valid k := by rw [valid] at k; cases k

/-- The tariff stays safe: what moves staging clears the marks, what sets them has checked staging, and a bank goes live from a
passing staging bank. -/
theorem stepClosed_tariffSafe : StepClosed State.TariffSafe where
  toQueueClosed := queueClosed_tariffSafe
  reset := State.tariffSafe_reset
  warmReset s h := {
    live := fun k => by cases k
    pending := fun k => ⟨(h.pending k).1, rfl⟩
    valid := fun k => ⟨(h.valid k).1, fun c e => by cases e⟩ }
  maintain s h := { h with live := fun k => by cases k }
  serve s passes h := { h with live := fun _ => passes }
  editDeny s d _ h := h.congr rfl rfl rfl
  seek s table index h := { h with }
  write s count entries _ h := h.unmarked rfl (s.tariff.written_liveBank _ _) rfl rfl
  check s idle h := { h with
    valid := fun k => ⟨Option.isNone_iff_eq_none.1 k, fun c e => by rw [idle] at e; cases e⟩ }
  commitFails s h := h.unmarked rfl rfl rfl rfl
  commit s idle passes h := by
    cases mode : s.mode with
    | maintenance =>
      exact {
        live := fun k => by cases k
        pending := fun k => by cases k
        valid := fun k => by cases k }
    | service =>
      exact {
        live := fun _ => h.live mode
        pending := fun _ => ⟨passes, idle⟩
        valid := fun _ => ⟨passes, fun c e => by rw [idle] at e; cases e⟩ }
  dayChange s h := by
    unfold TariffStore.dayChange
    split
    next pending =>
      obtain ⟨passes, -⟩ := h.pending pending
      exact {
        live := fun _ => passes
        pending := fun k => by cases k
        valid := fun k => by cases k }
    next => exact h
  startCopy s c h := h.unmarked rfl rfl rfl rfl
  copyEntry s c copy running h := by
    obtain ⟨a, b, moved⟩ := s.tariff.setStaging_eq (s.tariff.staging.copyEntry s.tariff.liveBank c.table c.index)
    refine h.unmarked rfl (s.tariff.setStaging_liveBank _) ?_ ?_
    · rw [moved]; exact Bool.eq_false_of_not_eq_true (h.not_pending copy)
    · rw [moved]; exact Bool.eq_false_of_not_eq_true (h.not_valid copy running)
  checkCopy s c copy ended h := {
    live := by rw [s.tariff.copied_liveBank]; exact h.live
    pending := fun k => by rw [s.tariff.copied_eq] at k; exact absurd k (h.not_pending copy)
    valid := fun k => by
      rw [s.tariff.copied_staging]
      refine ⟨?_, fun d e => by cases copy.symm.trans e; exact ended⟩
      by_contra fails
      rw [s.tariff.copied_eq, if_neg fails] at k
      exact fails (h.valid k).1 }
  holdCopy s c r copy h := {
    live := h.live
    pending := fun k => absurd k (h.not_pending copy)
    valid := fun k => ⟨(h.valid k).1, fun d e => by cases e; exact (h.valid k).2 c copy⟩ }
  endCopy s h := {
    live := h.live
    pending := fun k => ⟨(h.pending k).1, rfl⟩
    valid := fun k => ⟨(h.valid k).1, fun c e => by cases e⟩ }

/-- Settles O7: each basic update keeps the tariff safe, and every step is made of such updates. -/
theorem liveTariffPassesThroughoutService : Obligations.LiveTariffPassesThroughoutService := by
  unfold Obligations.LiveTariffPassesThroughoutService
  exact fun s t safe run => stepClosed_tariffSafe.step safe run

end Sys2Proof.Machine
end

section
/-! PROOFS. The reset: the values that power-on leaves, block by block, and the four invariants that the state after reset
meets. -/

namespace Sys2Proof.Machine

/-! ### The Tariff Store and the free list after reset (R47, R73) -/

@[simp] theorem TariffStore.bank_empty (n : BankName) : TariffStore.empty.bank n = Bank.empty := by cases n <;> rfl

theorem TariffStore.tableLength_empty (n : BankName) (table : Nat) : (TariffStore.empty.bank n).tableLength table = 0 := by
  simp [Bank.tableLength, Bank.empty]

/-- Every entry of either bank is not in use and zero (R47). -/
theorem TariffStore.entries_empty :
    (∀ n, ∀ e ∈ (TariffStore.empty.bank n).stations.entries, e = {}) ∧
      (∀ n, ∀ e ∈ (TariffStore.empty.bank n).fareBands.entries, e = {}) ∧
      (∀ n, ∀ e ∈ (TariffStore.empty.bank n).timeBands.entries, e = {}) ∧
      (∀ n, ∀ e ∈ (TariffStore.empty.bank n).classes.entries, e = {}) ∧
      (∀ n, ∀ e ∈ (TariffStore.empty.bank n).constants.entries, e = {}) := by
  simp only [TariffStore.bank_empty]
  exact ⟨fun _ _ => List.eq_of_mem_replicate, fun _ _ => List.eq_of_mem_replicate, fun _ _ => List.eq_of_mem_replicate,
    fun _ _ => List.eq_of_mem_replicate, fun _ _ => List.eq_of_mem_replicate⟩

theorem State.reset_free : State.reset.table.free.toList = List.range Config.slotCount := by
  simp [State.reset, JourneyTable.empty, FreeList.toList, List.range_eq_range']

/-! ### POWER_ON (R177) -/

/-- Settles O3: each block at the value of its reset rule; the free list is the numbers of the slots in order. -/
theorem powerOnLeavesResetValues : Obligations.PowerOnLeavesResetValues := by
  unfold Obligations.PowerOnLeavesResetValues
  intro s
  obtain ⟨stations, fareBands, timeBands, classes, constants⟩ := TariffStore.entries_empty
  have listed : ∀ n, n < 12288 → State.reset.table.free.toList[n]? = some n := fun n below => by
    rw [State.reset_free, List.getElem?_range below]
  have length : State.reset.table.free.toList.length = 12288 := by rw [State.reset_free, List.length_range]
  exact ⟨{ State.reset with pending := s.pending }, rfl, rfl, rfl, rfl, rfl, rfl, rfl, rfl, rfl, rfl, rfl, rfl,
    TariffStore.tableLength_empty, stations, fareBands, timeBands, classes, constants, fun _ => rfl, fun _ => rfl, rfl, listed,
    length, rfl, rfl, rfl, rfl, rfl, rfl, rfl, rfl, rfl, rfl, rfl, rfl, rfl, rfl, rfl, rfl, rfl, rfl, rfl, rfl, rfl, rfl, rfl,
    rfl, rfl, rfl, rfl, fun _ => List.eq_of_mem_replicate (n := 18), rfl, fun p => by
      cases p <;> exact ⟨rfl, rfl, rfl, rfl, rfl, rfl, rfl, rfl, rfl, rfl, rfl⟩⟩

/-! ### The four invariants -/

theorem Settings.inRange_initial : Settings.initial.InRange := by
  constructor <;> decide

theorem State.orderly_reset : State.reset.Orderly where
  settings := Settings.inRange_initial
  time := Nat.zero_le _
  unset _ := rfl
  day _ h := by cases h
  watchdog _ := rfl
  timer _ := rfl
  noSequence _ := rfl
  noPass _ _ h := by cases h
  forcedAge _ h := by cases h
  auditMode _ h := by cases h
  auditWalk := ⟨fun ⟨_, h, _⟩ => (by cases h), fun ⟨_, h, _⟩ => (by cases h)⟩
  dayWalk := ⟨fun ⟨_, h, _⟩ => (by cases h), fun ⟨_, h, _⟩ => (by cases h)⟩
  auditHeld _ h := by cases h
  dayHeld _ h := by cases h

/-- With no account the Cap Table is in order on any day. -/
theorem CapTable.ordered_empty (today : Nat) : CapTable.empty.Ordered today where
  numbers _ h := nomatch h
  days _ h := nomatch h
  marks _ h := nomatch h
  chains b := ⟨[], trivial, .nil, fun n => ⟨fun h => (nomatch h), fun ⟨_, h, _⟩ => (by cases h)⟩⟩
  once _ _ _ _ h := by cases h

theorem State.stored_reset : State.reset.Stored where
  slots := rfl
  heads := rfl
  marks := .nil
  accounts := rfl
  buckets := rfl
  hint := (by decide : 0 < Config.accountCount)
  spent _ h := nomatch h
  journeys _ h := nomatch h
  numbers _ h := nomatch h
  kinds := ⟨rfl, rfl, rfl, rfl⟩
  sum := rfl
  freeOnce := by rw [State.reset_free]; exact List.nodup_range
  freeSlots n := by
    rw [State.reset_free, List.mem_range]
    exact ⟨fun below => ⟨below, rfl⟩, fun ⟨below, _⟩ => below⟩
  accountsOfDay := CapTable.ordered_empty _

/-- Settles O4. -/
theorem resetMeetsEveryInvariant : Obligations.ResetMeetsEveryInvariant :=
  ⟨State.bounded_reset, State.tariffSafe_reset, State.orderly_reset, State.stored_reset⟩

end Sys2Proof.Machine
end

section
/-! PROOFS. The tariff check (R36): a scan of a table finds the first index at which its check fails, each of the fourteen checks
is such a scan or a test of the whole table, and the statement on what the check reports and what a passing bank meets. -/

namespace Sys2Proof.Machine

variable {α σ : Type}

/-! ### The first index at which a check fails -/

/-- What is found is the first index at which a check fails, and nothing when it fails at none. -/
def FindsFirst (found : Option Nat) (fails : Nat → Prop) : Prop :=
  match found with
  | none => ∀ i, ¬fails i
  | some i => fails i ∧ ∀ j, j < i → ¬fails j

theorem FindsFirst.congr {found : Option Nat} {p q : Nat → Prop} (h : FindsFirst found p) (e : ∀ i, p i ↔ q i) :
    FindsFirst found q := by
  rwa [show q = p from funext fun i => propext (e i).symm]

theorem FindsFirst.eq_none {found : Option Nat} {fails : Nat → Prop} (h : FindsFirst found fails)
    (never : ∀ i, ¬fails i) : found = none := by
  cases found with
  | none => rfl
  | some i => exact absurd h.1 (never i)

theorem FindsFirst.eq_some {found : Option Nat} {fails : Nat → Prop} {i : Nat} (h : FindsFirst found fails)
    (here : fails i) (first : ∀ j, j < i → ¬fails j) : found = some i := by
  cases found with
  | none => exact absurd here (h i)
  | some j =>
    rcases Nat.lt_trichotomy i j with c | c | c
    · exact absurd here (h.2 i c)
    · rw [c]
    · exact absurd h.1 (first j c)

/-- A test of a whole table that reports index 0. -/
theorem findsFirst_failsAtZero {test : Bool} {q : Prop} (h : test = true ↔ q) :
    FindsFirst (failsAtZero test) (fun i => i = 0 ∧ q) := by
  unfold failsAtZero
  split
  next fails => exact ⟨⟨rfl, h.1 fails⟩, fun j below => absurd below (Nat.not_lt_zero j)⟩
  next passes => exact fun i k => passes (h.2 k.2)

/-- A scan of a table from its first entry, carrying what it has met: the first index at which the entry is bad. -/
def scan (bad : σ → Nat → α → Bool) (next : σ → Nat → α → σ) : σ → Nat → List α → Option Nat
  | _, _, [] => none
  | st, i, e :: rest => if bad st i e then some i else scan bad next (next st i e) (i + 1) rest

/-- A scan finds the first failure when what it carries (`holds`, at each index) lets it judge each entry. -/
theorem scan_findsFirst {bad : σ → Nat → α → Bool} {next : σ → Nat → α → σ} {l : List α} {fails : Nat → Prop}
    (holds : σ → Nat → Prop) {start : σ} (base : holds start 0)
    (step : ∀ st i e, l[i]? = some e → holds st i → holds (next st i e) (i + 1))
    (judges : ∀ st i e, l[i]? = some e → holds st i → (bad st i e = true ↔ fails i))
    (listed : ∀ i, fails i → i < l.length) : FindsFirst (scan bad next start 0 l) fails := by
  have go : ∀ (rest : List α) (i : Nat) (st : σ), l.drop i = rest → holds st i → (∀ j, j < i → ¬fails j) →
      FindsFirst (scan bad next st i rest) fails := by
    intro rest
    induction rest with
    | nil =>
      intro i st left _ before j fails
      exact before j (Nat.lt_of_lt_of_le (listed j fails) (List.drop_eq_nil_iff.1 left)) fails
    | cons e rest ih =>
      intro i st left held before
      have entry : l[i]? = some e := by rw [← List.head?_drop, left]; rfl
      have judged := judges st i e entry held
      unfold scan
      split
      next isBad => exact ⟨judged.1 isBad, before⟩
      next notBad =>
        refine ih (i + 1) _ ?_ (step st i e entry held) fun j below => ?_
        · rw [← List.drop_drop, left]; rfl
        · rcases Nat.lt_succ_iff_lt_or_eq.1 below with c | rfl
          · exact before j c
          · exact fun k => notBad (judged.2 k)
  exact go l 0 start rfl base fun j below => absurd below (Nat.not_lt_zero j)

/-! ### Each entry in its range -/

theorem firstBad_eq_scan (bad : α → Bool) (l : List α) : ∀ i,
    firstBad bad i l = scan (fun _ _ e => bad e) (fun _ _ _ => ()) () i l := by
  induction l with
  | nil => exact fun _ => rfl
  | cons e rest ih => intro i; simp only [firstBad, scan, ih]

theorem findsFirst_firstBad (bad : α → Bool) (l : List α) :
    FindsFirst (firstBad bad 0 l) (fun i => ∃ e, l[i]? = some e ∧ bad e = true) := by
  rw [firstBad_eq_scan]
  refine scan_findsFirst (fun _ _ => True) trivial (fun _ _ _ _ _ => trivial) (fun _ i e entry _ => ?_) ?_
  · simp [entry]
  · rintro i ⟨e, entry, -⟩
    exact (List.getElem?_eq_some_iff.1 entry).1

/-! ### No chainage twice -/

theorem firstRepeated_eq_scan (l : List StationEntry) : ∀ seen i,
    firstRepeated seen i l = scan (fun seen _ e => e.inUse && seen.contains e.chainage)
      (fun seen _ e => if e.inUse then e.chainage :: seen else seen) seen i l := by
  induction l with
  | nil => exact fun _ _ => rfl
  | cons e rest ih =>
    intro seen i
    simp only [firstRepeated, scan, ih]
    cases e.inUse <;> simp

/-- The entry at index `i` is in use and has the chainage of an entry in use before it (R27). -/
def RepeatsAt (l : List StationEntry) (i : Nat) : Prop :=
  ∃ e j f, l[i]? = some e ∧ e.inUse = true ∧ j < i ∧ l[j]? = some f ∧ f.inUse = true ∧ f.chainage = e.chainage

theorem findsFirst_firstRepeated (l : List StationEntry) : FindsFirst (firstRepeated [] 0 l) (RepeatsAt l) := by
  rw [firstRepeated_eq_scan]
  refine scan_findsFirst
    (fun seen i => ∀ c, c ∈ seen ↔ ∃ j f, j < i ∧ l[j]? = some f ∧ f.inUse = true ∧ f.chainage = c) ?_ ?_ ?_ ?_
  · simp
  · intro seen i e entry held c
    have split : (∃ j f, j < i + 1 ∧ l[j]? = some f ∧ f.inUse = true ∧ f.chainage = c) ↔
        (e.inUse = true ∧ e.chainage = c) ∨ ∃ j f, j < i ∧ l[j]? = some f ∧ f.inUse = true ∧ f.chainage = c := by
      constructor
      · rintro ⟨j, f, below, hf, use, same⟩
        rcases Nat.lt_succ_iff_lt_or_eq.1 below with k | rfl
        · exact .inr ⟨j, f, k, hf, use, same⟩
        · obtain rfl := Option.some.inj (entry.symm.trans hf)
          exact .inl ⟨use, same⟩
      · rintro (⟨use, same⟩ | ⟨j, f, below, rest⟩)
        · exact ⟨i, e, Nat.lt_succ_self i, entry, use, same⟩
        · exact ⟨j, f, Nat.lt_succ_of_lt below, rest⟩
    rw [split, ← held c]
    cases e.inUse <;> simp [eq_comm]
  · intro seen i e entry held
    simp only [Bool.and_eq_true, List.contains_iff_mem, held e.chainage, RepeatsAt, entry, Option.some.injEq]
    constructor
    · rintro ⟨use, j, f, rest⟩; exact ⟨e, j, f, rfl, use, rest⟩
    · rintro ⟨_, j, f, rfl, use, rest⟩; exact ⟨use, j, f, rest⟩
  · rintro i ⟨e, j, f, entry, -⟩
    exact (List.getElem?_eq_some_iff.1 entry).1

/-! ### The last entry in use before an index -/

/-- The last entry in use below index `i` is `f`, at index `j`. -/
def LastBefore (used : α → Prop) (l : List α) (i j : Nat) (f : α) : Prop :=
  j < i ∧ l[j]? = some f ∧ used f ∧ ∀ k g, j < k → k < i → l[k]? = some g → ¬used g

theorem lastBefore_succ_of_used {used : α → Prop} {l : List α} {i j : Nat} {e f : α} (entry : l[i]? = some e)
    (use : used e) : LastBefore used l (i + 1) j f ↔ j = i ∧ f = e := by
  constructor
  · rintro ⟨below, hf, -, between⟩
    rcases Nat.lt_succ_iff_lt_or_eq.1 below with c | rfl
    · exact absurd use (between i e c (Nat.lt_succ_self i) entry)
    · exact ⟨rfl, Option.some.inj (hf.symm.trans entry)⟩
  · rintro ⟨rfl, rfl⟩
    exact ⟨Nat.lt_succ_self j, entry, use, fun k _ c d => absurd (Nat.lt_of_lt_of_le c (Nat.le_of_lt_succ d)) (Nat.lt_irrefl j)⟩

theorem lastBefore_succ_of_unused {used : α → Prop} {l : List α} {i j : Nat} {e f : α} (entry : l[i]? = some e)
    (unused : ¬used e) : LastBefore used l (i + 1) j f ↔ LastBefore used l i j f := by
  constructor
  · rintro ⟨below, hf, use, between⟩
    rcases Nat.lt_succ_iff_lt_or_eq.1 below with c | rfl
    · exact ⟨c, hf, use, fun k g c d => between k g c (Nat.lt_succ_of_lt d)⟩
    · exact absurd (Option.some.inj (hf.symm.trans entry) ▸ use) unused
  · rintro ⟨below, hf, use, between⟩
    refine ⟨Nat.lt_succ_of_lt below, hf, use, fun k g c d hg => ?_⟩
    rcases Nat.lt_succ_iff_lt_or_eq.1 d with d | rfl
    · exact between k g c d hg
    · rwa [← Option.some.inj (entry.symm.trans hg)]

/-- Below an index with an entry in use before it there is a last such entry. -/
theorem exists_lastBefore {used : α → Prop} {l : List α} (i : Nat) : ∀ {j : Nat} {f : α}, j < i → l[j]? = some f →
    used f → i ≤ l.length → ∃ k g, j ≤ k ∧ LastBefore used l i k g := by
  induction i with
  | zero => exact fun below => absurd below (Nat.not_lt_zero _)
  | succ i ih =>
    intro j f below hf use within
    have entry := List.getElem?_eq_getElem (l := l) (i := i) within
    by_cases h : used l[i]
    · exact ⟨i, l[i], Nat.le_of_lt_succ below, (lastBefore_succ_of_used entry h).2 ⟨rfl, rfl⟩⟩
    · rcases Nat.lt_succ_iff_lt_or_eq.1 below with c | rfl
      · obtain ⟨k, g, above, last⟩ := ih c hf use (Nat.le_of_succ_le within)
        exact ⟨k, g, above, (lastBefore_succ_of_unused entry h).2 last⟩
      · exact absurd (Option.some.inj (hf.symm.trans entry) ▸ use) h

/-- Values that rise from each entry in use to the next rise throughout. -/
theorem rises_of_lastBefore {used : α → Bool} {l : List α} (value : α → Nat)
    (h : ∀ i e j f, l[i]? = some e → used e = true → LastBefore (used · = true) l i j f → value f < value e) :
    ((l.filter used).map value).Pairwise (· < ·) := by
  have all : ∀ (i : Nat) (e : α) (j : Nat) (f : α), j < i → l[i]? = some e → l[j]? = some f → used e = true →
      used f = true → value f < value e := by
    intro i
    induction i using Nat.strongRecOn with
    | ind i ih =>
      intro e j f below he hf usedE usedF
      obtain ⟨k, g, above, last⟩ := exists_lastBefore (used := (used · = true)) i below hf usedF
        (Nat.le_of_lt (List.getElem?_eq_some_iff.1 he).1)
      have rise := h i e k g he usedE last
      obtain ⟨kBelow, hg, usedG, -⟩ := last
      rcases Nat.lt_or_eq_of_le above with c | rfl
      · exact Nat.lt_trans (ih k kBelow g j f c hg hf usedG usedF) rise
      · rwa [Option.some.inj (hf.symm.trans hg)]
  rw [List.pairwise_map, List.pairwise_filter, List.pairwise_iff_getElem]
  intro j i hj hi below usedF usedE
  exact all i _ j _ below (List.getElem?_eq_getElem hi) (List.getElem?_eq_getElem hj) usedE usedF

end Sys2Proof.Machine
end

section
/-! PROOFS. The tariff check (R36): the scans of the fare bands and the time bands, and the statement. -/

namespace Sys2Proof.Machine

/-! ### Rising upper limits (R28) -/

theorem firstNotRising_eq_scan (l : List FareBandEntry) : ∀ last i,
    firstNotRising last i l = scan (fun last _ e => decide (e.upperLimit > 0) && decide (e.upperLimit ≤ last))
      (fun last _ e => if e.upperLimit > 0 then e.upperLimit else last) last i l := by
  induction l with
  | nil => exact fun _ _ => rfl
  | cons e rest ih =>
    intro last i
    simp only [firstNotRising, scan, ih]
    by_cases use : e.upperLimit > 0 <;> simp [use]

/-- The entry at index `i` is in use and its upper limit at or below that of the entry in use before it (R28). -/
def LimitFallsAt (l : List FareBandEntry) (i : Nat) : Prop :=
  ∃ e j f, l[i]? = some e ∧ 0 < e.upperLimit ∧ j < i ∧ l[j]? = some f ∧ 0 < f.upperLimit ∧ e.upperLimit ≤ f.upperLimit ∧
    ∀ k g, j < k → k < i → l[k]? = some g → g.upperLimit = 0

theorem limitFallsAt_iff {l : List FareBandEntry} {i : Nat} : LimitFallsAt l i ↔ ∃ e j f, l[i]? = some e ∧
    0 < e.upperLimit ∧ LastBefore (0 < FareBandEntry.upperLimit ·) l i j f ∧ e.upperLimit ≤ f.upperLimit := by
  constructor
  · rintro ⟨e, j, f, entry, use, below, hf, useF, atMost, between⟩
    exact ⟨e, j, f, entry, use, ⟨below, hf, useF, fun k g c d hg => by simp [between k g c d hg]⟩, atMost⟩
  · rintro ⟨e, j, f, entry, use, ⟨below, hf, useF, between⟩, atMost⟩
    exact ⟨e, j, f, entry, use, below, hf, useF, atMost, fun k g c d hg => Nat.eq_zero_of_not_pos (between k g c d hg)⟩

theorem findsFirst_firstNotRising (l : List FareBandEntry) : FindsFirst (firstNotRising 0 0 l) (LimitFallsAt l) := by
  refine FindsFirst.congr ?_ fun i => limitFallsAt_iff.symm
  rw [firstNotRising_eq_scan]
  refine scan_findsFirst
    (fun last i => ∀ m, 0 < m → (last = m ↔ ∃ j f, LastBefore (0 < FareBandEntry.upperLimit ·) l i j f ∧ f.upperLimit = m))
    ?_ ?_ ?_ ?_
  · intro m pos
    exact ⟨fun h => absurd h (Nat.ne_of_lt pos), fun ⟨_, _, ⟨below, _⟩, _⟩ => absurd below (Nat.not_lt_zero _)⟩
  · intro last i e entry held m pos
    by_cases use : 0 < e.upperLimit
    · simp [use, lastBefore_succ_of_used (used := (0 < FareBandEntry.upperLimit ·)) entry use]
    · simp only [gt_iff_lt, use, if_false, held m pos,
        lastBefore_succ_of_unused (used := (0 < FareBandEntry.upperLimit ·)) entry use]
  · intro last i e entry held
    simp only [Bool.and_eq_true, decide_eq_true_eq]
    constructor
    · rintro ⟨use, atMost⟩
      obtain ⟨j, f, before, same⟩ := (held last (by omega)).1 rfl
      exact ⟨e, j, f, entry, use, before, same ▸ atMost⟩
    · rintro ⟨e', j, f, entry', use, before, atMost⟩
      obtain rfl := Option.some.inj (entry.symm.trans entry')
      have same := (held f.upperLimit (by omega)).2 ⟨j, f, before, rfl⟩
      exact ⟨use, same ▸ atMost⟩
  · rintro i ⟨e, j, f, entry, -⟩
    exact (List.getElem?_eq_some_iff.1 entry).1

/-! ### Rising start minutes within a day type (R29) -/

/-- The start minute that the scan compares with at index `i`: none at the first entry of a day type. -/
def startBefore (last : Option Nat) (i : Nat) : Option Nat := if i % 6 = 0 then none else last

theorem firstStartNotRising_eq_scan (l : List TimeBandEntry) : ∀ last i,
    firstStartNotRising last i l =
      scan (fun last i e => e.inUse && ((startBefore last i).map fun m => decide (e.startMinute ≤ m)).getD false)
        (fun last i e => if e.inUse then some e.startMinute else startBefore last i) last i l := by
  induction l with
  | nil => exact fun _ _ => rfl
  | cons e rest ih =>
    intro last i
    simp only [firstStartNotRising, scan, ih]
    cases e.inUse <;> simp [startBefore]

/-- The entry at index `i` is in use and its start minute at or below that of the entry in use before it, of one day type
(R29). -/
def StartFallsAt (l : List TimeBandEntry) (i : Nat) : Prop :=
  ∃ e j f, l[i]? = some e ∧ e.inUse = true ∧ j < i ∧ j / 6 = i / 6 ∧ l[j]? = some f ∧ f.inUse = true ∧
    e.startMinute ≤ f.startMinute ∧ ∀ k g, j < k → k < i → l[k]? = some g → g.inUse = false

theorem startFallsAt_iff {l : List TimeBandEntry} {i : Nat} : StartFallsAt l i ↔ ∃ e j f, l[i]? = some e ∧
    e.inUse = true ∧ j / 6 = i / 6 ∧ LastBefore (TimeBandEntry.inUse · = true) l i j f ∧
    e.startMinute ≤ f.startMinute := by
  constructor
  · rintro ⟨e, j, f, entry, use, below, sameDay, hf, useF, atMost, between⟩
    exact ⟨e, j, f, entry, use, sameDay, ⟨below, hf, useF, fun k g c d hg => by simp [between k g c d hg]⟩, atMost⟩
  · rintro ⟨e, j, f, entry, use, sameDay, ⟨below, hf, useF, between⟩, atMost⟩
    exact ⟨e, j, f, entry, use, below, sameDay, hf, useF, atMost, fun k g c d hg => by simpa using between k g c d hg⟩

theorem findsFirst_firstStartNotRising (l : List TimeBandEntry) :
    FindsFirst (firstStartNotRising none 0 l) (StartFallsAt l) := by
  refine FindsFirst.congr ?_ fun i => startFallsAt_iff.symm
  rw [firstStartNotRising_eq_scan]
  refine scan_findsFirst
    (fun last i => ∀ m, startBefore last i = some m ↔
      ∃ j f, j / 6 = i / 6 ∧ LastBefore (TimeBandEntry.inUse · = true) l i j f ∧ f.startMinute = m) ?_ ?_ ?_ ?_
  · intro m
    exact ⟨fun h => by simp [startBefore] at h, fun ⟨_, _, _, ⟨below, _⟩, _⟩ => absurd below (Nat.not_lt_zero _)⟩
  · intro last i e entry held m
    by_cases first : (i + 1) % 6 = 0
    · have newDay : ∀ j, j < i + 1 → j / 6 ≠ (i + 1) / 6 := fun j below => by omega
      constructor
      · intro h; simp [startBefore, first] at h
      · rintro ⟨j, f, same, ⟨below, -⟩, -⟩; exact absurd same (newDay j below)
    · have sameDay : (i + 1) / 6 = i / 6 := by omega
      rw [startBefore, if_neg first, sameDay]
      by_cases use : e.inUse = true
      · simp [use, lastBefore_succ_of_used (used := (TimeBandEntry.inUse · = true)) entry use]
      · simp only [use, if_false, held m,
          lastBefore_succ_of_unused (used := (TimeBandEntry.inUse · = true)) entry use, Bool.false_eq_true]
  · intro last i e entry held
    simp only [Bool.and_eq_true]
    constructor
    · rintro ⟨use, atMost⟩
      cases prior : startBefore last i with
      | none => simp [prior] at atMost
      | some m =>
        obtain ⟨j, f, sameDay, before, rfl⟩ := (held m).1 prior
        exact ⟨e, j, f, entry, use, sameDay, before, by simpa [prior] using atMost⟩
    · rintro ⟨e', j, f, entry', use, sameDay, before, atMost⟩
      obtain rfl := Option.some.inj (entry.symm.trans entry')
      exact ⟨use, by simpa [(held f.startMinute).2 ⟨j, f, sameDay, before, rfl⟩] using atMost⟩
  · rintro i ⟨e, j, f, entry, -⟩
    exact (List.getElem?_eq_some_iff.1 entry).1

/-! ### A time band at minute 0 (R29) -/

theorem hasMinuteZero_iff (b : Bank) (d : Nat) :
    hasMinuteZero b d = true ↔ ∃ e ∈ (b.timeBands.entries.drop (d * 6)).take 6, e.inUse = true ∧ e.startMinute = 0 := by
  simp [hasMinuteZero]

theorem findsFirst_firstWithoutMinuteZero (b : Bank) :
    FindsFirst (firstWithoutMinuteZero b) (fun i => ∃ d, d < 3 ∧ i = d * 6 ∧
      ∀ e ∈ (b.timeBands.entries.drop (d * 6)).take 6, e.inUse = true → e.startMinute ≠ 0) := by
  have lacks : ∀ d, (∀ e ∈ (b.timeBands.entries.drop (d * 6)).take 6, e.inUse = true → e.startMinute ≠ 0) ↔
      hasMinuteZero b d = false := fun d => by
    rw [← Bool.not_eq_true, hasMinuteZero_iff]
    simp
  simp only [lacks]
  unfold firstWithoutMinuteZero
  cases h0 : hasMinuteZero b 0 with
  | false => exact ⟨⟨0, by omega, rfl, h0⟩, fun j below => absurd below (Nat.not_lt_zero j)⟩
  | true =>
    cases h1 : hasMinuteZero b 1 with
    | false =>
      refine ⟨⟨1, by omega, rfl, h1⟩, ?_⟩
      rintro j below ⟨d, -, rfl, h⟩
      obtain rfl : d = 0 := by omega
      rw [h0] at h; cases h
    | true =>
      cases h2 : hasMinuteZero b 2 with
      | false =>
        refine ⟨⟨2, by omega, rfl, h2⟩, ?_⟩
        rintro j below ⟨d, -, rfl, h⟩
        obtain rfl | rfl : d = 0 ∨ d = 1 := by omega
        · rw [h0] at h; cases h
        · rw [h1] at h; cases h
      | true =>
        rintro i ⟨d, below, -, h⟩
        obtain rfl | rfl | rfl : d = 0 ∨ d = 1 ∨ d = 2 := by omega
        · rw [h0] at h; cases h
        · rw [h1] at h; cases h
        · rw [h2] at h; cases h

/-! ### The fourteen checks (R36) -/

/-- The fourteen checks by their meaning: table, number, and at which indexes the check fails (R27 to R31, R36). -/
def Bank.failures (b : Bank) : List (Nat × Nat × (Nat → Prop)) :=
  let c := b.constants.entries.getD 0 ⟨0, 0, 0, 0, 0⟩
  [(1, 1, fun i => ∃ e, b.stations.entries[i]? = some e ∧ e.inUse = true ∧ 250000 < e.chainage),
    (1, 2, fun i => i = 0 ∧ (b.stations.entries.filter (·.inUse)).length < 2),
    (1, 3, RepeatsAt b.stations.entries),
    (2, 4, fun i => ∃ e, b.fareBands.entries[i]? = some e ∧ 0 < e.upperLimit ∧ (7500 < e.upperLimit ∨ 9999 < e.rate)),
    (2, 5, fun i => i = 0 ∧ ∀ e ∈ b.fareBands.entries, e.upperLimit = 0),
    (2, 6, LimitFallsAt b.fareBands.entries),
    (3, 7, fun i => ∃ e, b.timeBands.entries[i]? = some e ∧ e.inUse = true ∧
      (1439 < e.startMinute ∨ e.percent < 50 ∨ 300 < e.percent)),
    (3, 8, StartFallsAt b.timeBands.entries),
    (3, 9, fun i => ∃ d, d < 3 ∧ i = d * 6 ∧
      ∀ e ∈ (b.timeBands.entries.drop (d * 6)).take 6, e.inUse = true → e.startMinute ≠ 0),
    (4, 10, fun i => ∃ e, b.classes.entries[i]? = some e ∧ e.inUse = true ∧
      (100 < e.payable ∨ (e.step ≠ 1 ∧ e.step ≠ 5 ∧ e.step ≠ 10) ∨ 65535 < e.dailyCap)),
    (4, 11, fun i => i = 0 ∧ (b.classes.entries.getD 0 ⟨false, 0, 0, 0⟩).inUse = false),
    (5, 12, fun i => i = 0 ∧ b.constants.length = 0),
    (5, 13, fun i => i = 0 ∧ (999999 < c.boardingCharge ∨ c.fareCeiling < 100 ∨ 65535 < c.fareCeiling ∨
      65535 < c.sameStationFee ∨ 100 < c.minimumDistance ∨ 60 < c.sameStationGrace)),
    (5, 14, fun i => i = 0 ∧ c.fareCeiling < c.sameStationFee)]

/-- A check of the model stands for one of the fourteen: the same table and number, and what it finds is the first index at
which that fails. -/
def Judges (c : Nat × Nat × Option Nat) (x : Nat × Nat × (Nat → Prop)) : Prop :=
  c.1 = x.1 ∧ c.2.1 = x.2.1 ∧ FindsFirst c.2.2 x.2.2

/-- Each check of the model stands for its one of the fourteen, in order. -/
theorem Bank.checks_judge (b : Bank) : List.Forall₂ Judges b.checks b.failures := by
  refine .cons ⟨rfl, rfl, ?_⟩ (.cons ⟨rfl, rfl, ?_⟩ (.cons ⟨rfl, rfl, ?_⟩ (.cons ⟨rfl, rfl, ?_⟩ (.cons ⟨rfl, rfl, ?_⟩
    (.cons ⟨rfl, rfl, ?_⟩ (.cons ⟨rfl, rfl, ?_⟩ (.cons ⟨rfl, rfl, ?_⟩ (.cons ⟨rfl, rfl, ?_⟩ (.cons ⟨rfl, rfl, ?_⟩
    (.cons ⟨rfl, rfl, ?_⟩ (.cons ⟨rfl, rfl, ?_⟩ (.cons ⟨rfl, rfl, ?_⟩ (.cons ⟨rfl, rfl, ?_⟩ .nil)))))))))))))
  · exact (findsFirst_firstBad _ _).congr fun i => by simp [StationEntry.outOfRange]
  · exact findsFirst_failsAtZero decide_eq_true_iff
  · exact findsFirst_firstRepeated _
  · exact (findsFirst_firstBad _ _).congr fun i => by simp [FareBandEntry.outOfRange]
  · exact findsFirst_failsAtZero (by simp)
  · exact findsFirst_firstNotRising _
  · exact (findsFirst_firstBad _ _).congr fun i => by simp [TimeBandEntry.outOfRange, or_assoc]
  · exact findsFirst_firstStartNotRising _
  · exact findsFirst_firstWithoutMinuteZero b
  · exact (findsFirst_firstBad _ _).congr fun i => by simp [ClassEntry.outOfRange, or_assoc, and_assoc]
  · exact findsFirst_failsAtZero (by simp)
  · exact findsFirst_failsAtZero decide_eq_true_iff
  · exact findsFirst_failsAtZero (by simp [ConstantsEntry.outOfRange, Bank.constantsEntry, or_assoc])
  · exact findsFirst_failsAtZero decide_eq_true_iff

/-- The first of a list of checks that finds something. -/
abbrev firstOf (cs : List (Nat × Nat × Option Nat)) : Option CheckFailure :=
  cs.findSome? fun c => c.2.2.map fun i => ⟨c.1, i, c.2.1⟩

/-- Checks of which one fails, and none before it, report it with its first index. -/
theorem firstOf_eq_some {cs : List (Nat × Nat × Option Nat)} {xs : List (Nat × Nat × (Nat → Prop))}
    (h : List.Forall₂ Judges cs xs) : ∀ {k table check : Nat} {fails : Nat → Prop} {i : Nat},
    xs[k]? = some (table, check, fails) →
    (∀ (j : Nat) (x : Nat × Nat × (Nat → Prop)), j < k → xs[j]? = some x → ∀ i, ¬x.2.2 i) → fails i →
    (∀ j, j < i → ¬fails j) → firstOf cs = some ⟨table, i, check⟩ := by
  induction h with
  | nil => intro k table check fails i listed; simp at listed
  | @cons c x cs xs judged _ ih =>
    obtain ⟨tables, checks, finds⟩ := judged
    intro k table check fails i listed before here first
    rw [firstOf, List.findSome?_cons]
    cases k with
    | zero =>
      obtain rfl : x = (table, check, fails) := by simpa using listed
      rw [finds.eq_some here first, tables, checks]
      rfl
    | succ k =>
      have none_found : c.2.2 = none := finds.eq_none (before 0 x (Nat.succ_pos k) rfl)
      rw [none_found]
      exact ih (by simpa using listed) (fun j y below hy => before (j + 1) y (Nat.succ_lt_succ below) (by simpa using hy))
        here first

/-- Checks report nothing exactly when none of them fails anywhere. -/
theorem firstOf_eq_none_iff {cs : List (Nat × Nat × Option Nat)} {xs : List (Nat × Nat × (Nat → Prop))}
    (h : List.Forall₂ Judges cs xs) : firstOf cs = none ↔ ∀ x ∈ xs, ∀ i, ¬x.2.2 i := by
  induction h with
  | nil => simp
  | @cons c x cs xs judged _ ih =>
    obtain ⟨-, -, finds⟩ := judged
    rw [firstOf, List.findSome?_cons, List.forall_mem_cons, ← ih]
    cases found : c.2.2 with
    | none => rw [found] at finds; exact ⟨fun k => ⟨finds, k⟩, fun k => k.2⟩
    | some i =>
      rw [found] at finds
      exact ⟨fun k => (by cases k), fun k => absurd finds.1 (k.1 i)⟩

/-! ### What a bank that passes meets (R27 to R31) -/

/-- No two stations in use have one chainage when none repeats that of one before it (R27). -/
theorem chainages_nodup {l : List StationEntry} (h : ∀ i, ¬RepeatsAt l i) :
    ((l.filter (·.inUse)).map (·.chainage)).Nodup := by
  rw [List.Nodup, List.pairwise_map, List.pairwise_filter, List.pairwise_iff_getElem]
  intro j i hj hi below useF useE same
  exact h i ⟨_, j, _, List.getElem?_eq_getElem hi, useE, below, List.getElem?_eq_getElem hj, useF, same⟩

/-- The upper limits in use rise when none is at or below that of the entry in use before it (R28). -/
theorem upperLimits_rise {l : List FareBandEntry} (h : ∀ i, ¬LimitFallsAt l i) :
    ((l.filter fun e => decide (0 < e.upperLimit)).map (·.upperLimit)).Pairwise (· < ·) := by
  refine rises_of_lastBefore _ fun i e j f entry use before => Nat.lt_of_not_le fun atMost => ?_
  exact h i (limitFallsAt_iff.2 ⟨e, j, f, entry, of_decide_eq_true use, by simpa using before, atMost⟩)

/-- The start minutes in use rise within a day type when none is at or below that of the entry in use before it (R29). -/
theorem startMinutes_rise {l : List TimeBandEntry} (h : ∀ i, ¬StartFallsAt l i) (d : Nat) :
    ((((l.drop (d * 6)).take 6).filter (·.inUse)).map (·.startMinute)).Pairwise (· < ·) := by
  have inDay : ∀ {i e}, ((l.drop (d * 6)).take 6)[i]? = some e → i < 6 ∧ l[d * 6 + i]? = some e := fun {i e} entry => by
    rw [List.getElem?_take] at entry
    split at entry
    next below => exact ⟨below, by rwa [List.getElem?_drop] at entry⟩
    next => cases entry
  refine rises_of_lastBefore _ fun i e j f entry use ⟨below, hf, useF, between⟩ => Nat.lt_of_not_le fun atMost => ?_
  obtain ⟨hi, he⟩ := inDay entry
  obtain ⟨hj, hf'⟩ := inDay hf
  refine h (d * 6 + i) ⟨e, d * 6 + j, f, he, use, by omega, by omega, hf', useF, atMost, fun k g c c' hg => ?_⟩
  have listed : ((l.drop (d * 6)).take 6)[k - d * 6]? = some g := by
    rw [List.getElem?_take_of_lt (by omega), List.getElem?_drop, ← hg]
    congr 1
    omega
  simpa using between (k - d * 6) g (by omega) (by omega) listed

/-- What holds of the entry at no index holds of no entry. -/
theorem forall_mem_not_of_index {α : Type} {l : List α} {p : α → Prop} (h : ∀ i : Nat, ¬∃ e, l[i]? = some e ∧ p e) :
    ∀ e ∈ l, ¬p e := fun e mem bad =>
  have ⟨i, entry⟩ := List.mem_iff_getElem?.1 mem
  h i ⟨e, entry, bad⟩

/-- Settles O21: the model's checks stand for the fourteen of R36, so their first is the first that fails, and with none each of
the rules R27 to R31 is met. -/
theorem tariffCheckFindsTheFirstFailure : Obligations.TariffCheckFindsTheFirstFailure := by
  unfold Obligations.TariffCheckFindsTheFirstFailure
  intro b
  have judged := b.checks_judge
  refine ⟨fun passes => ?_, fun k table check fails listed before i here first =>
    firstOf_eq_some judged listed before here first, (firstOf_eq_none_iff judged).2⟩
  have never := (firstOf_eq_none_iff judged).1 passes
  simp only [Bank.failures, List.forall_mem_cons] at never
  obtain ⟨station, two, repeated, band, someBand, limits, timeBand, starts, minuteZero, cls, classZero, constants, constant,
    fee, -⟩ := never
  have atZero : ∀ {q : Prop}, (∀ i : Nat, ¬(i = 0 ∧ q)) → ¬q := fun h q => h 0 ⟨rfl, q⟩
  have inRange := atZero constant
  have belowCeiling := atZero fee
  refine ⟨fun e mem use => ?_, Nat.le_of_not_lt (atZero two), chainages_nodup repeated, fun e mem use => ?_, ?_,
    upperLimits_rise limits, fun e mem use => ?_, fun d below => ⟨?_, startMinutes_rise starts d⟩, fun e mem use => ?_,
    by simpa using atZero classZero, atZero constants, ?_⟩
  case refine_1 => exact Nat.le_of_not_lt fun bad => forall_mem_not_of_index station e mem ⟨use, bad⟩
  case refine_2 =>
    have ok : ¬(7500 < e.upperLimit ∨ 9999 < e.rate) := fun bad => forall_mem_not_of_index band e mem ⟨use, bad⟩
    omega
  case refine_3 => simpa [Nat.pos_iff_ne_zero] using atZero someBand
  case refine_4 =>
    have ok : ¬(1439 < e.startMinute ∨ e.percent < 50 ∨ 300 < e.percent) := fun bad =>
      forall_mem_not_of_index timeBand e mem ⟨use, bad⟩
    omega
  case refine_5 => simpa using fun lacks => minuteZero (d * 6) ⟨d, below, rfl, lacks⟩
  case refine_6 =>
    have ok : ¬(100 < e.payable ∨ (e.step ≠ 1 ∧ e.step ≠ 5 ∧ e.step ≠ 10) ∨ 65535 < e.dailyCap) := fun bad =>
      forall_mem_not_of_index cls e mem ⟨use, bad⟩
    omega
  case refine_7 => omega

end Sys2Proof.Machine
end

section
/-! PROOFS. What every step keeps, for a property that rests on the stores, the clock, the timers, the walks and the settings:
the frame of what such a property does not look at, and the updates it has to be asked about one by one. -/

namespace Sys2Proof.Machine

/-! ### What is left out of sight -/

/-- `t` differs from `s` at most in the queues, the tariff, the ports, the Journey Unit, the counters, the answers in hand, and
what the Sweep Unit counts and holds back. -/
def OuterFrame (s t : State) : Prop :=
  t = { s with
    pending := t.pending, tariff := t.tariff, copy := t.copy, deny := t.deny, taps := t.taps, unit := t.unit
    stall := t.stall, verdicts := t.verdicts, records := t.records, responses := t.responses, notices := t.notices
    upTransit := t.upTransit, downTransit := t.downTransit, passed := t.passed, hand := t.hand, written := t.written
    counters := t.counters, fault := t.fault, line := t.line, office := t.office
    sweep := { s.sweep with
      pendingExpiry := t.sweep.pendingExpiry, dayCounts := t.sweep.dayCounts, auditCounts := t.sweep.auditCounts
      waiting := t.sweep.waiting, kept := t.sweep.kept } }

theorem OuterFrame.refl (s : State) : OuterFrame s s := rfl

theorem OuterFrame.trans {s t u : State} (h : OuterFrame s t) (k : OuterFrame t u) : OuterFrame s u := by
  unfold OuterFrame at *
  rw [k, h]

section
variable (s : State)

theorem State.raise_outer (d : NoticeDetail) : OuterFrame s (s.raise d) := rfl

theorem State.respond_outer (r : Response) : OuterFrame s (s.respond r) := by
  unfold State.respond
  split <;> rfl

theorem State.setPort_outer (p : Port) (ps : PortState) : OuterFrame s (s.setPort p ps) := by
  cases p <;> rfl

theorem State.pushTransit_outer (p : Port) (f : Frame) : OuterFrame s (s.pushTransit p f) := by
  cases p <;> rfl

theorem State.offerVerdict_outer (stamp : Nat) (v : Verdict) : OuterFrame s (s.offerVerdict stamp v) := by
  unfold State.offerVerdict
  split <;> rfl

theorem appendWhileRoom_outer (rs : List JourneyRecord) : OuterFrame s (appendWhileRoom rs s).2 := by
  obtain ⟨records, counters, stall, h⟩ := appendWhileRoom_eq rs s
  rw [h]
  rfl

theorem State.walkRecords_outer (rs : List JourneyRecord) : OuterFrame s (s.walkRecords rs) := by
  obtain ⟨records, counters, stall, waiting, h⟩ := s.walkRecords_eq rs
  rw [h]
  rfl

theorem State.finishTap_outer (e : TapEntry) (o : TapOutcome) : OuterFrame s (s.finishTap e o) := by
  unfold State.finishTap
  have offered : OuterFrame s (if e.tap.gateDecided = 0 then s.offerVerdict e.stamp (o.toVerdict e.tap) else s) := by
    split
    · exact s.offerVerdict_outer _ _
    · exact .refl s
  exact (offered.trans (appendWhileRoom_outer _ _)).trans rfl

theorem State.takeFrom_outer (x : Source) {f : Frame} {t : State} (h : s.takeFrom x = some (f, t)) : OuterFrame s t := by
  cases x <;> obtain ⟨y, -, pair⟩ := Option.map_eq_some_iff.1 h <;> cases pair <;> rfl

end

/-! ### The updates in sight -/

/-- A property of the state that what lies out of sight does not touch, that the basic updates of the two tables keep, and that
each update of the settings, the clock, the timers, the walk in flight and the operations in progress keeps where the part makes
it. -/
structure PartClosed (P : State → Prop) : Prop extends JourneyClosed P where
  outer : ∀ {s t}, P s → OuterFrame s t → P t
  reset : P State.reset
  warmReset : ∀ s, P s → P s.warmReset
  write : ∀ s v, namedSetting v = 0 → P s → P { s with settings := s.settings.write v }
  start : ∀ s src, s.judgeStart src = none → P s → P s.started
  stop : ∀ s, P s → P s.stopped
  openDay : ∀ s src day n t, s.judgeDay day n = .inr t → P s → P (s.openDay src day t)
  startAudit : ∀ s src, s.mode ≠ .service → s.walkBusy = false → P s → P (s.startAudit src)
  holdDay : ∀ s d r, s.dayOp = some d → d.ended = true → P s → P { s with dayOp := some { d with response := some r } }
  endDay : ∀ s d, s.dayOp = some d → d.ended = true ∨ d.response.isSome = true → P s → P { s with dayOp := none }
  holdAudit : ∀ s a r, s.auditOp = some a → a.ended.isSome = true → P s →
    P { s with auditOp := some { a with response := some r } }
  endAudit : ∀ s a, s.auditOp = some a → a.ended.isSome = true ∨ a.response.isSome = true → P s →
    P { s with auditOp := none }
  disturb : ∀ s n, P s → P (s.disturb n)
  elapse : ∀ s, P s → P s.elapse
  countTime : ∀ s, P s → P s.countTime
  takeBeacon : ∀ s day time, P s → P (s.takeBeacon day time)
  watchdog : ∀ s, s.watchdog = some 0 → P s →
    P { s with watchdog := none, clock := { s.clock with doubt := true } }
  sweepTimer : ∀ s, P s → NextMeets P (execSweepTimerExpiry s)
  advance : ∀ s, P s → P { s with sweep := { s.sweep with walk := s.sweep.walk.map Walk.advance } }
  auditStep : ∀ s a, (∃ b, s.sweep.walk = some (.audit b)) → P s → P (s.setAuditStep a)
  endWalk : ∀ s w, s.sweep.walk = some w → P s → P (s.endWalk w)

/-! ### The walk in flight within an operation of the Journey Table -/

/-- The walk in flight is the pool audit (R68). -/
def State.Auditing (s : State) : Prop := ∃ a, s.sweep.walk = some (.audit a)

/-- The walk in flight is `w`, or `w` with the forced age no longer in force (R142). -/
def State.Walking (s : State) (w : Walk) : Prop := s.sweep.walk = some w ∨ s.sweep.walk = some w.unforced

@[simp] theorem Walk.unforced_unforced (w : Walk) : w.unforced.unforced = w.unforced := by cases w <;> rfl

theorem State.Walking.startSequence {s : State} {w : Walk} (h : s.Walking w) : s.startSequence.Walking w := by
  have inFlight : s.sweep.walk ≠ none := by rcases h with h | h <;> simp [h]
  unfold State.startSequence
  split
  · dsimp only
    exact h
  · exact h

/-- While a walk is in flight no operation of the Journey Table starts another (R140, R142). -/
theorem walking_closed (w : Walk) : JourneyClosed fun s => s.Walking w where
  rewrite s n c h := by simpa [State.Walking] using h
  quarantine s n c _ h := h
  setBucketHead s b next h := h
  setOrder s o h := h
  allocate s c h := by
    unfold State.allocate
    split
    · exact h
    · unfold State.judgeShortage
      split
      · exact State.Walking.startSequence h
      · exact h
  releaseSlot s n h := by
    unfold State.releaseSlot
    split
    · exact h
    · unfold State.judgeCleared
      split
      · refine .inr ?_
        rcases h with h | h <;> simp [h]
      · exact h
  charge s t d k f h := by
    unfold State.charge
    split
    · exact h
    · split
      · exact h
      · split <;> exact h
  mark s n h := h
  setAuditCounts s c h := h

theorem State.auditing_iff {s : State} : s.Auditing ↔ ∃ a, s.Walking (.audit a) :=
  ⟨fun ⟨a, h⟩ => ⟨a, .inl h⟩, fun ⟨a, h⟩ => ⟨a, h.elim id id⟩⟩

/-- An operation of the Journey Table within the audit leaves the audit in flight. -/
theorem State.Auditing.kept {s : State} (h : s.Auditing) {f : State → State}
    (keeps : ∀ {P : State → Prop}, JourneyClosed P → P s → P (f s)) : (f s).Auditing := by
  obtain ⟨a, walking⟩ := State.auditing_iff.1 h
  exact State.auditing_iff.2 ⟨a, keeps (walking_closed _) walking⟩

end Sys2Proof.Machine
end

section
/-! PROOFS. What every step keeps: a property that the updates in sight keep is kept by every request and every command, and is an
invariant of every step. -/

namespace Sys2Proof.Machine

namespace PartClosed

variable {P : State → Prop} (H : PartClosed P) {s : State}

include H

/-! ### Responses, verdicts and the Journey Unit (R82, R100, R162; spec/04) -/

theorem respond (r : Response) (h : P s) : P (s.respond r) := H.outer h (s.respond_outer r)

theorem setPort (p : Port) (ps : PortState) (h : P s) : P (s.setPort p ps) := H.outer h (s.setPort_outer p ps)

theorem walkRecords (rs : List JourneyRecord) (h : P s) : P (s.walkRecords rs) := H.outer h (s.walkRecords_outer rs)

theorem handle (x : Handling) (steps : Option Nat) (h : P s) : P (s.handle x steps) := by
  have ran := H.toJourneyClosed.runCard (steps.getD x.most) x h
  unfold State.handle
  dsimp only
  split
  · exact H.outer ran (State.finishTap_outer _ _ _)
  · exact H.outer ran rfl

theorem takeTap (e : TapEntry) (steps : Option Nat) (h : P s) : P (s.takeTap e steps) := by
  unfold State.takeTap
  split
  · exact H.outer h rfl
  · split
    · have counted : P { s with counters := { s.counters with tapsRefused := raised s.counters.tapsRefused } } :=
        H.outer h rfl
      exact H.outer counted (State.finishTap_outer _ _ _)
    · exact H.handle _ _ h

theorem tapTake (steps : Option Nat) (h : P s) : NextMeets P (execTapTake s steps) := by
  unfold execTapTake
  split
  · exact H.handle _ _ h
  · split
    · exact h
    · exact H.takeTap _ _ (H.outer (t := s.tapTaken _) h rfl)
  · exact h

theorem recordAppend (h : P s) : NextMeets P (execRecordAppend s) := by
  unfold execRecordAppend
  split
  · split
    · exact H.outer h rfl
    · exact h
  · exact h

/-! ### The Sweep Unit (spec/07) -/

theorem endIfFinished (h : P s) : P s.endIfFinished := by
  unfold State.endIfFinished
  split
  next w walk =>
    split
    · exact H.endWalk _ w walk h
    · exact h
  next => exact h

theorem finishExamination (rs : List JourneyRecord) (h : P s) : P (s.finishExamination rs) :=
  H.endIfFinished (H.walkRecords rs (H.advance _ h))

theorem agePassExamination (h : P s) : NextMeets P (execAgePassExamination s) := by
  unfold execAgePassExamination
  split
  · split
    · exact H.finishExamination _ (H.examineByAge _ _ h)
    · exact h
  · exact h

theorem forcedPassExamination (h : P s) : NextMeets P (execForcedPassExamination s) := by
  unfold execForcedPassExamination
  split
  · split
    · exact H.finishExamination _ (H.examineByAge _ _ h)
    · exact h
  · exact h

theorem dayChangeWalkExamination (h : P s) : NextMeets P (execDayChangeWalkExamination s) := by
  unfold execDayChangeWalkExamination
  split
  · split
    · exact H.finishExamination _ (H.outer (H.examineByDay _ h) rfl)
    · exact h
  · exact h

theorem walkRecordAppend (h : P s) : NextMeets P (execWalkRecordAppend s) := by
  unfold execWalkRecordAppend
  split
  · split
    · exact H.outer h rfl
    · exact H.endIfFinished (H.outer h rfl)
    · exact h
  · exact h

/-! ### The pool audit (spec/03 section 3.9) -/

theorem auditChainStep (b : Nat) (passed : Option Nat) (audit : s.Auditing) (h : P s) :
    P (s.auditChainStep b passed) := by
  unfold State.auditChainStep
  split
  · exact H.auditStep _ _ audit h
  next n _ =>
    have kept : (s.auditChainSlot b passed n).2.2.Auditing :=
      audit.kept (f := fun s => (s.auditChainSlot b passed n).2.2) fun K k => K.auditChainSlot _ _ _ k
    exact H.walkRecords _ (H.auditStep _ _ kept (H.auditChainSlot _ _ _ h))

theorem runChain (b k : Nat) : ∀ {s : State}, P s → P (runChain b k s) := by
  induction k with
  | zero => exact fun h => h
  | succ k ih =>
    intro s h
    unfold Machine.runChain
    split
    next a passed walk =>
      split
      · exact ih (H.auditChainStep _ _ ⟨_, walk⟩ h)
      · exact h
    next => exact h

theorem auditChainWalk (slots : Option Nat) (h : P s) : NextMeets P (execAuditChainWalk s slots) := by
  unfold execAuditChainWalk
  split
  · split
    · exact H.runChain _ _ h
    · exact h
  · exact h

theorem auditSlotExamination (h : P s) : NextMeets P (execAuditSlotExamination s) := by
  unfold execAuditSlotExamination
  split
  next n walk =>
    split
    · split
      · exact H.auditStep _ _ ⟨_, walk⟩ h
      next m _ =>
        have kept : (s.auditSlot m).2.Auditing :=
          State.Auditing.kept ⟨_, walk⟩ (f := fun s => (s.auditSlot m).2) fun K k => K.auditSlot _ k
        exact H.walkRecords _ (H.auditStep _ _ kept (H.auditSlot _ h))
    · exact h
  next => exact h

/-- The test of a quarantined slot, passed or failed, within the audit (R71). -/
theorem auditSlotTest (passes : Bool) (h : P s) : NextMeets P (execAuditSlotTest passes s) := by
  unfold execAuditSlotTest
  split
  next n walk =>
    split
    · split
      · exact H.auditStep _ _ ⟨_, walk⟩ h
      next m _ =>
        cases passes with
        | false => exact H.auditStep _ _ ⟨_, walk⟩ h
        | true =>
          have kept : (s.releaseSlot m).Auditing :=
            State.Auditing.kept ⟨_, walk⟩ (f := fun s => s.releaseSlot m) fun K k => K.releaseSlot _ _ k
          exact H.auditStep _ _ kept (H.setAuditCounts _ _ (H.releaseSlot _ _ h))
    · exact h
  next => exact h

theorem rebuildStep (a : AuditStep) (audit : s.Auditing) (h : P s) : P (s.rebuildStep a) := by
  cases a with
  | gather n found =>
    simp only [State.rebuildStep]
    split
    · exact H.auditStep _ _ audit h
    next m _ =>
      have kept : (s.gatherOrphan m found).2.Auditing :=
        audit.kept (f := fun s => (s.gatherOrphan m found).2) fun K k => K.gatherOrphan _ _ k
      exact H.auditStep _ _ kept (H.gatherOrphan _ _ h)
  | shed ns =>
    cases ns with
    | nil => exact H.auditStep _ _ audit (H.setOrder _ _ h)
    | cons n rest =>
      simp only [State.rebuildStep]
      split
      · exact H.auditStep _ _ audit (H.setOrder _ _ h)
      · have kept : (s.shedOrphan n).2.Auditing :=
          audit.kept (f := fun s => (s.shedOrphan n).2) fun K k => K.shedOrphan _ k
        exact H.walkRecords _ (H.auditStep _ _ kept (H.shedOrphan _ h))
  | link ns =>
    cases ns with
    | nil => exact H.endIfFinished (H.auditStep _ _ audit h)
    | cons n rest =>
      have kept : (s.linkOrphan n).Auditing :=
        audit.kept (f := fun s => s.linkOrphan n) fun K k => K.linkOrphan _ k
      exact H.auditStep _ _ kept (H.linkOrphan _ h)
  | chains b passed => exact h
  | slots n => exact h
  | tests n => exact h
  | ending => exact h

theorem runRebuild (k : Nat) : ∀ {s : State}, P s → P (runRebuild k s) := by
  induction k with
  | zero => exact fun h => h
  | succ k ih =>
    intro s h
    unfold Machine.runRebuild
    split
    next a walk =>
      split
      · exact ih (H.rebuildStep _ ⟨_, walk⟩ h)
      · exact h
    next => exact h

theorem auditOrderRebuild (steps : Option Nat) (h : P s) : NextMeets P (execAuditOrderRebuild s steps) := by
  unfold execAuditOrderRebuild
  split
  · exact H.runRebuild _ h
  · exact h

/-! ### The Service Clock (spec/07) -/

theorem foldl_disturb (ns : List Nat) : ∀ {s : State}, P s → P (ns.foldl State.disturb s) := by
  induction ns with
  | nil => exact fun h => h
  | cons n rest ih => exact fun h => ih (H.disturb _ n h)

theorem clockHold (h : P s) : NextMeets P (execClockHold s) := by
  unfold execClockHold
  split
  · exact H.countTime _ (H.elapse _ h)
  · exact h

theorem beaconWatchdogExpiry (h : P s) : NextMeets P (execBeaconWatchdogExpiry s) := by
  unfold execBeaconWatchdogExpiry
  split
  next due => exact H.outer (H.watchdog s due h) (State.raise_outer _ _)
  next => exact h

/-! ### The links (spec/08) -/

theorem beginFrame (p : Port) (h : P s) : P (s.beginFrame p) := by
  unfold State.beginFrame
  dsimp only
  split
  · exact H.setPort _ _ h
  · exact H.outer (H.setPort p _ h) rfl

theorem dataByte (p : Port) (b : Byte) (h : P s) : NextMeets P (execDataByte p b s) := by
  unfold execDataByte
  split
  · exact H.setPort _ _ h
  · show P _
    split
    · exact H.outer h rfl
    · exact h
  · exact h

theorem frameEnd (p : Port) (h : P s) : NextMeets P (execFrameEnd p s) := by
  unfold execFrameEnd
  split
  · exact H.setPort _ _ h
  · show P _
    split
    · exact H.outer h rfl
    · exact h
  · exact H.setPort _ _ h

theorem abort (p : Port) (h : P s) : NextMeets P (execAbort p s) := by
  unfold execAbort
  split
  · exact H.outer h rfl
  · exact H.setPort _ _ h

theorem lineError (p : Port) (char : Character) (h : P s) : NextMeets P (execLineError p char s) := by
  show P _
  split
  · exact H.outer h rfl
  · exact h

theorem statusEntryJoin (p : Port) (h : P s) : NextMeets P (execStatusEntryJoin p s) := by
  unfold execStatusEntryJoin
  dsimp only
  split
  · split
    · exact H.setPort _ _ h
    · exact h
  · exact h

theorem pause (p : Port) (h : P s) : NextMeets P (execPause p s) := by
  unfold execPause
  dsimp only
  split
  · exact h
  · exact H.setPort _ _ h

theorem resume (p : Port) (h : P s) : NextMeets P (execResume p s) := by
  unfold execResume
  dsimp only
  split
  · exact H.setPort _ _ h
  · exact h

theorem pauseLimitExpiry (p : Port) (h : P s) : NextMeets P (execPauseLimitExpiry p s) := by
  unfold execPauseLimitExpiry
  dsimp only
  split
  · exact H.outer (H.setPort p _ h) (State.raise_outer _ _)
  · exact h

theorem finishRouting (p : Port) (h : P s) : P (s.finishRouting p) := by
  unfold State.finishRouting
  split
  · exact H.setPort _ _ h
  · exact h

theorem egressGrant (p : Port) (h : P s) : NextMeets P (execEgressGrant p s) := by
  unfold execEgressGrant
  split
  · exact h
  · split
    next x f t e =>
      obtain ⟨y, -, taken⟩ := Option.bind_eq_some_iff.1 e
      obtain ⟨r, took, pair⟩ := Option.map_eq_some_iff.1 taken
      cases pair
      exact H.setPort _ _ (H.outer (H.outer h (s.takeFrom_outer x took)) rfl)
    next => exact h

theorem endSent (p : Port) (h : P s) : NextMeets P (execEndSent p s) := by
  unfold execEndSent
  split
  · exact H.setPort _ _ h
  · exact h

/-! ### The requests (R162) -/

theorem settingWrite (src : Nat) (v : SettingValues) (h : P s) : P (s.settingWrite src v) := by
  unfold State.settingWrite
  split
  · exact H.respond _ h
  · split
    · exact H.respond _ h
    · split
      · exact H.respond _ h
      next inRange => exact H.respond _ (H.outer (H.write s v (Decidable.not_not.1 inRange) h) rfl)

theorem tableSeek (src table index : Nat) (h : P s) : P (s.tableSeek src table index) := by
  unfold State.tableSeek
  split
  · exact H.respond _ h
  · split
    · exact H.respond _ h
    · exact H.respond _ (H.outer h rfl)

theorem tableWrite (src count : Nat) (entries : List Byte) (h : P s) : P (s.tableWrite src count entries) := by
  unfold State.tableWrite
  split
  · exact H.respond _ h
  · split
    · exact H.respond _ h
    · split
      · exact H.respond _ h
      · exact H.respond _ (H.outer h rfl)

theorem tableRead (src count : Nat) (bank : Option Nat) (h : P s) : P (s.tableRead src count bank) := by
  unfold State.tableRead
  split
  · exact H.respond _ h
  · split
    · exact H.respond _ h
    · split
      · exact H.respond _ h
      · exact H.respond _ (H.outer h rfl)

theorem tariffCheck (src : Nat) (h : P s) : P (s.tariffCheck src) := by
  unfold State.tariffCheck
  split
  · exact H.respond _ h
  · split
    · exact H.respond _ (H.outer h rfl)
    · exact H.respond _ (H.outer h rfl)

theorem tariffCommit (src : Nat) (h : P s) : P (s.tariffCommit src) := by
  unfold State.tariffCommit
  split
  · exact H.respond _ h
  · split
    · exact H.respond _ (H.outer h rfl)
    · exact H.respond _ (H.outer h rfl)

theorem tariffCopy (src : Nat) (h : P s) : P (s.tariffCopy src) := by
  unfold State.tariffCopy
  split
  · exact H.respond _ h
  · exact H.outer h rfl

theorem denyEdit {src kind count : Nat} {tokens : List Token} {act : State → State} (h : P s) (edited : P (act s)) :
    P (s.denyEdit src kind count tokens act) := by
  unfold State.denyEdit
  split
  · exact H.respond _ h
  · split
    · exact H.respond _ h
    · exact edited

theorem editDeny (d : List Token) (h : P s) : P { s with deny := d } := H.outer h rfl

theorem denyAdd (src count : Nat) (tokens : List Token) (h : P s) : P (s.denyAdd src count tokens) := by
  refine H.denyEdit h ?_
  exact H.respond _ (H.editDeny _ h)

theorem denyRemove (src count : Nat) (tokens : List Token) (h : P s) : P (s.denyRemove src count tokens) := by
  refine H.denyEdit h ?_
  exact H.respond _ (H.editDeny _ h)

theorem serviceStart (src : Nat) (h : P s) : P (s.serviceStart src) := by
  unfold State.serviceStart
  split
  · exact H.respond _ h
  next accepted => exact H.respond _ (H.start s src accepted h)

theorem serviceStop (src : Nat) (h : P s) : P (s.serviceStop src) := by
  unfold State.serviceStop
  split
  · exact H.respond _ h
  · exact H.respond _ (H.stop s h)

theorem dayChange (src day t : Nat) (h : P s) : P (s.dayChange src day t) := by
  unfold State.dayChange
  split
  · exact H.respond _ h
  next accepted => exact H.openDay _ _ _ _ _ accepted h

theorem poolAudit (src : Nat) (h : P s) : P (s.poolAudit src) := by
  unfold State.poolAudit
  split
  · exact H.respond _ h
  next maintenance =>
    split
    · exact H.respond _ h
    next idle => exact H.startAudit s src maintenance (Bool.eq_false_of_not_eq_true idle) h

theorem engineReset (src kind : Nat) (h : P s) : P (s.engineReset src kind) := by
  unfold State.engineReset
  split
  · exact H.outer (H.warmReset _ h) rfl
  · split
    · exact H.outer H.reset rfl
    · exact H.respond _ h

/-- Each request keeps the property (R162). -/
theorem takeRequest (src : Nat) (q : Request) (h : P s) : P (s.takeRequest src q) := by
  cases q with
  | settingWrite v => exact H.settingWrite _ _ h
  | settingRead g => exact H.respond _ h
  | tableSeek t i => exact H.tableSeek _ _ _ h
  | tableWrite n es => exact H.tableWrite _ _ _ h
  | tableRead n b => exact H.tableRead _ _ _ h
  | tariffCheck => exact H.tariffCheck _ h
  | tariffCommit => exact H.tariffCommit _ h
  | tariffCopy => exact H.tariffCopy _ h
  | denyAdd n ts => exact H.denyAdd _ _ _ h
  | denyRemove n ts => exact H.denyRemove _ _ _ h
  | serviceStart => exact H.serviceStart _ h
  | serviceStop => exact H.serviceStop _ h
  | dayChange d t => exact H.dayChange _ _ _ h
  | journeyQuery t => exact H.respond _ (H.queryJourney t h)
  | poolAudit => exact H.poolAudit _ h
  | statusRead c => exact H.respond _ (H.outer h rfl)
  | engineReset k => exact H.engineReset _ _ h
  | malformed k => exact H.respond _ h

/-! ### Delivery, completions and the step (R146, R155, R163, R164) -/

theorem tryDelivery (p : Port) (f : StoredFrame) (d : Destination) (h : P s) : P (s.tryDelivery p f d) := by
  unfold State.tryDelivery
  split
  · have unrouted := H.setPort p { s.port p with routed := (s.port p).routed.map fun ds => ds.erase d } h
    cases d with
    | tapQueue => exact H.outer unrouted rfl
    | management => exact H.takeRequest _ _ unrouted
    | clock => exact H.takeBeacon _ _ _ unrouted
    | transit => exact H.outer unrouted (State.pushTransit_outer _ _ _)
  · exact h

theorem switchEntry (p : Port) (h : P s) : NextMeets P (execSwitchEntry p s) := by
  unfold execSwitchEntry
  split
  next f rest _ _ =>
    split
    · refine H.finishRouting p ?_
      have routed : P (s.routeHead p f) := H.outer (H.setPort p _ h) rfl
      exact H.tryDelivery p f _ (H.tryDelivery p f _ (H.tryDelivery p f _ (H.tryDelivery p f _ routed)))
    · exact H.outer (H.setPort p _ h) rfl
  next => exact h

theorem frameDelivery (p : Port) (d : Destination) (h : P s) : NextMeets P (execFrameDelivery p d s) := by
  unfold execFrameDelivery
  split
  · exact H.finishRouting p (H.tryDelivery p _ d h)
  · exact h

/-- A request as a command is taken as from its frame, or not at all. -/
theorem request (src : Nat) (q : Request) (h : P s) : NextMeets P (.next (s.whenFree fun s => s.takeRequest src q)) := by
  show P _
  unfold State.whenFree
  split
  · exact h
  · exact H.takeRequest _ _ h

theorem malformedRequest (src : Nat) (payload : List Byte) (h : P s) :
    NextMeets P (execMalformedRequest src payload s) := by
  show P _
  unfold State.whenFree
  split
  · exact h
  · dsimp only
    split
    · exact H.respond _ h
    · exact h

theorem queryCommand (src : Nat) (token : Token) (h : P s) : NextMeets P (execJourneyQuery src token s) := by
  show P _
  unfold State.whenFree
  split
  · exact h
  · dsimp only
    split
    · exact H.takeRequest src (.journeyQuery token) h
    · exact h

theorem copyStep (h : P s) : NextMeets P (execCopyEntry s) := by
  unfold execCopyEntry
  split
  · split
    · exact H.outer h rfl
    · exact h
  · exact h

theorem copyCompletion (h : P s) : NextMeets P (execTariffCopyCompletion s) := by
  unfold execTariffCopyCompletion
  split
  · split
    · dsimp only
      split
      · exact H.outer h rfl
      · exact H.outer h rfl
    · exact h
  · exact h

theorem dayChangeCompletion (h : P s) : NextMeets P (execDayChangeCompletion s) := by
  unfold execDayChangeCompletion
  split
  next d op =>
    split
    next ready =>
      split
      · exact H.outer (H.endDay s d op (.inl ready.1) h) rfl
      · exact H.holdDay s d _ op ready.1 h
    next => exact h
  next => exact h

theorem poolAuditCompletion (h : P s) : NextMeets P (execPoolAuditCompletion s) := by
  unfold execPoolAuditCompletion
  split
  next src quarantined op =>
    dsimp only
    split
    · exact H.outer (H.endAudit s _ op (.inl rfl) h) rfl
    · exact H.holdAudit s _ _ op rfl h
  next => exact h

theorem responseQueueJoin (w : Waiter) (h : P s) : NextMeets P (execResponseQueueJoin w s) := by
  unfold execResponseQueueJoin
  split
  next r waits =>
    split
    · cases w with
      | requestInHand => exact H.outer h rfl
      | tariffCopy => exact H.outer h rfl
      | dayChange =>
        obtain ⟨d, op, held⟩ := Option.bind_eq_some_iff.1 waits
        exact H.outer (H.endDay s d op (.inr (by rw [held]; rfl)) h) rfl
      | poolAudit =>
        obtain ⟨a, op, held⟩ := Option.bind_eq_some_iff.1 waits
        exact H.outer (H.endAudit s a op (.inr (by rw [held]; rfl)) h) rfl
    · exact h
  next => exact h

/-- Every command keeps what the updates in sight keep. -/
theorem exec (c : Instr) (h : P s) : NextMeets P (exec c s) := by
  cases c with
  | powerOn => exact H.outer H.reset rfl
  | fullReset src => exact H.request src (.engineReset 2) h
  | warmReset src => exact H.request src (.engineReset 1) h
  | settingWrite src v => exact H.request src (.settingWrite v) h
  | settingRead src g => exact H.request src (.settingRead g) h
  | tableSeek src t i => exact H.request src (.tableSeek t i) h
  | tableWrite src n es => exact H.request src (.tableWrite n es) h
  | tableRead src n b => exact H.request src (.tableRead n b) h
  | tariffCheck src => exact H.request src .tariffCheck h
  | tariffCommit src => exact H.request src .tariffCommit h
  | tariffCopy src => exact H.request src .tariffCopy h
  | tariffCopyCompletion => exact H.copyCompletion h
  | denyAdd src n ts => exact H.request src (.denyAdd n ts) h
  | denyRemove src n ts => exact H.request src (.denyRemove n ts) h
  | serviceStart src => exact H.request src .serviceStart h
  | serviceStop src => exact H.request src .serviceStop h
  | dayChange src d t => exact H.request src (.dayChange d t) h
  | journeyQuery src t => exact H.queryCommand src t h
  | poolAudit src => exact H.request src .poolAudit h
  | auditChainWalk n => exact H.auditChainWalk n h
  | auditSlotExamination => exact H.auditSlotExamination h
  | auditSlotTest b => exact H.auditSlotTest b h
  | auditOrderRebuild n => exact H.auditOrderRebuild n h
  | poolAuditCompletion => exact H.poolAuditCompletion h
  | statusRead src b => exact H.request src (.statusRead b) h
  | responseQueueJoin w => exact H.responseQueueJoin w h
  | tapTake n => exact H.tapTake n h
  | recordAppend => exact H.recordAppend h
  | sweepTimerExpiry => exact H.sweepTimer s h
  | agePassExamination => exact H.agePassExamination h
  | forcedPassExamination => exact H.forcedPassExamination h
  | dayChangeWalkExamination => exact H.dayChangeWalkExamination h
  | dayChangeCompletion => exact H.dayChangeCompletion h
  | walkRecordAppend => exact H.walkRecordAppend h
  | serviceTimeTick ns => exact H.countTime _ (H.elapse _ (H.foldl_disturb ns h))
  | clockHold => exact H.clockHold h
  | beacon d t => exact H.takeBeacon s d t h
  | beaconWatchdogExpiry => exact H.beaconWatchdogExpiry h
  | frameStart p => exact H.beginFrame p (H.setPort p _ h)
  | frameEnd p => exact H.frameEnd p h
  | abort p => exact H.abort p h
  | lineError p ch => exact H.lineError p ch h
  | pause p => exact H.pause p h
  | resume p => exact H.resume p h
  | pauseLimitExpiry p => exact H.pauseLimitExpiry p h
  | statusEntryJoin p => exact H.statusEntryJoin p h
  | switchEntry p => exact H.switchEntry p h
  | frameDelivery p d => exact H.frameDelivery p d h
  | egressGrant p => exact H.egressGrant p h
  | dataByte p b => exact H.dataByte p b h
  | endSent p => exact H.endSent p h
  | copyEntry => exact H.copyStep h
  | malformedRequest src b => exact H.malformedRequest src b h
  | engineReset src k => exact H.request src (.engineReset k) h

/-- Such a property is an invariant of every step. -/
theorem step {t : State} (h : P s) (run : step s = .next t) : P t := by
  have met : NextMeets P (Machine.step s) := by
    unfold Machine.step
    split
    · exact H.outer h rfl
    next c rest _ => exact H.exec c (H.outer (t := { s with pending := rest }) h rfl)
  rwa [run] at met

end PartClosed

end Sys2Proof.Machine
end

section
/-! PROOFS. Settings, clock, timers, walks and operations agree at every step: what the agreement rests on, the walk in flight
replaced, what follows a walk, and each update in sight. -/

namespace Sys2Proof.Machine

/-! ### Settings within their ranges (R166) -/

/-- With no first value out of range, none is. -/
theorem all_of_firstOutside_eq_zero : ∀ {i : Nat} {checks : List Bool}, i ≠ 0 → firstOutside i checks = 0 →
    ∀ ok ∈ checks, ok = true := by
  intro i checks
  induction checks generalizing i with
  | nil => exact fun _ _ _ h => nomatch h
  | cons ok rest ih =>
    intro hi h
    cases ok with
    | false => exact absurd h hi
    | true =>
      intro b hb
      rcases List.mem_cons.1 hb with rfl | hb
      · rfl
      · exact ih (Nat.succ_ne_zero i) h b hb

theorem within_iff {least most n : Nat} : within least most n = true ↔ least ≤ n ∧ n ≤ most := by
  simp [within]

/-- A group written with no value out of range keeps every setting in its range. -/
theorem Settings.InRange.write {x : Settings} (h : x.InRange) {v : SettingValues} (inRange : namedSetting v = 0) :
    (x.write v).InRange := by
  have all := all_of_firstOutside_eq_zero (Nat.succ_ne_zero 0) inRange
  cases v with
  | other g => exact h
  | link n p =>
    simp only [inRanges, List.forall_mem_cons, within_iff] at all
    exact { h with nodeAddress := all.1, pauseLimit := all.2.1 }
  | timing s b v f =>
    simp only [inRanges, List.forall_mem_cons, within_iff] at all
    obtain ⟨period, limit, life, ⟨-, tolerance⟩, -⟩ := all
    exact { h with sweepPeriod := period, beaconLimit := limit, verdictLife := life, futureTolerance := tolerance }
  | journey m p b o l =>
    simp only [inRanges, List.forall_mem_cons, within_iff] at all
    obtain ⟨duration, ⟨-, passback⟩, ⟨-, break_⟩, hold, level, -⟩ := all
    exact { h with
      maxDuration := duration, passbackWindow := passback, breakWindow := break_, orphanHold := hold
      shortageLevel := level }

/-- The forced age with which a sequence starts lies in the range of forced ages (R140, R141). -/
theorem State.firstForcedAge_inRange {s : State} (h : s.settings.InRange) :
    Config.forcedAgeFloor ≤ s.firstForcedAge ∧ s.firstForcedAge ≤ 144000 := by
  have := h.maxDuration
  unfold State.firstForcedAge State.maxDuration Config.forcedAgeFloor
  omega

/-- A forced age halved lies in the range of forced ages (R141). -/
theorem halvedForcedAge_inRange {a f : Nat} (h : a ≤ 144000) (halved : halvedForcedAge a = some f) :
    Config.forcedAgeFloor ≤ f ∧ f ≤ 144000 := by
  unfold halvedForcedAge at halved
  unfold Config.forcedAgeFloor at halved ⊢
  split at halved
  · cases halved
  · obtain rfl := Option.some.inj halved
    omega

/-! ### The kind of the walk in flight -/

/-- Whether the walk in flight, if any, is of a kind. -/
def walkIs (kind : Walk → Bool) (w : Option Walk) : Prop := ∃ x, w = some x ∧ kind x = true

theorem not_walkIs_none (kind : Walk → Bool) : ¬walkIs kind none := fun ⟨_, h, _⟩ => by cases h

@[simp] theorem walkIs_some (kind : Walk → Bool) (w : Walk) : walkIs kind (some w) ↔ kind w = true :=
  ⟨fun ⟨_, h, k⟩ => by cases h; exact k, fun k => ⟨w, rfl, k⟩⟩

/-- A change within a walk leaves its kind. -/
theorem walkIs_map {kind : Walk → Bool} {f : Walk → Walk} (keeps : ∀ w, kind (f w) = kind w) (w : Option Walk) :
    walkIs kind (w.map f) ↔ walkIs kind w := by
  cases w with
  | none => exact Iff.rfl
  | some w => simp [keeps]

namespace State.Orderly

variable {s t : State}

/-- The agreement rests on the settings, the clock, the mode, the timers, the walk, the forced age and the operations. -/
theorem congr (h : s.Orderly) (settings : t.settings = s.settings) (clock : t.clock = s.clock) (mode : t.mode = s.mode)
    (watchdog : t.watchdog = s.watchdog) (timer : t.sweep.timer = s.sweep.timer)
    (forcedAge : t.sweep.forcedAge = s.sweep.forcedAge) (walk : t.sweep.walk = s.sweep.walk)
    (auditOp : t.auditOp = s.auditOp) (dayOp : t.dayOp = s.dayOp) : t.Orderly where
  settings := by rw [settings]; exact h.settings
  time := by rw [clock]; exact h.time
  unset := by rw [clock]; exact h.unset
  day := by rw [clock]; exact h.day
  watchdog := by rw [mode, watchdog]; exact h.watchdog
  timer := by rw [mode, timer]; exact h.timer
  noSequence := by rw [mode, forcedAge]; exact h.noSequence
  noPass := by rw [mode, walk]; exact h.noPass
  forcedAge := by rw [forcedAge]; exact h.forcedAge
  auditMode := by rw [mode, walk]; exact h.auditMode
  auditWalk := by rw [walk, auditOp]; exact h.auditWalk
  dayWalk := by rw [walk, dayOp]; exact h.dayWalk
  auditHeld := by rw [auditOp]; exact h.auditHeld
  dayHeld := by rw [dayOp]; exact h.dayHeld

theorem outer (h : s.Orderly) (f : OuterFrame s t) : t.Orderly :=
  h.congr (by rw [f]) (by rw [f]) (by rw [f]) (by rw [f]) (by rw [f]) (by rw [f]) (by rw [f]) (by rw [f]) (by rw [f])

/-- The walk in flight replaced by one that is, or is not, an audit or a day-change walk as that was. -/
theorem setWalk (h : s.Orderly) {w : Option Walk} (audit : walkIs Walk.isAudit w ↔ walkIs Walk.isAudit s.sweep.walk)
    (day : walkIs Walk.isDay w ↔ walkIs Walk.isDay s.sweep.walk)
    (pass : s.mode = .maintenance → ∀ x, w = some x → x.isPass = false) :
    { s with sweep := { s.sweep with walk := w } }.Orderly :=
  { h with
    noPass := pass
    auditMode := fun x hx k => (fun ⟨y, hy, ky⟩ => h.auditMode y hy ky) (audit.1 ⟨x, hx, k⟩)
    auditWalk := audit.trans h.auditWalk
    dayWalk := day.trans h.dayWalk }

/-- A change within the walk in flight that leaves its kind. -/
theorem mapWalk (h : s.Orderly) {f : Walk → Walk} (audit : ∀ w, (f w).isAudit = w.isAudit)
    (day : ∀ w, (f w).isDay = w.isDay) (pass : ∀ w, (f w).isPass = w.isPass) :
    { s with sweep := { s.sweep with walk := s.sweep.walk.map f } }.Orderly := by
  refine h.setWalk (walkIs_map audit _) (walkIs_map day _) fun m x hx => ?_
  obtain ⟨y, hy, rfl⟩ := Option.map_eq_some_iff.1 hx
  rw [pass]
  exact h.noPass m y hy

/-- With no walk in flight a pass starts, in SERVICE (R136, R140). -/
theorem startPass (h : s.Orderly) (idle : s.sweep.walk = none) (mode : s.mode = .service) {w : Walk}
    (pass : w.isPass = true) : { s with sweep := { s.sweep with walk := some w } }.Orderly := by
  refine h.setWalk ?_ ?_ fun m => by rw [mode] at m; cases m
  · rw [idle, walkIs_some]
    cases w <;> simp_all [Walk.isPass, Walk.isAudit, not_walkIs_none]
  · rw [idle, walkIs_some]
    cases w <;> simp_all [Walk.isPass, Walk.isDay, not_walkIs_none]

theorem startForced (h : s.Orderly) (idle : s.sweep.walk = none) (mode : s.mode = .service) : s.startForced.Orderly :=
  (h.startPass (w := .forced 0 true) idle mode rfl).outer rfl

theorem startAge (h : s.Orderly) (idle : s.sweep.walk = none) (mode : s.mode = .service) : s.startAge.Orderly :=
  (h.startPass (w := .age 0) idle mode rfl).outer rfl

/-- The forced age set, in SERVICE, to one in its range, or to none. -/
theorem setForcedAge (h : s.Orderly) {f : Option Nat} (mode : s.mode = .maintenance → f = none)
    (range : ∀ a, f = some a → Config.forcedAgeFloor ≤ a ∧ a ≤ 144000) :
    { s with sweep := { s.sweep with forcedAge := f } }.Orderly :=
  { h with noSequence := mode, forcedAge := range }

/-- A sequence starts with its first forced age, in SERVICE (R140). -/
theorem firstForcedAge (h : s.Orderly) (mode : s.mode = .service) :
    { s with sweep := { s.sweep with forcedAge := some s.firstForcedAge } }.Orderly :=
  h.setForcedAge (fun m => by rw [mode] at m; cases m)
    fun a ha => by obtain rfl := Option.some.inj ha; exact State.firstForcedAge_inRange h.settings

theorem startSequence (h : s.Orderly) : s.startSequence.Orderly := by
  unfold State.startSequence
  split
  next c =>
    dsimp only
    split
    next idle => exact (h.firstForcedAge c.1).startForced idle c.1
    next => exact h.firstForcedAge c.1
  next => exact h

theorem judgeShortage (h : s.Orderly) : s.judgeShortage.Orderly := by
  unfold State.judgeShortage
  split
  · refine startSequence ?_
    exact h.congr rfl rfl rfl rfl rfl rfl rfl rfl rfl
  · exact h

theorem judgeCleared (h : s.Orderly) : s.judgeCleared.Orderly := by
  unfold State.judgeCleared
  split
  · have ended := h.setForcedAge (f := none) (fun _ => rfl) fun a ha => by cases ha
    have unforced := ended.mapWalk (f := Walk.unforced) (fun w => by cases w <;> rfl) (fun w => by cases w <;> rfl)
      fun w => by cases w <;> rfl
    exact unforced.congr rfl rfl rfl rfl rfl rfl rfl rfl rfl
  · exact h

end State.Orderly

/-- No operation of the Journey Table disturbs the agreement: one that declares or clears shortage moves the sequence of forced
passes alone (R140, R142). -/
theorem journeyClosed_orderly : JourneyClosed State.Orderly where
  rewrite s n c h := by
    apply h.congr <;> simp
  quarantine s n c _ h := h.congr rfl rfl rfl rfl rfl rfl rfl rfl rfl
  setBucketHead s b next h := h.congr rfl rfl rfl rfl rfl rfl rfl rfl rfl
  setOrder s o h := h.congr rfl rfl rfl rfl rfl rfl rfl rfl rfl
  allocate s c h := by
    unfold State.allocate
    split
    · exact h
    · refine State.Orderly.judgeShortage ?_
      exact h.congr rfl rfl rfl rfl rfl rfl rfl rfl rfl
  releaseSlot s n h := by
    unfold State.releaseSlot
    split
    · exact h
    · refine State.Orderly.judgeCleared ?_
      exact h.congr rfl rfl rfl rfl rfl rfl rfl rfl rfl
  charge s t d k f h := by
    unfold State.charge
    split
    · exact h
    · split
      · exact h.congr rfl rfl rfl rfl rfl rfl rfl rfl rfl
      · split
        · exact h.congr rfl rfl rfl rfl rfl rfl rfl rfl rfl
        · exact h.congr rfl rfl rfl rfl rfl rfl rfl rfl rfl
  mark s n h := h.congr rfl rfl rfl rfl rfl rfl rfl rfl rfl
  setAuditCounts s c h := h.congr rfl rfl rfl rfl rfl rfl rfl rfl rfl

/-! ### What the Sweep Unit and the clock find -/

section
variable {s : State}

/-- What follows a walk rests on no walk. -/
theorem State.afterWalk_noWalk (s : State) :
    s.afterWalk = { s with sweep := { s.sweep with walk := none } }.afterWalk := by
  unfold State.afterWalk
  dsimp only
  split
  · rfl
  · split_ifs <;> rfl

/-- With a pass ended the walk in flight is none (R139). -/
theorem State.endPass_noPass (s : State) (w : Walk) (walk : s.endPass.sweep.walk = some w) :
    w.isPass = false := by
  unfold State.endPass at walk
  split at walk
  · cases walk
  · cases walk
  next notAge notForced =>
    cases w with
    | age n => exact absurd walk (notAge n)
    | forced n f => exact absurd walk (notForced n f)
    | day n => rfl
    | audit a => rfl

/-- An accepted SERVICE_START has found no audit in progress (R175). -/
theorem State.judgeStart_noAudit {src : Nat} (h : s.judgeStart src = none) :
    s.auditOp = none := by
  cases op : s.auditOp with
  | none => rfl
  | some a =>
    simp only [State.judgeStart, op, Option.isSome_some, if_true] at h
    split_ifs at h

/-- A DAY_CHANGE accepted finds a day number in range, other than the clock's, and no operation in progress (R143). -/
theorem State.judgeDay_accepts {day n : Nat} {t : DayType} (h : s.judgeDay day n = .inr t) :
    1 ≤ day ∧ day ≤ 65535 ∧ s.walkBusy = false ∧ s.clock.day ≠ some day := by
  unfold State.judgeDay at h
  split at h
  · cases h
  · split_ifs at h with range busy same
    exact ⟨by omega, by omega, Bool.eq_false_of_not_eq_true busy, same⟩

/-- A beacon that advances the clock finds it set and names a time within the day (R132). -/
theorem Clock.judgeBeacon_advances {c : Clock} {day time : Nat}
    (h : c.judgeBeacon day time = .advances) : c.day ≠ none ∧ time ≤ Config.lastDecisecond := by
  unfold Clock.judgeBeacon at h
  split at h
  · cases h
  next d set =>
    split_ifs at h with bad
    exact ⟨by rw [set]; exact Option.some_ne_none d, by omega⟩

end

namespace State.Orderly

variable {s : State}

/-! ### The end of a walk (R137, R141, R146, R72) -/

/-- With the walk gone, what follows it (R137). -/
theorem afterWalk (h : s.Orderly) (idle : s.sweep.walk = none) : s.afterWalk.Orderly := by
  have ended := h.setForcedAge (f := none) (fun _ => rfl) fun a ha => by cases ha
  unfold State.afterWalk
  split
  · exact ended.congr rfl rfl rfl rfl rfl rfl idle.symm rfl rfl
  next mode =>
    split
    · exact h.startForced idle mode
    · split
      · exact (h.firstForcedAge mode).startForced idle mode
      · split
        · exact ended.startAge idle mode
        · exact ended.congr rfl rfl rfl rfl rfl rfl idle.symm rfl rfl

/-- A pass that is gone leaves the agreement of the other walks and operations. -/
theorem dropPass (h : s.Orderly) {w : Walk} (walk : s.sweep.walk = some w) (pass : w.isPass = true) :
    { s with sweep := { s.sweep with walk := none } }.Orderly := by
  refine h.setWalk ?_ ?_ fun _ x hx => by cases hx
  · rw [walk, walkIs_some]
    cases w <;> simp_all [Walk.isPass, Walk.isAudit, not_walkIs_none]
  · rw [walk, walkIs_some]
    cases w <;> simp_all [Walk.isPass, Walk.isDay, not_walkIs_none]

/-- A day-change walk that is gone with its operation's walk ended (R146). -/
theorem dropDay (h : s.Orderly) {n : Nat} (walk : s.sweep.walk = some (.day n)) :
    { s with sweep := { s.sweep with walk := none }, dayOp := s.dayOp.map DayOperation.walked }.Orderly :=
  { h with
    noPass := fun _ x hx => by cases hx
    auditMode := fun x hx => by cases hx
    auditWalk := by
      have none_ : ¬∃ w, s.sweep.walk = some w ∧ w.isAudit = true := by rw [walk]; simp [Walk.isAudit]
      exact iff_of_false (not_walkIs_none _) (fun k => none_ (h.auditWalk.2 k))
    dayWalk := by
      refine iff_of_false (not_walkIs_none _) fun ⟨d, hd, open_⟩ => ?_
      obtain ⟨e, -, rfl⟩ := Option.map_eq_some_iff.1 hd
      cases open_
    dayHeld := fun d hd _ => by obtain ⟨e, -, rfl⟩ := Option.map_eq_some_iff.1 hd; rfl }

/-- An audit that is gone with its operation's walk ended (R72). -/
theorem dropAudit (h : s.Orderly) {a : AuditStep} (walk : s.sweep.walk = some (.audit a)) (q : Nat) :
    { s with sweep := { s.sweep with walk := none }, auditOp := s.auditOp.map (AuditOperation.walked q) }.Orderly :=
  { h with
    noPass := fun _ x hx => by cases hx
    auditMode := fun x hx => by cases hx
    auditWalk := by
      refine iff_of_false (not_walkIs_none _) fun ⟨b, hb, open_⟩ => ?_
      obtain ⟨e, -, rfl⟩ := Option.map_eq_some_iff.1 hb
      cases open_
    auditHeld := fun b hb _ => by obtain ⟨e, -, rfl⟩ := Option.map_eq_some_iff.1 hb; rfl
    dayWalk := by
      have none_ : ¬∃ w, s.sweep.walk = some w ∧ w.isDay = true := by rw [walk]; simp [Walk.isDay]
      exact iff_of_false (not_walkIs_none _) (fun k => none_ (h.dayWalk.2 k)) }

/-- The walk in flight ends (R137, R141, R146, R72). -/
theorem endWalk (h : s.Orderly) {w : Walk} (walk : s.sweep.walk = some w) : (s.endWalk w).Orderly := by
  unfold State.endWalk
  split
  · rw [State.afterWalk_noWalk]
    exact (h.dropPass walk rfl).afterWalk rfl
  · rw [State.afterWalk_noWalk]
    refine afterWalk ?_ rfl
    have gone := h.dropPass walk rfl
    split
    · refine gone.setForcedAge (fun m => by rw [h.noSequence m]; rfl) fun a ha => ?_
      obtain ⟨f, hf, halved⟩ := Option.bind_eq_some_iff.1 ha
      exact halvedForcedAge_inRange (h.forcedAge f hf).2 halved
    · exact gone
  · rw [State.afterWalk_noWalk]
    exact (h.dropDay walk).afterWalk rfl
  · rw [State.afterWalk_noWalk]
    exact afterWalk ((h.dropAudit walk _).congr rfl rfl rfl rfl rfl rfl rfl rfl rfl) rfl

/-- An age or forced pass ended at once (R139). -/
theorem endPass (h : s.Orderly) : s.endPass.Orderly := by
  unfold State.endPass
  split
  next walk => exact (h.dropPass walk rfl).outer rfl
  next walk => exact (h.dropPass walk rfl).outer rfl
  next => exact h

/-! ### Modes and operations (R68, R143, R147, R175, R176) -/

theorem not_auditing (h : s.Orderly) (op : s.auditOp = none) (w : Walk) (walk : s.sweep.walk = some w) :
    w.isAudit = false := by
  refine Bool.eq_false_of_not_eq_true fun k => ?_
  obtain ⟨a, ha, -⟩ := h.auditWalk.1 ⟨w, walk, k⟩
  rw [op] at ha
  cases ha

theorem started (h : s.Orderly) {src : Nat} (accepted : s.judgeStart src = none) : s.started.Orderly :=
  { h with
    watchdog := fun m => by cases m
    timer := fun m => by cases m
    noSequence := fun m => by cases m
    noPass := fun m => by cases m
    auditMode := fun w walk k => by
      rw [h.not_auditing (State.judgeStart_noAudit accepted) w walk] at k
      cases k }

theorem stopped (h : s.Orderly) : s.stopped.Orderly :=
  { h.endPass with
    watchdog := fun _ => rfl
    timer := fun _ => rfl
    noSequence := fun _ => rfl
    noPass := fun _ => s.endPass_noPass
    forcedAge := fun _ hf => by cases hf
    auditMode := fun _ _ _ => rfl }

theorem idle_ops (h : s.walkBusy = false) : s.dayOp = none ∧ s.auditOp = none := by
  unfold State.walkBusy at h
  rw [Bool.or_eq_false_iff] at h
  exact ⟨Option.isSome_eq_false_iff.1 h.1 |> Option.isNone_iff_eq_none.1,
    Option.isSome_eq_false_iff.1 h.2 |> Option.isNone_iff_eq_none.1⟩

theorem openDay (h : s.Orderly) {src day n : Nat} {t : DayType} (accepted : s.judgeDay day n = .inr t) :
    (s.openDay src day t).Orderly := by
  obtain ⟨least, most, idle, -⟩ := State.judgeDay_accepts accepted
  obtain ⟨-, noAudit⟩ := idle_ops idle
  have begun : State.Orderly { s with
      tariff := s.tariff.dayChange
      cap := s.cap.afterDayChange s.clock.day day
      clock := { day := some day, dayType := t, time := 0, doubt := true }
      watchdog := none } :=
    { h with
      time := Nat.zero_le _
      unset := fun _ => rfl
      day := fun d hd => by cases hd; exact ⟨least, most⟩
      watchdog := fun _ => rfl }
  have ended := begun.endPass
  exact { ended with
    noPass := fun _ w hw => by cases hw; rfl
    auditMode := fun w hw k => by cases hw; cases k
    auditWalk := by
      refine iff_of_false (by rintro ⟨w, hw, k⟩; cases hw; cases k) ?_
      rintro ⟨a, ha, -⟩
      have op : s.auditOp = some a := by simpa [State.openDay] using ha
      rw [noAudit] at op
      cases op
    dayWalk := iff_of_true ⟨_, rfl, rfl⟩ ⟨_, rfl, rfl⟩
    dayHeld := fun d hd held => by cases hd; cases held }

theorem startAudit (h : s.Orderly) {src : Nat} (maintenance : s.mode ≠ .service) (idle : s.walkBusy = false) :
    (s.startAudit src).Orderly := by
  obtain ⟨noDay, -⟩ := idle_ops idle
  have mode : s.mode = .maintenance := by
    cases m : s.mode with
    | maintenance => rfl
    | service => exact absurd m maintenance
  exact { h with
    noPass := fun _ w hw => by cases hw; rfl
    auditMode := fun _ _ _ => mode
    auditWalk := iff_of_true ⟨_, rfl, rfl⟩ ⟨_, rfl, rfl⟩
    dayWalk := by
      refine iff_of_false (by rintro ⟨w, hw, k⟩; cases hw; cases k) ?_
      rintro ⟨d, hd, -⟩
      have op : s.dayOp = some d := hd
      rw [noDay] at op
      cases op
    auditHeld := fun a ha held => by cases ha; cases held }

theorem setDayOp (h : s.Orderly) {d : DayOperation} (op : s.dayOp = some d) (ended : d.ended = true)
    {e : Option DayOperation} (done : ∀ x, e = some x → x.ended = true) : { s with dayOp := e }.Orderly :=
  { h with
    dayWalk := by
      refine iff_of_false (fun k => ?_) ?_
      · obtain ⟨x, hx, open_⟩ := h.dayWalk.1 k
        cases op.symm.trans hx
        rw [ended] at open_
        cases open_
      · rintro ⟨x, hx, open_⟩
        rw [done x hx] at open_
        cases open_
    dayHeld := fun x hx _ => done x hx }

theorem setAuditOp (h : s.Orderly) {a : AuditOperation} (op : s.auditOp = some a) (ended : a.ended.isSome = true)
    {e : Option AuditOperation} (done : ∀ x, e = some x → x.ended.isSome = true) : { s with auditOp := e }.Orderly :=
  { h with
    auditWalk := by
      refine iff_of_false (fun k => ?_) ?_
      · obtain ⟨x, hx, open_⟩ := h.auditWalk.1 k
        cases op.symm.trans hx
        rw [open_] at ended
        cases ended
      · rintro ⟨x, hx, open_⟩
        have := done x hx
        rw [open_] at this
        cases this
    auditHeld := fun x hx _ => done x hx }

/-! ### The clock and the timers (R130 to R133, R136) -/

/-- The clock's time and doubt moved, the day staying set. -/
theorem setTime (h : s.Orderly) {time : Nat} {doubt : Bool} (le : time ≤ Config.lastDecisecond)
    (set : s.clock.day = none → time = 0) :
    { s with clock := { s.clock with time := time, doubt := doubt } }.Orderly :=
  { h with time := le, unset := set, day := h.day }

theorem setDoubt (h : s.Orderly) (doubt : Bool) : { s with clock := { s.clock with doubt := doubt } }.Orderly :=
  h.setTime h.time h.unset

theorem countTime (h : s.Orderly) : s.countTime.Orderly := by
  unfold State.countTime
  split
  · exact h
  next d day =>
    have set : ∀ time : Nat, s.clock.day = none → time = 0 := fun _ k => by rw [day] at k; cases k
    split
    next below => exact h.setTime (Nat.le_of_lt below) (set _)
    next =>
      split
      · exact (h.setTime (doubt := true) (Nat.le_refl _) (set _)).outer (State.raise_outer _ _)
      · exact h

theorem elapse (h : s.Orderly) : s.elapse.Orderly :=
  { h with
    watchdog := fun m => by
      show countDown s.watchdog = none
      rw [h.watchdog m]
      rfl
    timer := fun m => by
      show countDown s.sweep.timer = none
      rw [h.timer m]
      rfl }

theorem acceptBeacon (h : s.Orderly) : s.acceptBeacon.Orderly :=
  { h.setDoubt false with
    watchdog := fun m => by
      show (if s.mode = .service then _ else s.watchdog) = none
      have m : s.mode = .maintenance := m
      rw [m, if_neg (by decide)]
      exact h.watchdog m }

theorem takeBeacon (h : s.Orderly) (day time : Nat) : (s.takeBeacon day time).Orderly := by
  unfold State.takeBeacon
  split
  · exact h
  · exact h.outer (s.raise_outer _)
  next judged =>
    obtain ⟨set, le⟩ := Clock.judgeBeacon_advances judged
    exact (h.setTime le fun k => absurd k set).acceptBeacon
  · exact h.acceptBeacon

theorem sweepTimer (h : s.Orderly) : NextMeets State.Orderly (execSweepTimerExpiry s) := by
  unfold execSweepTimerExpiry
  split
  next due =>
    have mode : s.mode = .service := by
      cases m : s.mode with
      | service => rfl
      | maintenance => rw [h.timer m] at due; cases due
    have reloaded : State.Orderly { s with sweep := { s.sweep with timer := some s.sweepPeriod } } :=
      { h with timer := fun m => by rw [show s.mode = .maintenance from m] at mode; cases mode }
    dsimp only
    split
    · exact reloaded.outer rfl
    next idle =>
      split
      · exact (reloaded.firstForcedAge mode).startForced idle mode
      · exact reloaded.startAge idle mode
  next => exact h

end State.Orderly

/-! ### The invariant -/

/-- Each update in sight keeps the agreement. -/
theorem partClosed_orderly : PartClosed State.Orderly where
  toJourneyClosed := journeyClosed_orderly
  outer h f := h.outer f
  reset := State.orderly_reset
  warmReset s h := { State.orderly_reset with
    settings := h.settings
    time := h.time
    unset := h.unset
    day := h.day }
  write s v inRange h := { h with settings := h.settings.write inRange }
  start s src accepted h := h.started accepted
  stop s h := h.stopped
  openDay s src day n t accepted h := h.openDay accepted
  startAudit s src maintenance idle h := h.startAudit maintenance idle
  holdDay s d r op ended h := h.setDayOp op ended fun x hx => by cases hx; exact ended
  endDay s d op ended h := h.setDayOp op (ended.elim id (h.dayHeld d op)) fun x hx => by cases hx
  holdAudit s a r op ended h := h.setAuditOp op ended fun x hx => by cases hx; exact ended
  endAudit s a op ended h := h.setAuditOp op (ended.elim id (h.auditHeld a op)) fun x hx => by cases hx
  disturb s n h := by
    unfold State.disturb
    split
    · exact h.congr rfl rfl rfl rfl rfl rfl rfl rfl rfl
    · exact h
  elapse s h := h.elapse
  countTime s h := h.countTime
  takeBeacon s day time h := h.takeBeacon day time
  watchdog s _ h := { h.setDoubt true with watchdog := fun _ => rfl }
  sweepTimer s h := h.sweepTimer
  advance s h := h.mapWalk (fun w => by cases w <;> rfl) (fun w => by cases w <;> rfl) fun w => by cases w <;> rfl
  auditStep s a audit h := by
    obtain ⟨b, walk⟩ := audit
    refine h.setWalk ?_ ?_ fun _ x hx => by cases hx; rfl
    · rw [walk, walkIs_some, walkIs_some]; rfl
    · rw [walk, walkIs_some, walkIs_some]; rfl
  endWalk s w walk h := h.endWalk walk

/-- Settles O8: each update of the settings, the clock, the timers, the walks and the operations keeps their agreement, and every
step is made of such updates. -/
theorem clockTimersAndWalksAgree : Obligations.ClockTimersAndWalksAgree := by
  unfold Obligations.ClockTimersAndWalksAgree
  exact fun s t orderly run => partClosed_orderly.step orderly run

end Sys2Proof.Machine
end

section
/-! PROOFS. The stores of the Journey Table stay whole: the counts of the kinds, the free list, and each basic update of the slots,
the heads and the marks. -/

namespace Sys2Proof.Machine

/-! ### The counts of the kinds (R48, R49) -/

/-- The count of a kind (R49). -/
def Counts.of (c : Counts) : Kind → Nat
  | .free => c.free
  | .core => c.cores
  | .extension => c.extensions
  | .orphan => c.orphans
  | .quarantined => c.quarantined

/-- The five counts together (R49). -/
def Counts.total (c : Counts) : Nat := c.free + c.quarantined + c.cores + c.extensions + c.orphans

theorem Counts.of_lower (c : Counts) (j k : Kind) : (c.lower j).of k = c.of k - if j = k then 1 else 0 := by
  cases j <;> cases k <;> rfl

theorem Counts.of_lift (c : Counts) (j k : Kind) : (c.lift j).of k = c.of k + if j = k then 1 else 0 := by
  cases j <;> cases k <;> rfl

theorem Counts.total_lower {c : Counts} {j : Kind} (h : 1 ≤ c.of j) : (c.lower j).total + 1 = c.total := by
  cases j <;> simp only [Counts.of] at h <;> simp only [Counts.total, Counts.lower] <;> omega

theorem Counts.total_lift (c : Counts) (j : Kind) : (c.lift j).total = c.total + 1 := by
  cases j <;> simp only [Counts.total, Counts.lift] <;> omega

/-- How many listed slots are of a kind. -/
def kindsListed (slots : List (Nat × Slot)) (k : Kind) : Nat := (slots.filter fun x => decide (x.2.kind = k)).length

/-- The counts are those of the slots listed, and add up to the number of slots (R48, R49). -/
structure Counts.Agree (c : Counts) (slots : List (Nat × Slot)) : Prop where
  kinds : ∀ k, k ≠ .free → c.of k = kindsListed slots k
  total : c.total = Config.slotCount

theorem State.Stored.agree {s : State} (h : s.Stored) : s.table.counts.Agree s.table.slots where
  kinds k hk := by
    obtain ⟨quarantined, cores, extensions, orphans⟩ := h.kinds
    cases k with
    | free => exact absurd rfl hk
    | core => exact cores
    | extension => exact extensions
    | orphan => exact orphans
    | quarantined => exact quarantined
  total := h.sum

/-- One slot's kind in place of another's among the slots listed: the counts move with it (R49). -/
theorem Counts.Agree.move {c : Counts} {slots slots' : List (Nat × Slot)} (h : c.Agree slots) {before after : Kind}
    (held : 1 ≤ c.of before)
    (listed : ∀ k, k ≠ .free →
      kindsListed slots' k + (if before = k then 1 else 0) = kindsListed slots k + if after = k then 1 else 0) :
    (c.move before after).Agree slots' where
  kinds k hk := by
    have l := listed k hk
    have e := h.kinds k hk
    rw [Counts.move, Counts.of_lift, Counts.of_lower]
    split at l
    next same => subst same; rw [if_pos rfl]; omega
    next other => rw [if_neg other]; omega
  total := by
    rw [Counts.move, Counts.total_lift, Counts.total_lower held]
    exact h.total

theorem Slot.kind_ne_free (x : Slot) : x.kind ≠ .free := by
  cases x with
  | quarantined => exact fun h => by cases h
  | allocated c k => cases c <;> exact fun h => by cases h

/-- What a slot counts for among the slots listed of a kind. -/
theorem kindOf_counts (slots : List (Nat × Slot)) (n : Nat) {k : Kind} (hk : k ≠ .free) :
    ((sparseGet slots n).elim 0 fun x => (decide (x.kind = k)).toNat) =
      if (match sparseGet slots n with | none => Kind.free | some x => x.kind) = k then 1 else 0 := by
  cases sparseGet slots n with
  | none => exact (if_neg (Ne.symm hk)).symm
  | some x => by_cases e : x.kind = k <;> simp [e]

/-- A slot written: its new kind is counted in place of its old. -/
theorem kindsListed_put (s : State) (n : Nat) (x : Slot) {k : Kind} (hk : k ≠ .free) :
    kindsListed (sparsePut s.table.slots n x) k + (if s.kind n = k then 1 else 0) =
      kindsListed s.table.slots k + if x.kind = k then 1 else 0 := by
  have count := sparse_count_put (fun x : Slot => decide (x.kind = k)) s.table.slots n x
  rw [kindOf_counts _ _ hk] at count
  have new : (decide (x.kind = k)).toNat = if x.kind = k then 1 else 0 := by by_cases e : x.kind = k <;> simp [e]
  rw [new] at count
  exact count

/-- A slot removed: its kind is counted no more. -/
theorem kindsListed_erase (s : State) (n : Nat) {k : Kind} (hk : k ≠ .free) :
    kindsListed (sparseErase s.table.slots n) k + (if s.kind n = k then 1 else 0) =
      kindsListed s.table.slots k + if Kind.free = k then 1 else 0 := by
  have count := sparse_count_erase (fun x : Slot => decide (x.kind = k)) s.table.slots n
  rw [kindOf_counts _ _ hk] at count
  rw [if_neg (Ne.symm hk), Nat.add_zero]
  exact count

/-- Every slot listed is of one of the four kinds that are not FREE. -/
theorem kindsListed_total (slots : List (Nat × Slot)) :
    kindsListed slots .quarantined + kindsListed slots .core + kindsListed slots .extension + kindsListed slots .orphan =
      slots.length := by
  unfold kindsListed
  induction slots with
  | nil => rfl
  | cons x rest ih =>
    have free := x.2.kind_ne_free
    cases e : x.2.kind with
    | free => exact absurd e free
    | core => simp [e]; omega
    | extension => simp [e]; omega
    | orphan => simp [e]; omega
    | quarantined => simp [e]; omega

namespace State.Stored

variable {s t : State}

/-- A slot held counts for its kind. -/
theorem counted (h : s.Stored) {n : Nat} {x : Slot} (hx : s.slot n = some x) : 1 ≤ s.table.counts.of x.kind := by
  rw [h.agree.kinds _ x.kind_ne_free]
  exact List.length_pos_of_mem (List.mem_filter.2 ⟨mem_of_sparseGet _ _ _ hx, decide_eq_true rfl⟩)

/-- With a slot FREE the count of FREE slots is not 0. -/
theorem counted_free (h : s.Stored) {n : Nat} (hn : n < Config.slotCount) (hx : s.slot n = none) :
    1 ≤ s.table.counts.of .free := by
  have once : (s.table.slots.map (·.1)).Nodup :=
    List.Pairwise.map _ (fun a b (h : a.1 < b.1) => Nat.ne_of_lt h) ((sparseWf_iff _).1 h.slots)
  have below : s.table.slots.map (·.1) ⊆ (List.range Config.slotCount).erase n := by
    intro m hm
    obtain ⟨x, mem, rfl⟩ := List.mem_map.1 hm
    refine (List.mem_erase_of_ne fun e => ?_).2 (List.mem_range.2 (h.numbers x mem))
    have all := sparse_find_none s.table.slots h.slots (fun _ j => decide (j = n)) 0 fun j v _ listed =>
      decide_eq_false fun e => by subst e; rw [show sparseGet _ _ = _ from hx] at listed; cases listed
    rw [Option.map_eq_none_iff, List.find?_eq_none] at all
    exact absurd e (by simpa using all x mem)
  have length := (once.subperm below).length_le
  rw [List.length_map, List.length_erase_of_mem (List.mem_range.2 hn), List.length_range] at length
  have total : s.table.counts.total = Config.slotCount := h.agree.total
  have kinds := kindsListed_total s.table.slots
  rw [← h.agree.kinds .quarantined (by decide), ← h.agree.kinds .core (by decide),
    ← h.agree.kinds .extension (by decide), ← h.agree.kinds .orphan (by decide)] at kinds
  simp only [Counts.total, Counts.of] at total kinds ⊢
  simp only [Config.slotCount] at total length hn
  omega

/-- The stores are whole that are those of a state whose stores are. -/
theorem congr (h : s.Stored) (slots : t.table.slots = s.table.slots) (heads : t.table.heads = s.table.heads)
    (marks : t.table.marks = s.table.marks) (free : t.table.free = s.table.free)
    (counts : t.table.counts = s.table.counts) (cap : t.cap = s.cap) (today : t.today = s.today) : t.Stored where
  slots := by rw [slots]; exact h.slots
  heads := by rw [heads]; exact h.heads
  marks := by rw [marks]; exact h.marks
  accounts := by rw [cap]; exact h.accounts
  buckets := by rw [cap]; exact h.buckets
  hint := by rw [cap]; exact h.hint
  spent := by rw [cap]; exact h.spent
  journeys := by rw [cap]; exact h.journeys
  numbers := by rw [slots]; exact h.numbers
  kinds := by simp only [State.kindCount, counts, slots]; exact h.kinds
  sum := by rw [counts]; exact h.sum
  freeOnce := by rw [free]; exact h.freeOnce
  freeSlots := by simp only [State.slot, free, slots]; exact h.freeSlots
  accountsOfDay := by rw [cap, today]; exact h.accountsOfDay

/-- The slots, the free list and the counts replaced by others that are whole. -/
theorem setSlots (h : s.Stored) {slots : List (Nat × Slot)} {free : FreeList} {counts : Counts}
    (wf : sparseWf slots = true) (numbers : ∀ x ∈ slots, x.1 < Config.slotCount) (agree : counts.Agree slots)
    (once : free.toList.Nodup)
    (list : ∀ m, m ∈ free.toList ↔ m < Config.slotCount ∧ sparseGet slots m = none) :
    { s with table := { s.table with slots := slots, free := free, counts := counts } }.Stored :=
  { h with
    slots := wf
    numbers := numbers
    kinds := ⟨agree.kinds .quarantined (by decide), agree.kinds .core (by decide), agree.kinds .extension (by decide),
      agree.kinds .orphan (by decide)⟩
    sum := agree.total
    freeOnce := once
    freeSlots := list }

/-! ### A slot written (R48, R65) -/

/-- A slot that is not FREE is written, with another kind where the counts move along. -/
theorem put (h : s.Stored) {n : Nat} {x y : Slot} (hx : s.slot n = some x) :
    { s with table := { s.table with
      slots := sparsePut s.table.slots n y, counts := s.table.counts.move x.kind y.kind } }.Stored := by
  have kind : s.kind n = x.kind := by unfold State.kind; rw [hx]
  refine h.setSlots (free := s.table.free) (sparsePut_wf _ _ _ h.slots) (fun z hz => ?_) ?_ h.freeOnce fun m => ?_
  · rcases mem_sparsePut _ _ _ _ hz with rfl | hz
    · exact h.slot_lt hx
    · exact h.numbers z hz
  · exact h.agree.move (h.counted hx) fun k hk => kind ▸ kindsListed_put s n y hk
  · rw [h.freeSlots m]
    by_cases e : m = n
    · subst e
      rw [sparseGet_put_self, hx]
      simp
    · rw [sparseGet_put_other _ _ _ _ e]
      rfl

/-- A slot taken away and counted again stands as it was. -/
theorem move_self (h : s.Stored) {n : Nat} {x : Slot} (hx : s.slot n = some x) :
    s.table.counts.move x.kind x.kind = s.table.counts := by
  have held := h.counted hx
  unfold Counts.move
  generalize s.table.counts = c at held ⊢
  generalize x.kind = k at held ⊢
  cases k <;> simp only [Counts.of] at held <;> simp only [Counts.lower, Counts.lift, Nat.sub_add_cancel held]

/-- A slot that is not FREE is written with its kind kept (R48). -/
theorem putSame (h : s.Stored) {n : Nat} {x y : Slot} (hx : s.slot n = some x) (kind : y.kind = x.kind) :
    { s with table := { s.table with slots := sparsePut s.table.slots n y } }.Stored := by
  refine (h.put (y := y) hx).congr rfl rfl rfl rfl ?_ rfl rfl
  rw [kind]
  exact (h.move_self hx).symm

theorem rewrite (h : s.Stored) (n : Nat) (c : Content) : (s.rewrite n c).Stored := by
  unfold State.rewrite
  split
  next kind =>
    cases hx : s.slot n with
    | none =>
      rw [(s.kind_eq_free n).2 hx] at kind
      cases c <;> cases kind
    | some x => exact h.putSame hx (by rw [← show s.kind n = x.kind by unfold State.kind; rw [hx]]; exact kind.symm)
  next => exact h

theorem disturb (h : s.Stored) (n : Nat) : (s.disturb n).Stored := by
  unfold State.disturb
  split
  next c intact hx => exact h.putSame hx rfl
  next => exact h

theorem quarantine (h : s.Stored) {n : Nat} {x : Slot} (hx : s.slot n = some x) : (s.quarantine n).Stored := by
  refine (h.put (y := .quarantined) hx).congr rfl rfl rfl rfl ?_ rfl rfl
  show s.table.counts.move (s.kind n) .quarantined = _
  rw [show s.kind n = x.kind by unfold State.kind; rw [hx]]
  rfl

/-! ### The heads and the marks (R54, R69) -/

theorem setBucketHead (h : s.Stored) (b : Nat) (next : Option Nat) : (s.setBucketHead b next).Stored := by
  cases next with
  | none => exact { h with heads := sparseErase_wf _ _ h.heads }
  | some n => exact { h with heads := sparsePut_wf _ _ _ h.heads }

end State.Stored

/-- A mark put among marks kept in rising order keeps their order. -/
theorem markIn_rises {marks : List Nat} (n : Nat) (h : marks.Pairwise fun a b => a < b) :
    (markIn marks n).Pairwise fun a b => a < b := by
  induction marks with
  | nil => exact List.pairwise_singleton _ _
  | cons m rest ih =>
    obtain ⟨least, rises⟩ := List.pairwise_cons.1 h
    unfold markIn
    split
    · exact h
    next other =>
      split
      next below =>
        refine List.pairwise_cons.2 ⟨fun a ha => ?_, h⟩
        rcases List.mem_cons.1 ha with rfl | ha
        · exact below
        · exact Nat.lt_trans below (least a ha)
      next above =>
        refine List.pairwise_cons.2 ⟨fun a ha => ?_, ih rises⟩
        rcases (mem_markIn rest n a).1 ha with rfl | ha
        · omega
        · exact least a ha

namespace State.Stored

variable {s : State}

theorem mark (h : s.Stored) (n : Nat) : (s.mark n).Stored := { h with marks := markIn_rises n h.marks }

end State.Stored

/-! ### The free list (R55, R56) -/

/-- What is taken from the free list stands at its head. -/
theorem FreeList.take_toList {f g : FreeList} {n : Nat} (h : f.take = some (n, g)) : f.toList = n :: g.toList := by
  obtain ⟨returned, fresh⟩ := f
  unfold FreeList.take at h
  cases returned with
  | cons m rest => cases h; rfl
  | nil =>
    simp only at h
    split at h
    next left =>
      cases h
      have one : Config.slotCount - n = (Config.slotCount - (n + 1)) + 1 := by omega
      simp only [FreeList.toList, List.nil_append]
      rw [one, List.range'_succ]
    next => cases h

/-- Nothing can be taken from an empty free list alone. -/
theorem FreeList.toList_of_take_none {f : FreeList} (h : f.take = none) : f.toList = [] := by
  obtain ⟨returned, fresh⟩ := f
  unfold FreeList.take at h
  cases returned with
  | cons m rest => cases h
  | nil =>
    simp only at h
    split at h
    · cases h
    next none_ =>
      rw [Nat.not_lt] at none_
      simp only [FreeList.toList, Nat.sub_eq_zero_of_le none_, List.range'_zero, List.nil_append]

namespace State.Stored

variable {s : State}

/-- The slot at the head of the free list is FREE. -/
theorem taken (h : s.Stored) {n : Nat} {f : FreeList} (take : s.table.free.take = some (n, f)) :
    n < Config.slotCount ∧ s.slot n = none ∧ n ∉ f.toList ∧ f.toList.Nodup := by
  have list := FreeList.take_toList take
  obtain ⟨below, free⟩ := (h.freeSlots n).1 (by rw [list]; exact List.mem_cons_self)
  have once := h.freeOnce
  rw [list, List.nodup_cons] at once
  exact ⟨below, free, once⟩

/-- A record written into the head of the free list (R55). -/
theorem fill (h : s.Stored) {n : Nat} {f : FreeList} (take : s.table.free.take = some (n, f)) (c : Content) :
    { s with table := { s.table with
        free := f
        slots := sparsePut s.table.slots n (.allocated c true)
        counts := s.table.counts.move .free c.kind } }.Stored := by
  obtain ⟨below, free, notLeft, once⟩ := h.taken take
  refine h.setSlots (sparsePut_wf _ _ _ h.slots) (fun z hz => ?_) ?_ once fun m => ?_
  · rcases mem_sparsePut _ _ _ _ hz with rfl | hz
    · exact below
    · exact h.numbers z hz
  · exact h.agree.move (h.counted_free below free) fun k hk =>
      (s.kind_eq_free n).2 free ▸ kindsListed_put s n (.allocated c true) hk
  · by_cases e : m = n
    · subst e
      rw [sparseGet_put_self]
      simp [notLeft]
    · rw [sparseGet_put_other _ _ _ _ e]
      have all := h.freeSlots m
      rw [FreeList.take_toList take, List.mem_cons] at all
      simp only [e, false_or] at all
      exact all

/-- Judging shortage leaves the stores as they are. -/
theorem judgeShortage (h : s.Stored) : s.judgeShortage.Stored := by
  obtain ⟨slots, heads, free, counts, -, marks, cap, -⟩ := s.judgeShortage_keeps
  refine h.congr slots heads marks free counts cap ?_
  have frame : JourneyFrame s s.judgeShortage := judgeShortage_frame s
  rw [State.today, frame]
  rfl

theorem judgeCleared (h : s.Stored) : s.judgeCleared.Stored := by
  obtain ⟨slots, heads, free, counts, -, marks, cap⟩ := s.judgeCleared_keeps
  refine h.congr slots heads marks free counts cap ?_
  have frame : JourneyFrame s s.judgeCleared := judgeCleared_frame s
  rw [State.today, frame]
  rfl

theorem allocate (h : s.Stored) (c : Content) : (s.allocate c).2.Stored := by
  unfold State.allocate
  split
  · exact h
  next n f take => exact (h.fill take c).judgeShortage

/-- A slot that is not FREE is released (R55). -/
theorem releaseSlot (h : s.Stored) (n : Nat) : (s.releaseSlot n).Stored := by
  unfold State.releaseSlot
  split
  · exact h
  next held =>
    refine judgeCleared ?_
    cases hx : s.slot n with
    | none => exact absurd ((s.kind_eq_free n).2 hx) held
    | some x =>
      have list : (s.table.free.give n).toList = n :: s.table.free.toList := FreeList.give_toList _ _ (h.slot_lt hx)
      have notFree : n ∉ s.table.free.toList := fun k => by
        rw [h.freeSlots n, hx] at k
        exact absurd k.2 (Option.some_ne_none x)
      refine h.setSlots (sparseErase_wf _ _ h.slots) (fun z hz => h.numbers z (mem_sparseErase _ _ _ hz)) ?_ ?_ fun m => ?_
      · refine h.agree.move ?_ fun k hk => kindsListed_erase s n hk
        rw [show s.kind n = x.kind by unfold State.kind; rw [hx]]
        exact h.counted hx
      · rw [list]
        exact List.nodup_cons.2 ⟨notFree, h.freeOnce⟩
      · rw [list, List.mem_cons]
        by_cases e : m = n
        · subst e
          rw [sparseGet_erase_self _ _ h.slots]
          simpa using h.slot_lt hx
        · rw [sparseGet_erase_other _ _ _ h.slots e, h.freeSlots m]
          simp only [e, false_or]
          rfl

end State.Stored

end Sys2Proof.Machine
end

section
/-! PROOFS. The stores of the Cap Table stay whole: the chains of accounts, an account opened and an account charged; and with the
Journey Table the invariant of every step. -/

namespace Sys2Proof.Machine

/-! ### The chains of accounts (R118, R120) -/

namespace CapTable

variable {c d : CapTable}

/-- Accounts that stand with the same next-link in another table chain there alike. -/
theorem IsChain.of_next : ∀ {ns : List Nat} {link : Option Nat}, c.IsChain link ns →
    (∀ n ∈ ns, ∀ a, sparseGet c.accounts n = some a → ∃ b, sparseGet d.accounts n = some b ∧ b.next = a.next) →
    d.IsChain link ns := by
  intro ns
  induction ns with
  | nil => intro link h _; cases link <;> exact h
  | cons m rest ih =>
    intro link h same
    cases link with
    | none => exact h
    | some n =>
      obtain ⟨rfl, a, ha, h⟩ := h
      obtain ⟨b, hb, next⟩ := same n List.mem_cons_self a ha
      exact ⟨rfl, b, hb, next ▸ ih h fun m hm => same m (List.mem_cons_of_mem _ hm)⟩

/-- A walk of a chain that finds nothing has passed every account of it (R120). -/
theorem IsChain.walk_none {token : Token} : ∀ {ns : List Nat} {link : Option Nat} {fuel : Nat}, c.IsChain link ns →
    ns.length ≤ fuel → accountWalk c token fuel link = none →
    ∀ n ∈ ns, ∀ a, sparseGet c.accounts n = some a → a.token ≠ token := by
  intro ns
  induction ns with
  | nil => exact fun _ _ _ _ h => nomatch h
  | cons m rest ih =>
    intro link fuel h len walk n hn a ha
    obtain ⟨fuel, rfl⟩ : ∃ k, fuel = k + 1 := ⟨fuel - 1, by simp only [List.length_cons] at len; omega⟩
    cases link with
    | none => exact h.elim
    | some l =>
      obtain ⟨rfl, b, hb, h⟩ := h
      simp only [accountWalk, hb] at walk
      split at walk
      · cases walk
      next other =>
        rcases List.mem_cons.1 hn with rfl | hn
        · cases hb.symm.trans ha
          exact other
        · exact ih h (by simpa using len) walk n hn a ha

/-- What a walk finds is listed. -/
theorem accountWalk_listed {token : Token} {n : Nat} {a : Account} : ∀ {fuel : Nat} {link : Option Nat},
    accountWalk c token fuel link = some (n, a) → sparseGet c.accounts n = some a := by
  intro fuel
  induction fuel with
  | zero => exact fun h => by cases h
  | succ fuel ih =>
    intro link h
    cases link with
    | none => cases h
    | some m =>
      simp only [accountWalk] at h
      split at h
      · cases h
      next b hb =>
        split at h
        · cases h; exact hb
        · exact ih h

/-- The table with one account written. -/
def putAccount (c : CapTable) (n : Nat) (a : Account) : CapTable := { c with accounts := sparsePut c.accounts n a }

/-- An account of the current day is in no chain of another bucket, and in that of its own. -/
theorem Ordered.chain {today : Nat} (h : c.Ordered today) (b : Nat) : ∃ ns, c.IsChain (c.currentHead today b) ns ∧ ns.Nodup ∧
    (∀ n, n ∈ ns ↔ ∃ a, sparseGet c.accounts n = some a ∧ a.day = today ∧ accountBucketOf a.token = b) ∧
    ns.length ≤ Config.accountCount := by
  obtain ⟨ns, chain, once, all⟩ := h.chains b
  refine ⟨ns, chain, once, all, ?_⟩
  have below : ns ⊆ List.range Config.accountCount := fun n hn => by
    obtain ⟨a, ha, -⟩ := (all n).1 hn
    exact List.mem_range.2 (h.numbers _ (mem_of_sparseGet _ _ _ ha))
  simpa using (once.subperm below).length_le

/-- A lookup that finds nothing has passed every current account of the token (R120). -/
theorem Ordered.lookup_none {today : Nat} (h : c.Ordered today) {token : Token} (lookup : accountLookup c today token = none)
    {n : Nat} {a : Account} (ha : sparseGet c.accounts n = some a) (day : a.day = today) : a.token ≠ token := fun e => by
  obtain ⟨ns, chain, -, all, len⟩ := h.chain (accountBucketOf token)
  exact chain.walk_none len lookup n ((all n).2 ⟨a, ha, day, by rw [e]⟩) a ha e

/-- An account charged keeps its token, day and link, and with them the order of the table (R123). -/
theorem Ordered.putSame {today n : Nat} {a b : Account} (h : c.Ordered today) (ha : sparseGet c.accounts n = some a)
    (token : b.token = a.token) (day : b.day = a.day) (next : b.next = a.next) : (c.putAccount n b).Ordered today := by
  have listed : ∀ m x, sparseGet (c.putAccount n b).accounts m = some x →
      ∃ y, sparseGet c.accounts m = some y ∧ x.token = y.token ∧ x.day = y.day := by
    intro m x hx
    by_cases e : m = n
    · subst e
      cases (sparseGet_put_self _ _ _).symm.trans hx
      exact ⟨a, ha, token, day⟩
    · exact ⟨x, (sparseGet_put_other _ _ _ _ e).symm.trans hx, rfl, rfl⟩
  have kept : ∀ m y, sparseGet c.accounts m = some y →
      ∃ x, sparseGet (c.putAccount n b).accounts m = some x ∧ x.token = y.token ∧ x.day = y.day ∧ x.next = y.next := by
    intro m y hy
    by_cases e : m = n
    · subst e
      cases ha.symm.trans hy
      exact ⟨b, sparseGet_put_self _ _ _, token, day, next⟩
    · exact ⟨y, (sparseGet_put_other _ _ _ _ e).trans hy, rfl, rfl, rfl⟩
  have stood : (n, a) ∈ c.accounts := mem_of_sparseGet _ _ _ ha
  refine {
    numbers := fun x hx => ?_
    days := fun x hx => ?_
    marks := h.marks
    chains := fun k => ?_
    once := fun m l x y hx hy dx dy same => ?_ }
  · rcases mem_sparsePut _ _ _ _ hx with rfl | hx
    · exact h.numbers (n, a) stood
    · exact h.numbers x hx
  · rcases mem_sparsePut _ _ _ _ hx with rfl | hx
    · exact Nat.le_trans (Nat.le_of_eq day) (h.days _ stood)
    · exact h.days x hx
  · obtain ⟨ns, chain, once, all⟩ := h.chains k
    refine ⟨ns, chain.of_next fun m _ y hy => ?_, once, fun m => (all m).trans ⟨?_, ?_⟩⟩
    · obtain ⟨x, hx, -, -, link⟩ := kept m y hy
      exact ⟨x, hx, link⟩
    · rintro ⟨y, hy, dy, by_⟩
      obtain ⟨x, hx, tx, dx, -⟩ := kept m y hy
      exact ⟨x, hx, dx.trans dy, by rw [tx]; exact by_⟩
    · rintro ⟨x, hx, dx, bx⟩
      obtain ⟨y, hy, ty, dy⟩ := listed m x hx
      exact ⟨y, hy, dy ▸ dx, ty ▸ bx⟩
  · obtain ⟨x', hx', tx, dx'⟩ := listed m x hx
    obtain ⟨y', hy', ty, dy'⟩ := listed l y hy
    exact h.once m l x' y' hx' hy' (dx' ▸ dx) (dy' ▸ dy) (by rw [← tx, ← ty, same])

/-! ### An opening (R121) -/

/-- A free account found is an account of the table that is not current (R117, R121). -/
theorem findFree_free {today n : Nat} : ∀ {fuel k : Nat}, k < Config.accountCount → findFree c today fuel k = some n →
    n < Config.accountCount ∧ ∀ a, sparseGet c.accounts n = some a → a.day ≠ today := by
  intro fuel
  induction fuel with
  | zero => exact fun _ h => by cases h
  | succ fuel ih =>
    intro k hk h
    unfold findFree at h
    split at h
    next free =>
      cases h
      refine ⟨hk, fun a ha => ?_⟩
      unfold accountFree at free
      rw [ha] at free
      simpa using free
    next =>
      refine ih ?_ h
      split
      · assumption
      · exact (by decide : 0 < Config.accountCount)

theorem currentHead_put_self (c : CapTable) (accounts : List (Nat × Account)) (today b n hint : Nat) :
    (CapTable.mk accounts (sparsePut c.buckets b ⟨today, n⟩) hint).currentHead today b = some n := by
  simp [CapTable.currentHead]

theorem currentHead_put_other (c : CapTable) (accounts : List (Nat × Account)) (today n hint : Nat) {b k : Nat}
    (h : k ≠ b) :
    (CapTable.mk accounts (sparsePut c.buckets b ⟨today, n⟩) hint).currentHead today k = c.currentHead today k := by
  simp only [CapTable.currentHead, sparseGet_put_other _ _ _ _ h]

/-- An account opened heads its bucket's chain, and the table stays in order (R118, R121). -/
theorem Ordered.open {today n cap hint : Nat} {token : Token} (h : c.Ordered today) (below : n < Config.accountCount)
    (free : ∀ a, sparseGet c.accounts n = some a → a.day ≠ today)
    (absent : ∀ m a, sparseGet c.accounts m = some a → a.day = today → a.token ≠ token) :
    (CapTable.mk
      (sparsePut c.accounts n ⟨token, today, cap, 0, 0, c.currentHead today (accountBucketOf token)⟩)
      (sparsePut c.buckets (accountBucketOf token) ⟨today, n⟩) hint).Ordered today := by
  generalize hd : CapTable.mk _ _ hint = d
  have self : sparseGet d.accounts n = some ⟨token, today, cap, 0, 0, c.currentHead today (accountBucketOf token)⟩ := by
    rw [← hd]; exact sparseGet_put_self _ _ _
  have other : ∀ m, m ≠ n → sparseGet d.accounts m = sparseGet c.accounts m := fun m hm => by
    rw [← hd]; exact sparseGet_put_other _ _ _ _ hm
  refine {
    numbers := fun x hx => ?_
    days := fun x hx => ?_
    marks := fun x hx => ?_
    chains := fun b => ?_
    once := fun m l x y hx hy dx dy same => ?_ }
  · rw [← hd] at hx
    rcases mem_sparsePut _ _ _ _ hx with rfl | hx
    · exact below
    · exact h.numbers x hx
  · rw [← hd] at hx
    rcases mem_sparsePut _ _ _ _ hx with rfl | hx
    · exact Nat.le_refl _
    · exact h.days x hx
  · rw [← hd] at hx
    rcases mem_sparsePut _ _ _ _ hx with rfl | hx
    · exact Nat.le_refl _
    · exact h.marks x hx
  · obtain ⟨ns, chain, once, all⟩ := h.chains b
    have notIn : n ∉ ns := fun k => by
      obtain ⟨a, ha, day, -⟩ := (all n).1 k
      exact free a ha day
    have kept : d.IsChain (c.currentHead today b) ns := chain.of_next fun m hm a ha =>
      ⟨a, by rw [other m fun e => notIn (e ▸ hm)]; exact ha, rfl⟩
    by_cases e : b = accountBucketOf token
    · subst e
      refine ⟨n :: ns, ?_, List.nodup_cons.2 ⟨notIn, once⟩, fun m => ?_⟩
      · rw [← hd, currentHead_put_self, hd]
        exact ⟨rfl, _, self, kept⟩
      · by_cases hm : m = n
        · subst hm
          exact iff_of_true List.mem_cons_self ⟨_, self, rfl, rfl⟩
        · rw [List.mem_cons, other m hm]
          simpa only [hm, false_or] using all m
    · refine ⟨ns, ?_, once, fun m => ?_⟩
      · rw [← hd, currentHead_put_other _ _ _ _ _ e, hd]
        exact kept
      · by_cases hm : m = n
        · subst hm
          refine iff_of_false notIn ?_
          rintro ⟨a, ha, -, ba⟩
          cases self.symm.trans ha
          exact e ba.symm
        · rw [other m hm]
          exact all m
  · by_cases hm : m = n
    · by_cases hl : l = n
      · rw [hm, hl]
      · subst hm
        cases self.symm.trans hx
        rw [other l hl] at hy
        exact absurd same.symm (absent l y hy dy)
    · rw [other m hm] at hx
      by_cases hl : l = n
      · subst hl
        cases self.symm.trans hy
        exact absurd same (absent m x hx dx)
      · rw [other l hl] at hy
        exact h.once m l x y hx hy dx dy same

/-- On a later day no account is current, and every chain is empty (R118, R128). -/
theorem Ordered.later {old today : Nat} (h : c.Ordered old) (later : old < today) : c.Ordered today where
  numbers := h.numbers
  days x hx := Nat.le_trans (h.days x hx) (Nat.le_of_lt later)
  marks x hx := Nat.le_trans (h.marks x hx) (Nat.le_of_lt later)
  chains b := by
    refine ⟨[], ?_, .nil, fun n => iff_of_false (fun k => nomatch k) ?_⟩
    · have none_ : c.currentHead today b = none := by
        unfold CapTable.currentHead
        split
        · rfl
        next x hx =>
          have := h.marks _ (mem_of_sparseGet _ _ _ hx)
          exact if_neg (by simp only at this; omega)
      rw [none_]
      trivial
    · rintro ⟨a, ha, day, -⟩
      have := h.days _ (mem_of_sparseGet _ _ _ ha)
      simp only at this
      omega
  once n m a b ha hb da _ _ := by
    have := h.days _ (mem_of_sparseGet _ _ _ ha)
    simp only at this
    omega

/-- The form of the Cap Table on a day: its stores canonical, its hint an account, no account above its cap, and its order (R117,
R121, R123). -/
structure Whole (c : CapTable) (today : Nat) : Prop where
  accounts : sparseWf c.accounts = true
  buckets : sparseWf c.buckets = true
  hint : c.hint < Config.accountCount
  spent : ∀ x ∈ c.accounts, x.2.spent ≤ x.2.cap
  journeys : ∀ x ∈ c.accounts, x.2.journeys ≤ 255
  ordered : c.Ordered today

/-- A cut leaves an account at or below its cap, and the table whole (R123). -/
theorem Whole.cut {today n : Nat} {a : Account} (h : c.Whole today) (ha : sparseGet c.accounts n = some a) (fare : Nat) :
    (cutAccount c n a fare).2.Whole today := by
  have stood := mem_of_sparseGet _ _ _ ha
  have spent := h.spent _ stood
  have journeys := h.journeys _ stood
  simp only at spent journeys
  have ordered := h.ordered.putSame (b := { a with
    spent := a.spent + min fare (a.cap - a.spent)
    journeys := if a.journeys < 255 then a.journeys + 1 else a.journeys }) ha rfl rfl rfl
  refine ⟨sparsePut_wf _ _ _ h.accounts, h.buckets, h.hint, fun x hx => ?_, fun x hx => ?_, ordered⟩
  · rcases mem_sparsePut _ _ _ _ hx with rfl | hx
    · show a.spent + min fare (a.cap - a.spent) ≤ a.cap
      omega
    · exact h.spent x hx
  · rcases mem_sparsePut _ _ _ _ hx with rfl | hx
    · show (if a.journeys < 255 then a.journeys + 1 else a.journeys) ≤ 255
      split <;> omega
    · exact h.journeys x hx

/-- An opening keeps the table whole, and lists the account opened (R121). -/
theorem Whole.open {today n : Nat} {token : Token} {cap : Nat} {a : Account} (h : c.Whole today)
    (lookup : accountLookup c today token = none) (opened : openAccount c today token cap = some (n, a, d)) :
    d.Whole today ∧ sparseGet d.accounts n = some a := by
  unfold openAccount at opened
  split at opened
  · cases opened
  next m found =>
    obtain ⟨below, free⟩ := findFree_free h.hint found
    cases opened
    refine ⟨⟨sparsePut_wf _ _ _ h.accounts, sparsePut_wf _ _ _ h.buckets, ?_, fun x hx => ?_, fun x hx => ?_,
      h.ordered.open below free fun m a ha day => h.ordered.lookup_none lookup ha day⟩, sparseGet_put_self _ _ _⟩
    · show (if n + 1 < Config.accountCount then n + 1 else 0) < Config.accountCount
      split
      · assumption
      · exact (by decide : 0 < Config.accountCount)
    · rcases mem_sparsePut _ _ _ _ hx with rfl | hx
      · exact Nat.zero_le _
      · exact h.spent x hx
    · rcases mem_sparsePut _ _ _ _ hx with rfl | hx
      · exact Nat.zero_le _
      · exact h.journeys x hx

theorem whole_empty (today : Nat) : CapTable.empty.Whole today :=
  { State.stored_reset with ordered := ordered_empty today }

/-- A DAY_CHANGE leaves the table whole on its new day: cleared when that lies below the old one, else with no account current
(R128, R144). -/
theorem Whole.afterDayChange {old : Option Nat} {new : Nat} (h : c.Whole (old.getD 0)) (set : 1 ≤ new)
    (other : old ≠ some new) : (c.afterDayChange old new).Whole new := by
  cases old with
  | none => exact { h with ordered := h.ordered.later set }
  | some d =>
    unfold CapTable.afterDayChange
    dsimp only
    split
    · exact whole_empty new
    · have ne : d ≠ new := fun e => other (by rw [e])
      exact { h with ordered := h.ordered.later (show d < new by omega) }

end CapTable

/-! ### The invariant -/

namespace State.Stored

variable {s : State}

theorem whole (h : s.Stored) : s.cap.Whole s.today :=
  ⟨h.accounts, h.buckets, h.hint, h.spent, h.journeys, h.accountsOfDay⟩

/-- The Cap Table replaced by one whole on the day the clock then has. -/
theorem setCap (h : s.Stored) {t : State} (table : t.table = s.table) (whole : t.cap.Whole t.today) : t.Stored where
  slots := by rw [table]; exact h.slots
  heads := by rw [table]; exact h.heads
  marks := by rw [table]; exact h.marks
  accounts := whole.accounts
  buckets := whole.buckets
  hint := whole.hint
  spent := whole.spent
  journeys := whole.journeys
  numbers := by rw [table]; exact h.numbers
  kinds := by simp only [State.kindCount, table]; exact h.kinds
  sum := by rw [table]; exact h.sum
  freeOnce := by rw [table]; exact h.freeOnce
  freeSlots := by simp only [State.slot, table]; exact h.freeSlots
  accountsOfDay := whole.ordered

theorem charge (h : s.Stored) (token : Token) (day cap fare : Nat) : (s.charge token day cap fare).2.Stored := by
  unfold State.charge
  split
  · exact h
  · split
    next n a found => exact h.setCap rfl (h.whole.cut (CapTable.accountWalk_listed found) fare)
    next lookup =>
      split
      next n a d opened =>
        obtain ⟨whole, listed⟩ := h.whole.open lookup opened
        exact h.setCap rfl (whole.cut listed fare)
      next => exact h.congr rfl rfl rfl rfl rfl rfl rfl

/-- What leaves the two tables and the day leaves the stores whole. -/
theorem same (h : s.Stored) {t : State} (table : t.table = s.table) (cap : t.cap = s.cap) (day : t.clock.day = s.clock.day) :
    t.Stored :=
  h.setCap table (by rw [State.today, cap, day]; exact h.whole)

theorem openDay (h : s.Stored) {src day n : Nat} {t : DayType} (accepted : s.judgeDay day n = .inr t) :
    (s.openDay src day t).Stored := by
  obtain ⟨least, -, -, other⟩ := State.judgeDay_accepts accepted
  have whole := h.whole.afterDayChange least other
  refine h.setCap (by simp [State.openDay]) ?_
  rw [show (s.openDay src day t).cap = s.cap.afterDayChange s.clock.day day by simp [State.openDay],
    show (s.openDay src day t).today = day by simp [State.openDay, State.today]]
  exact whole

end State.Stored

/-- Each operation of the Journey Table and the Cap Table keeps the stores whole. -/
theorem journeyClosed_stored : JourneyClosed State.Stored where
  rewrite _ n c h := h.rewrite n c
  quarantine _ _ _ hc h := h.quarantine hc
  setBucketHead _ b next h := h.setBucketHead b next
  setOrder _ _ h := h.congr rfl rfl rfl rfl rfl rfl rfl
  allocate _ c h := h.allocate c
  releaseSlot _ n h := h.releaseSlot n
  charge _ t d k f h := h.charge t d k f
  mark _ n h := h.mark n
  setAuditCounts _ _ h := h.same rfl rfl rfl

/-- What follows a walk leaves the two tables and the clock. -/
theorem State.afterWalk_frame (s : State) : ∃ w, s.afterWalk = { s with sweep := w } := by
  unfold State.afterWalk
  split
  · exact ⟨_, rfl⟩
  · split_ifs <;> exact ⟨_, rfl⟩

/-- A walk that ends leaves the two tables and the clock but for the audit marks, which an audit clears (R68). -/
theorem State.Stored.endWalk {s : State} (h : s.Stored) (w : Walk) : (s.endWalk w).Stored := by
  have ends : ∀ {t : State}, t.Stored → t.afterWalk.Stored := fun {t} h => by
    obtain ⟨v, hv⟩ := t.afterWalk_frame
    rw [hv]
    exact h.same rfl rfl rfl
  unfold State.endWalk
  split
  · exact ends h
  · refine ends ?_
    split
    · exact h.same rfl rfl rfl
    · exact h
  · exact ends (h.same rfl rfl rfl)
  · exact ends { h with marks := .nil }

/-- Each update in sight keeps the stores whole. -/
theorem partClosed_stored : PartClosed State.Stored where
  toJourneyClosed := journeyClosed_stored
  outer h f := h.same (by rw [f]) (by rw [f]) (by rw [f])
  reset := State.stored_reset
  warmReset s h := State.stored_reset.setCap rfl (CapTable.whole_empty _)
  write s v _ h := h.same rfl rfl rfl
  start s src _ h := h.same rfl rfl rfl
  stop s h := h.same (by simp [State.stopped]) (by simp [State.stopped]) (by simp [State.stopped])
  openDay s src day n t accepted h := h.openDay accepted
  startAudit s src _ _ h := { h with marks := .nil }
  holdDay s d r _ _ h := h.same rfl rfl rfl
  endDay s d _ _ h := h.same rfl rfl rfl
  holdAudit s a r _ _ h := h.same rfl rfl rfl
  endAudit s a _ _ h := h.same rfl rfl rfl
  disturb s n h := h.disturb n
  elapse s h := h.same rfl rfl rfl
  countTime s h := by
    unfold State.countTime
    split
    · exact h
    · split_ifs
      · exact h.same rfl rfl rfl
      · exact h.same rfl rfl rfl
      · exact h
  takeBeacon s day time h := by
    unfold State.takeBeacon
    split
    · exact h
    · exact h.same rfl rfl rfl
    · exact h.same rfl rfl rfl
    · exact h.same rfl rfl rfl
  watchdog s _ h := h.same rfl rfl rfl
  sweepTimer s h := by
    unfold execSweepTimerExpiry
    split
    · dsimp only
      split
      · exact h.same rfl rfl rfl
      · split <;> exact h.same rfl rfl rfl
    · exact h
  advance s h := h.same rfl rfl rfl
  auditStep s a _ h := h.same rfl rfl rfl
  endWalk s w _ h := h.endWalk w

/-- Settles O9: each update of the two tables and of the day keeps the stores whole, and every step is made of such updates. -/
theorem storesStayCanonical : Obligations.StoresStayCanonical := by
  unfold Obligations.StoresStayCanonical
  exact fun s t stored run => partClosed_stored.step stored run

end Sys2Proof.Machine
end

section
/-! PROOFS. The fold of a token (R53), the free list (R55, R56, R60) and the rewriting of a record (R48, R54). -/

namespace Sys2Proof.Machine

/-! ### The bucket of a token (R53) -/

/-- A group of a token's bits, as a number. -/
theorem Token.group (token : Token) (i : Nat) :
    (token.extractLsb' (12 * i) 12).toNat = token.toNat / 4096 ^ i % 4096 := by
  rw [BitVec.extractLsb'_toNat, Nat.shiftRight_eq_div_pow, Nat.pow_mul]

/-- Settles O51: the five groups of the fold are the token's digits to base 4,096, of which the last is below 256. -/
theorem bucketFoldsTheToken : Obligations.BucketFoldsTheToken := by
  unfold Obligations.BucketFoldsTheToken
  intro token
  have last : token.toNat / 4096 ^ 4 % 4096 = token.toNat / 4096 ^ 4 :=
    Nat.mod_eq_of_lt (by have := token.isLt; omega)
  refine ⟨?_, BitVec.isLt _, rfl⟩
  simp only [bucketOf, BitVec.toNat_xor]
  rw [show (0 : Nat) = 12 * 0 from rfl, show (24 : Nat) = 12 * 2 from rfl, show (36 : Nat) = 12 * 3 from rfl,
    show (48 : Nat) = 12 * 4 from rfl, Token.group, Token.group token 2, Token.group token 3, Token.group token 4, last]
  rw [show (12 : Nat) = 12 * 1 from rfl, Token.group token 1, Nat.pow_zero, Nat.div_one, Nat.pow_one]

/-! ### The free list (R55, R56, R60) -/

variable {s : State}

/-- The slots after a store are one entry of the store further. -/
theorem State.slot_put_self (s : State) {t : State} {n : Nat} {x : Slot}
    (h : t.table.slots = sparsePut s.table.slots n x) : t.slot n = some x := by
  rw [State.slot, h, sparseGet_put_self]

theorem State.slot_put_other {t : State} {n m : Nat} {x : Slot} (h : t.table.slots = sparsePut s.table.slots n x)
    (hm : m ≠ n) : t.slot m = s.slot m := by
  rw [State.slot, h, sparseGet_put_other _ _ _ _ hm]
  rfl

/-- The kind of a slot that holds a record. -/
theorem State.kind_of_allocated {n : Nat} {c : Content} {k : Bool} (h : s.slot n = some (.allocated c k)) :
    s.kind n = c.kind := by
  unfold State.kind
  rw [h]
  rfl

theorem Content.kind_ne_free (c : Content) : c.kind ≠ .free := by
  cases c <;> exact fun h => by cases h

/-- What an allocation writes, and what it leaves (R55). -/
theorem State.allocate_fields {n : Nat} {f : FreeList} (h : s.table.free.take = some (n, f)) (c : Content) :
    ∃ t, s.allocate c = (some n, t) ∧ t.table.slots = sparsePut s.table.slots n (.allocated c true) ∧
      t.table.heads = s.table.heads ∧ t.table.free = f ∧ t.table.order = s.table.order ∧ t.cap = s.cap ∧
      t.table.counts = (s.table.counts.lower .free).lift c.kind := by
  simp only [State.allocate, h]
  obtain ⟨slots, heads, free, counts, order, -, cap, -⟩ := State.judgeShortage_keeps { s with table := { s.table with
    free := f
    slots := sparsePut s.table.slots n (.allocated c true)
    counts := s.table.counts.move .free c.kind } }
  exact ⟨_, rfl, slots, heads, free, order, cap, counts⟩

/-- An allocation that gives a slot has taken it from the head of the free list (R55). -/
theorem State.allocate_takes {c : Content} {n : Nat} {t : State} (h : s.allocate c = (some n, t)) :
    ∃ f, s.table.free.take = some (n, f) := by
  unfold State.allocate at h
  split at h
  · cases h
  next m f take =>
    cases h
    exact ⟨f, take⟩

/-- A new record is linked at the head of its bucket, the old head after it (R54). -/
theorem State.allocateLinked_some {token : Token} {c : Content} {n : Nat} {t : State}
    (h : s.allocateLinked token c = (some n, t)) :
    ∃ f u, s.table.free.take = some (n, f) ∧ s.allocate (c.withNext (s.bucketHead (bucketOf token))) = (some n, u) ∧
      t = u.setBucketHead (bucketOf token) (some n) := by
  unfold State.allocateLinked at h
  dsimp only at h
  split at h
  · cases h
  next m u allocated =>
    cases h
    obtain ⟨f, take⟩ := State.allocate_takes allocated
    exact ⟨f, u, take, allocated, rfl⟩

/-- The shortage mark, the Sweep Unit and the notices after a release, by whether it clears shortage (R60, R142). -/
theorem State.judgeCleared_clears
    (h : s.table.shortage = true ∧ s.settings.journey.shortageLevel + 128 ≤ s.table.counts.free) :
    s.judgeCleared.table.shortage = false ∧ s.judgeCleared.sweep.forcedAge = none ∧
      s.judgeCleared.notices = raiseIn s.notices (.shortageCleared s.table.counts.free) s.clock.time := by
  unfold State.judgeCleared
  rw [if_pos h]
  exact ⟨rfl, rfl, rfl⟩

theorem State.judgeCleared_keeps_shortage
    (h : ¬(s.table.shortage = true ∧ s.settings.journey.shortageLevel + 128 ≤ s.table.counts.free)) :
    s.judgeCleared = s := by
  unfold State.judgeCleared
  rw [if_neg h]

/-- The slots after a release: the one released is FREE, the others stay (R48). -/
theorem State.releaseSlot_slot (stored : s.Stored) (n : Nat) :
    (s.releaseSlot n).slot n = none ∧ ∀ m, m ≠ n → (s.releaseSlot n).slot m = s.slot m := by
  refine ⟨?_, fun m hm => ?_⟩
  · rw [State.slot, State.releaseSlot_slots, sparseGet_erase_self _ _ stored.slots]
  · rw [State.slot, State.releaseSlot_slots, sparseGet_erase_other _ _ _ stored.slots hm]
    rfl

/-- A slot released heads the free list (R55). -/
theorem State.releaseSlot_toList {n : Nat} {x : Slot} (below : n < 12288) (held : s.slot n = some x) :
    (s.releaseSlot n).table.free.toList = n :: s.table.free.toList := by
  have kind : s.kind n ≠ .free := fun e => by
    rw [s.kind_eq_free, held] at e
    cases e
  rw [State.releaseSlot_free, if_neg kind, FreeList.give_toList _ _ below]

/-- Settles O50: what is taken from the free list stands at its head, and what is released is put there. -/
theorem freeListIsLastInFirstOut : Obligations.FreeListIsLastInFirstOut := by
  unfold Obligations.FreeListIsLastInFirstOut
  refine ⟨fun c => ⟨rfl, rfl, rfl, rfl, rfl, rfl, rfl, rfl⟩, fun c o e next => ⟨rfl, rfl, rfl, rfl, rfl, rfl, rfl, rfl⟩, ?_,
    ?_, fun f g n => FreeList.take_toList, fun f => FreeList.toList_of_take_none, fun s c none_ => State.allocate_none none_ c,
    ?_, ?_⟩
  · intro s n c d k _ held kind
    have eq := State.rewrite_eq ((State.kind_of_allocated held).trans kind.symm)
    have slots := congrArg (fun t : State => t.table.slots) eq
    exact ⟨s.slot_put_self slots, fun m => State.slot_put_other slots, by rw [eq]⟩
  · intro s token c n t stored linked
    obtain ⟨f, u, take, allocated, rfl⟩ := State.allocateLinked_some linked
    obtain ⟨v, given, slots, heads, -⟩ := State.allocate_fields take (c.withNext (s.bucketHead (bucketOf token)))
    obtain rfl : u = v := by rw [allocated] at given; cases given; rfl
    have wf : sparseWf u.table.heads = true := by rw [heads]; exact stored.heads
    refine ⟨s.slot_put_self slots, fun m => State.slot_put_other slots, State.bucketHead_setBucketHead u _ _ wf,
      fun b hb => ?_⟩
    rw [State.bucketHead_setBucketHead_other wf hb, State.bucketHead, heads]
    rfl
  · intro s c n f take
    obtain ⟨t, allocated, slots, heads, free, order, cap, counts⟩ := State.allocate_fields take c
    exact ⟨t, allocated, s.slot_put_self slots, fun m => State.slot_put_other slots, free, heads, order, cap, counts⟩
  · intro s n c k stored below held
    have kind := State.kind_of_allocated held
    have notFree : s.kind n ≠ .free := kind ▸ c.kind_ne_free
    obtain ⟨gone, others⟩ := State.releaseSlot_slot stored n
    have list := State.releaseSlot_toList below held
    have count : (s.table.counts.move (s.kind n) .free).free = s.table.counts.free + 1 := by
      rw [kind]
      cases c <;> rfl
    refine ⟨gone, others, list, fun g m take => ?_, ?_, fun clears => ?_, fun stays => ?_⟩
    · have head := FreeList.take_toList take
      rw [list] at head
      exact (List.cons.inj head).1.symm
    · rw [State.releaseSlot_counts, if_neg notFree, kind]
      rfl
    · rw [← count] at clears ⊢
      unfold State.releaseSlot
      rw [if_neg notFree]
      exact State.judgeCleared_clears clears
    · rw [← count] at stays
      unfold State.releaseSlot
      rw [if_neg notFree, State.judgeCleared_keeps_shortage stays]
      exact ⟨rfl, rfl, rfl⟩

end Sys2Proof.Machine
end

section
/-! PROOFS. The Service Clock's ticks (R130, R131, R133), and the start of the pool audit (R68). -/

namespace Sys2Proof.Machine

variable {s : State}

/-! ### The clock (R130, R131) -/

/-- A clock that is unset, or holds at the end of its day, does not count. -/
theorem State.countTime_holds (h : s.clock.day = none ∨ 863999 ≤ s.clock.time) : s.countTime = s := by
  unfold State.countTime
  split
  · rfl
  next d day =>
    rcases h with h | h
    · rw [day] at h
      cases h
    · rw [if_neg (by simp only [Config.lastDecisecond]; omega), if_neg (by simp only [Config.lastDecisecond]; omega)]

/-- A clock that is set counts forward. -/
theorem State.countTime_counts (set : s.clock.day ≠ none) (below : s.clock.time + 1 < 863999) :
    s.countTime = { s with clock := { s.clock with time := s.clock.time + 1 } } := by
  unfold State.countTime
  split
  next unset => exact absurd unset set
  next => exact if_pos below

/-- The last decisecond of the day is held, with doubt and its notice (R131). -/
theorem State.countTime_last (set : s.clock.day ≠ none) (last : s.clock.time + 1 = 863999) :
    s.countTime = { s with clock := { s.clock with time := 863999, doubt := true } }.raise
      (.clockDoubt .endOfDay 863999) := by
  unfold State.countTime
  split
  next unset => exact absurd unset set
  next =>
    rw [if_neg (by rw [last]; exact Nat.lt_irrefl _), if_pos last]

theorem exec_clockHold_not_due (h : ¬(s.clock.day ≠ none ∧ s.clock.time + 1 = 863999)) :
    exec .clockHold s = .next s :=
  if_neg h

theorem exec_clockHold_due (h : s.clock.day ≠ none ∧ s.clock.time + 1 = 863999) :
    exec .clockHold s = .next s.elapse.countTime :=
  if_pos h

/-- The disturbance of a slot touches that slot alone (R48). -/
theorem State.disturb_allocated {n : Nat} {c : Content} {k : Bool} (h : s.slot n = some (.allocated c k)) :
    s.disturb n = { s with table := { s.table with slots := sparsePut s.table.slots n (.allocated c false) } } := by
  unfold State.disturb
  rw [h]

/-- Counting leaves the Journey Table. -/
theorem State.countTime_table (s : State) : s.countTime.table = s.table := by
  unfold State.countTime
  split
  · rfl
  · split_ifs <;> rfl

/-- Settles O52: a clock that holds, one that counts and one that comes to the end of its day. -/
theorem clockCountsAndHolds : Obligations.ClockCountsAndHolds := by
  unfold Obligations.ClockCountsAndHolds
  intro s
  have tick : exec (.serviceTimeTick []) s = .next s.elapse.countTime := rfl
  refine ⟨fun holds => ?_, fun set below => ?_, fun set last => ?_, fun due => if_pos due, fun notDue => if_neg notDue,
    fun n c k held => ?_⟩
  · rw [tick, State.countTime_holds (s := s.elapse) holds]
    exact ⟨rfl, exec_clockHold_not_due fun ⟨set, last⟩ => holds.elim set fun _ => by omega⟩
  · rw [tick, State.countTime_counts (s := s.elapse) set below]
    exact ⟨rfl, exec_clockHold_not_due fun ⟨_, last⟩ => by omega⟩
  · rw [tick, exec_clockHold_due ⟨set, last⟩, State.countTime_last (s := s.elapse) set last]
    exact ⟨rfl, rfl⟩
  · have slots : ((s.disturb n).elapse.countTime).table.slots = sparsePut s.table.slots n (.allocated c false) := by
      rw [State.countTime_table, State.disturb_allocated held]
      rfl
    exact ⟨_, rfl, s.slot_put_self slots, fun m => State.slot_put_other slots⟩

/-! ### POOL_AUDIT (R68) -/

theorem exec_poolAudit {src : Nat} (h : s.hand = none) : exec (.poolAudit src) s = .next (s.poolAudit src) :=
  congrArg _ (State.whenFree_of_none h _)

/-- Settles O28: the mode is judged, then what is in progress. -/
theorem poolAuditStarts : Obligations.PoolAuditStarts := by
  unfold Obligations.PoolAuditStarts
  intro src s free
  rw [exec_poolAudit free]
  unfold State.poolAudit
  have notService : s.mode = .maintenance → s.mode ≠ .service := fun m => by rw [m]; decide
  refine ⟨fun service => ?_, fun maintenance busy => ?_, fun maintenance noDay noAudit => ?_⟩
  · rw [if_pos service]
  · have walkBusy : s.walkBusy = true := by
      simpa only [State.walkBusy, Bool.or_eq_true, Option.isSome_iff_ne_none] using busy
    rw [if_neg (notService maintenance), if_pos walkBusy]
  · have idle : s.walkBusy ≠ true := by simp [State.walkBusy, noDay, noAudit]
    rw [if_neg (notService maintenance), if_neg idle]
    rfl

end Sys2Proof.Machine
end

section
/-! PROOFS. What a settlement keeps: the operations of the Journey Table that allocate no slot and mark none, said once for
whatever their basic updates keep; and the flags of the record settled. -/

namespace Sys2Proof.Machine

/-! ### A link rewritten -/

/-- A state whose links alone are rewritten, in slot `p`: no other slot moves, and none that holds no record. -/
def State.LinkRewritten (s : State) (p : Nat) (t : State) : Prop := ∃ slots,
  t = { s with table := { s.table with slots := slots } } ∧ (∀ m, m ≠ p → sparseGet slots m = s.slot m) ∧
    ∀ m, (∀ c k, s.slot m ≠ some (.allocated c k)) → sparseGet slots m = s.slot m

theorem State.linkRewritten_put (s : State) {p : Nat} {c : Content} {k : Bool} (held : s.slot p = some (.allocated c k)) (x : Slot) :
    s.LinkRewritten p { s with table := { s.table with slots := sparsePut s.table.slots p x } } := by
  refine ⟨_, rfl, fun m hm => sparseGet_put_other _ _ _ _ hm, fun m empty => sparseGet_put_other _ _ _ _ ?_⟩
  rintro rfl
  exact empty c k held

theorem State.setNext_rewrites (s : State) (p : Nat) (next : Option Nat) : s.LinkRewritten p (s.setNext p next) := by
  by_cases held : ∃ c k, s.slot p = some (.allocated c k)
  · obtain ⟨c, k, held⟩ := held
    rw [State.setNext_eq held next]
    exact s.linkRewritten_put held _
  · refine ⟨s.table.slots, ?_, fun _ _ => rfl, fun _ _ => rfl⟩
    unfold State.setNext
    split
    next c k h => exact absurd ⟨c, k, h⟩ held
    next => rfl

theorem State.setNextOrder_rewrites (s : State) (p : Nat) (next : Option Nat) : s.LinkRewritten p (s.setNextOrder p next) := by
  by_cases held : ∃ o k, s.slot p = some (.allocated (.orphan o) k)
  · obtain ⟨o, k, held⟩ := held
    rw [State.setNextOrder_eq held next]
    exact s.linkRewritten_put held _
  · refine ⟨s.table.slots, ?_, fun _ _ => rfl, fun _ _ => rfl⟩
    unfold State.setNextOrder
    split
    next o k h => exact absurd ⟨o, k, h⟩ held
    next => rfl

/-! ### What keeps through a settlement -/

/-- A property of the state that an unlinking and a removal from the orphan order keep: their reads, and the links they rewrite
(R54, R57, R65). -/
structure LinkClosed (P : State → Prop) : Prop where
  setNext : ∀ s n next, P s → P (s.setNext n next)
  setNextOrder : ∀ s n next, P s → P (s.setNextOrder n next)
  quarantine : ∀ s n c, s.slot n = some (.allocated c false) → P s → P (s.quarantine n)
  setBucketHead : ∀ s b h, P s → P (s.setBucketHead b h)
  setOrder : ∀ s o, P s → P (s.setOrder o)

/-- A property of the state that the basic updates of a settlement keep: none of them allocates a slot (R55, R67). -/
structure SettleClosed (P : State → Prop) : Prop extends LinkClosed P where
  releaseSlot : ∀ s n, P s → P (s.releaseSlot n)
  charge : ∀ s t d k f, P s → P (s.charge t d k f).2

namespace LinkClosed

variable {P : State → Prop} (H : LinkClosed P) {s : State}

include H

theorem readSlot (n : Nat) (h : P s) : P (s.readSlot n).2 := by
  unfold State.readSlot
  split
  · exact h
  next failed => exact H.quarantine _ _ _ failed h
  · exact h
  · exact h

theorem setChainLink (b : Nat) (prev next : Option Nat) (h : P s) : P (s.setChainLink b prev next) := by
  cases prev with
  | none => exact H.setBucketHead _ _ _ h
  | some p => exact H.setNext _ _ _ h

theorem chainUnlink (b target : Nat) (fuel : Nat) :
    ∀ (prev link : Option Nat) (s : State), P s → P (chainUnlink b target fuel prev link s) := by
  induction fuel with
  | zero => exact fun _ _ _ h => h
  | succ fuel ih =>
    intro prev link s h
    cases link with
    | none => exact h
    | some n =>
      have read := H.readSlot n h
      unfold Machine.chainUnlink
      split
      · exact H.setChainLink _ _ _ h
      · split
        next t e => rw [e] at read; exact H.setChainLink _ _ _ read
        next c t e =>
          rw [e] at read
          split
          · exact H.setChainLink _ _ _ read
          · exact ih _ _ _ read

theorem unlink (target : Nat) (token : Token) (before : Predecessor) (h : P s) : P (s.unlink target token before) := by
  cases before with
  | known prev => exact H.setChainLink _ _ _ h
  | sought => exact H.chainUnlink _ _ _ _ _ _ h

theorem cutOrder (prev : Option Nat) (count : Nat) (h : P s) : P (s.cutOrder prev count) := by
  cases prev with
  | none => exact H.setOrder _ _ h
  | some p => exact H.setOrder _ _ (H.setNextOrder _ _ _ h)

theorem orderWalk (target : Option Nat) (fuel : Nat) :
    ∀ (prev : Option Nat) (count : Nat) (link : Option Nat) (s : State), P s →
      P (orderWalk target fuel prev count link s).2.2 := by
  induction fuel with
  | zero => exact fun _ _ _ _ h => h
  | succ fuel ih =>
    intro prev count link s h
    cases link with
    | none => exact h
    | some n =>
      have read := H.readSlot n h
      unfold Machine.orderWalk
      split
      · exact h
      · split
        next o t e =>
          rw [e] at read
          split
          · exact read
          · exact ih _ _ _ _ read
        next c t _ e =>
          rw [e] at read
          exact H.cutOrder _ _ read

theorem removeFromOrder (n : Nat) (h : P s) : P (s.removeFromOrder n) := by
  have walked : P (s.walkOrder (some n)).2.2 := H.orderWalk _ _ _ _ _ _ h
  unfold State.removeFromOrder
  split
  next e => rw [e] at walked; exact walked
  next prev t e =>
    rw [e] at walked
    cases prev with
    | none => exact H.setOrder _ _ walked
    | some p => exact H.setOrder _ _ (H.setNextOrder _ _ _ walked)

theorem linkAtTail (n : Nat) (tail : Option Nat) (h : P s) : P (s.linkAtTail n tail) := by
  cases tail with
  | none => exact H.setOrder _ _ h
  | some t => exact H.setOrder _ _ (H.setNextOrder _ _ _ h)

theorem appendToOrder (n : Nat) (h : P s) : P (s.appendToOrder n) := by
  unfold State.appendToOrder
  split
  · exact H.linkAtTail _ _ h
  next t _ =>
    have read := H.readSlot t h
    split
    next e => rw [e] at read; exact H.linkAtTail _ _ read
    next e => rw [e] at read; exact H.linkAtTail _ _ (H.orderWalk _ _ _ _ _ _ read)

theorem readExtensions (ns : List Nat) : ∀ {s : State}, P s → P (readExtensions ns s).2 := by
  induction ns with
  | nil => exact fun h => h
  | cons n rest ih =>
    intro s h
    refine ih (s := (s.readExtension n).2) ?_
    have read := H.readSlot n h
    unfold State.readExtension
    split
    next e => rw [e] at read; exact read
    next e => rw [e] at read; exact read

end LinkClosed

namespace SettleClosed

variable {P : State → Prop} (H : SettleClosed P) {s : State}

include H

theorem foldl_releaseSlot (ns : List Nat) : ∀ {s : State}, P s → P (ns.foldl State.releaseSlot s) := by
  induction ns with
  | nil => exact fun h => h
  | cons n rest ih => exact fun h => ih (H.releaseSlot _ n h)

theorem chargeRecord (x : Reckoned) (h : P s) : P (s.chargeRecord x).2 := by
  unfold State.chargeRecord
  split
  · exact h
  next cap _ =>
    have charged := H.charge s x.record.token x.record.day cap x.record.classFare h
    split
    next e => rw [e] at charged; exact charged
    next e => rw [e] at charged; exact charged
    next e => rw [e] at charged; exact charged

theorem settleCore (n : Nat) (c : Core) (how : Closing) (extra : Flags) (before : Predecessor) (h : P s) :
    P (s.settleCore n c how extra before).2 :=
  H.chargeRecord _ (H.foldl_releaseSlot _ (H.releaseSlot _ _ (H.unlink _ _ _ (H.readExtensions _ h))))

theorem settleOrphan (n : Nat) (o : Orphan) (extra : Flags) (before : Predecessor) (h : P s) :
    P (s.settleOrphan n o extra before).2 :=
  H.releaseSlot _ _ (H.removeFromOrder _ (H.unlink _ _ _ h))

end SettleClosed

/-! ### What no settlement touches -/

theorem State.charge_frame (s : State) (token : Token) (day cap fare : Nat) :
    ∃ c k, (s.charge token day cap fare).2 = { s with cap := c, counters := k } := by
  unfold State.charge
  split
  · exact ⟨_, _, rfl⟩
  · split
    · exact ⟨_, _, rfl⟩
    · split <;> exact ⟨_, _, rfl⟩

/-- A release moves the walk in flight and the forced age of the Sweep Unit alone (R142). -/
theorem State.releaseSlot_sweep (s : State) (n : Nat) : (s.releaseSlot n).sweep =
    { s.sweep with walk := (s.releaseSlot n).sweep.walk, forcedAge := (s.releaseSlot n).sweep.forcedAge } := by
  unfold State.releaseSlot State.judgeCleared
  split
  · rfl
  · split <;> rfl

/-- A settlement moves no audit mark, and of the Sweep Unit the walk in flight and the forced age alone (R68, R142). -/
theorem settleClosed_sweep (marks : List Nat) (unit : SweepUnit) : SettleClosed fun s => s.table.marks = marks ∧
    s.sweep = { unit with walk := s.sweep.walk, forcedAge := s.sweep.forcedAge } where
  setNext s n next h := by
    obtain ⟨slots, e, -⟩ := s.setNext_rewrites n next
    rw [e]
    exact h
  setNextOrder s n next h := by
    obtain ⟨slots, e, -⟩ := s.setNextOrder_rewrites n next
    rw [e]
    exact h
  quarantine _ _ _ _ h := h
  setBucketHead _ _ _ h := h
  setOrder _ _ h := h
  releaseSlot s n h := by
    obtain ⟨marked, swept⟩ := h
    refine ⟨(s.releaseSlot_marks n).trans marked, ?_⟩
    rw [s.releaseSlot_sweep n, swept]
  charge s t d k f h := by
    obtain ⟨c, k, e⟩ := s.charge_frame t d k f
    rw [e]
    exact h

theorem State.settleCore_sweep (s : State) (n : Nat) (c : Core) (how : Closing) (f : Flags) (p : Predecessor) :
    (s.settleCore n c how f p).2.table.marks = s.table.marks ∧
      (s.settleCore n c how f p).2.sweep.auditCounts = s.sweep.auditCounts ∧
      (s.settleCore n c how f p).2.sweep.dayCounts = s.sweep.dayCounts ∧
      (s.settleCore n c how f p).2.sweep.waiting = s.sweep.waiting ∧
      (s.settleCore n c how f p).2.sweep.kept = s.sweep.kept := by
  obtain ⟨marks, sweep⟩ := (settleClosed_sweep s.table.marks s.sweep).settleCore n c how f p ⟨rfl, rfl⟩
  rw [sweep]
  exact ⟨marks, rfl, rfl, rfl, rfl⟩

theorem State.settleOrphan_sweep (s : State) (n : Nat) (o : Orphan) (f : Flags) (p : Predecessor) :
    (s.settleOrphan n o f p).2.table.marks = s.table.marks ∧
      (s.settleOrphan n o f p).2.sweep.auditCounts = s.sweep.auditCounts ∧
      (s.settleOrphan n o f p).2.sweep.dayCounts = s.sweep.dayCounts ∧
      (s.settleOrphan n o f p).2.sweep.waiting = s.sweep.waiting ∧
      (s.settleOrphan n o f p).2.sweep.kept = s.sweep.kept := by
  obtain ⟨marks, sweep⟩ := (settleClosed_sweep s.table.marks s.sweep).settleOrphan n o f p ⟨rfl, rfl⟩
  rw [sweep]
  exact ⟨marks, rfl, rfl, rfl, rfl⟩

/-! ### The flags of the record settled (R22, R99) -/

/-- A flag set that agrees with another but for CAP_UNTRACKED. -/
def Flags.SameButCap (f g : Flags) : Prop := f = { g with capUntracked := f.capUntracked }

theorem State.testCap_flags (s : State) (cap : Nat) (r : JourneyRecord) :
    (s.testCap cap r).record.flags.SameButCap r.flags := by
  unfold State.testCap
  split_ifs
  · rfl
  · simp [JourneyRecord.uncapped, Flags.SameButCap, Flags.union]
  · rfl

theorem State.chargeRecord_flags (s : State) (x : Reckoned) :
    (s.chargeRecord x).1.record.flags.SameButCap x.record.flags := by
  unfold State.chargeRecord
  split
  · rfl
  · split
    · rfl
    · simp [JourneyRecord.uncapped, Flags.SameButCap, Flags.union]
    · simp [JourneyRecord.uncapped, Flags.SameButCap, Flags.union]

theorem Flags.SameButCap.trans {f g h : Flags} (a : f.SameButCap g) (b : g.SameButCap h) : f.SameButCap h := by
  unfold Flags.SameButCap at *
  rw [a, b]

/-- The flags of the record reckoned: those of the request, CLOCK_DOUBT as it stands, CLASS_SUBSTITUTED as the lookup gives, and
CAP_UNTRACKED as the test gives (R3, R15, R22). -/
theorem State.reckon_flags (s : State) (q : SettlementRequest) : (s.reckon q).record.flags.SameButCap
    ((q.flags.union s.doubtFlag).union (classLookup s.tariff.liveBank q.cls).flags) := by
  unfold State.reckon
  dsimp only
  split
  · exact s.testCap_flags _ _
  · split_ifs
    · rfl
    · exact s.testCap_flags _ _
  · rfl
  · rfl

theorem State.settle_flags (s : State) (q : SettlementRequest) : (s.settle q).1.record.flags.SameButCap
    ((q.flags.union s.doubtFlag).union (classLookup s.tariff.liveBank q.cls).flags) :=
  (s.chargeRecord_flags _).trans (s.reckon_flags q)

/-- A flag that a journey's settlement adds stands in its record (R99). -/
theorem State.settleCore_forced (s : State) (n : Nat) (c : Core) (how : Closing) (p : Predecessor) :
    (s.settleCore n c how { forced := true } p).1.record.flags.forced = true := by
  have flags := State.settle_flags (s.closeJourney n c how { forced := true } p).2
    (s.closeJourney n c how { forced := true } p).1
  rw [State.settleCore, flags]
  simp only [State.closeJourney, Core.request, Flags.union]
  split <;> simp

/-- A flag that an orphan's settlement adds stands in its record (R99). -/
theorem State.settleOrphan_flags (s : State) (n : Nat) (o : Orphan) (extra : Flags) (p : Predecessor) :
    (s.settleOrphan n o extra p).1.kind = .unmatchedExit ∧ (s.settleOrphan n o extra p).1.token = o.token ∧
      (s.settleOrphan n o extra p).1.flags.forced = (o.flags.forced || extra.forced) ∧
      (s.settleOrphan n o extra p).1.flags.recovered = (o.flags.recovered || extra.recovered) := by
  simp [State.settleOrphan, State.reckon, Orphan.request, SettlementRequest.record, Flags.union, State.doubtFlag,
    ClassFound.flags]

/-- A journey settled INCOMPLETE is an INCOMPLETE record with the flags that the settlement adds (R87, R99). -/
theorem State.settleCore_incomplete (s : State) (n : Nat) (c : Core) (extra : Flags) (p : Predecessor) :
    (s.settleCore n c .incomplete extra p).1.record.kind = .incomplete ∧
      (extra.recovered = true → (s.settleCore n c .incomplete extra p).1.record.flags.recovered = true) := by
  have case : (s.closeJourney n c .incomplete extra p).1.case =
      .incomplete (passedLegs (readExtensions c.extensions s).1 ++ [c.openLeg]) := c.request_incomplete (.inr rfl) _
  refine ⟨?_, fun recovered => ?_⟩
  · rw [State.settleCore, State.settle_incomplete _ case]
    rfl
  · rw [State.settleCore, State.settle_incomplete _ case]
    simp only [SettlementRequest.record, State.closeJourney, Core.request, Flags.union, recovered]
    split <;> simp

end Sys2Proof.Machine
end

section
/-! PROOFS. The examinations of the age pass, the forced pass and the day-change walk (R138, R141, R145): what each finds in its
slot, how it judges it, and where the walk goes on. -/

namespace Sys2Proof.Machine

variable {s t : State}

/-! ### The walk goes on (R138, R139) -/

/-- The state with another walk in flight. -/
def State.withWalk (s : State) (w : Walk) : State := { s with sweep := { s.sweep with walk := some w } }

/-- An examination ends with the walk at the next slot and its records appended or waiting. -/
theorem State.finishExamination_eq {w : Walk} (walk : t.sweep.walk = some w) (rs : List JourneyRecord) :
    t.finishExamination rs = ((t.withWalk w.advance).walkRecords rs).endIfFinished := by
  unfold State.finishExamination
  rw [walk]
  rfl

/-- An examination without a record ends with the walk at the next slot. -/
theorem State.finishExamination_nil {w : Walk} (walk : t.sweep.walk = some w) (waiting : t.sweep.waiting = []) :
    t.finishExamination [] = (t.withWalk w.advance).endIfFinished := by
  rw [State.finishExamination_eq walk, State.walkRecords_nil (t.withWalk w.advance) waiting]

theorem State.mayExamine_of (free : s.tableFree = true) (waiting : s.sweep.waiting = []) : s.mayExamine = true := by
  simp [State.mayExamine, free, waiting]

/-! ### What is found in the slot (R65) -/

/-- A slot that a walk passes over: it holds no core and no orphan (R138). -/
def State.PassedOver (s : State) (n : Nat) : Prop :=
  s.slot n = none ∨ s.slot n = some .quarantined ∨ ∃ e, s.slot n = some (.allocated (.extension e) true)

theorem State.readSlot_free {n : Nat} (h : s.slot n = none) : s.readSlot n = (none, s) := by
  unfold State.readSlot
  rw [h]

theorem State.PassedOver.examineByAge {n : Nat} (h : s.PassedOver n) (f : Option Nat) : s.examineByAge n f = ([], s) := by
  unfold State.examineByAge
  rcases h with h | h | ⟨e, h⟩
  · rw [State.readSlot_free h]
  · rw [State.readSlot_quarantined h]
  · rw [State.readSlot_of_intact h]
    rfl

theorem State.PassedOver.examineByDay {n : Nat} (h : s.PassedOver n) : s.examineByDay n = ([], s) := by
  unfold State.examineByDay
  rcases h with h | h | ⟨e, h⟩
  · rw [State.readSlot_free h]
  · rw [State.readSlot_quarantined h]
  · rw [State.readSlot_of_intact h]
    rfl

theorem State.examineByAge_failed {n : Nat} {c : Content} (h : s.slot n = some (.allocated c false)) (f : Option Nat) :
    s.examineByAge n f = ([], s.quarantine n) := by
  unfold State.examineByAge
  rw [State.readSlot_failed h]

theorem State.examineByDay_failed {n : Nat} {c : Content} (h : s.slot n = some (.allocated c false)) :
    s.examineByDay n = ([], s.quarantine n) := by
  unfold State.examineByDay
  rw [State.readSlot_failed h]

theorem State.examineByAge_kept {n : Nat} {c : Content} {f : Option Nat} (h : s.slot n = some (.allocated c true))
    (judged : s.judgeRecord f c = .keep) : s.examineByAge n f = ([], s) := by
  unfold State.examineByAge
  rw [State.readSlot_of_intact h]
  dsimp only
  rw [judged]

theorem State.examineByAge_settled {n : Nat} {c : Content} {f : Option Nat} {forced : Bool}
    (h : s.slot n = some (.allocated c true)) (judged : s.judgeRecord f c = .settle forced) :
    s.examineByAge n f = s.walkSettle n { forced := forced } c := by
  unfold State.examineByAge
  rw [State.readSlot_of_intact h]
  dsimp only
  rw [judged]

/-! ### The judgement (R138, R141, R145) -/

/-- The judgement of a record of a day, begun at a time, against a window and a forced age. -/
def State.judgeSince (s : State) (day since window : Nat) (forcedAge : Option Nat) : Judgement :=
  if day ≠ s.today then .settle false else judgeAge (s.ageSince since) window forcedAge

section
variable {day since window : Nat} {f : Option Nat}

theorem State.judgeSince_keep (today : day = s.today) (young : s.ageSince since ≤ window)
    (notForced : ∀ a, f = some a → s.ageSince since ≤ a) : s.judgeSince day since window f = .keep := by
  unfold State.judgeSince judgeAge
  rw [if_neg (not_not.2 today), if_neg (Nat.not_lt.2 young)]
  cases f with
  | none => rfl
  | some a => exact if_neg (Nat.not_lt.2 (notForced a rfl))

theorem State.judgeSince_forced (today : day = s.today) (young : s.ageSince since ≤ window) {a : Nat}
    (older : a < s.ageSince since) : s.judgeSince day since window (some a) = .settle true := by
  unfold State.judgeSince judgeAge
  rw [if_neg (not_not.2 today), if_neg (Nat.not_lt.2 young)]
  exact if_pos older

theorem State.judgeSince_settle (h : day ≠ s.today ∨ window < s.ageSince since) (f : Option Nat) :
    s.judgeSince day since window f = .settle false := by
  unfold State.judgeSince judgeAge
  split
  · rfl
  next today => exact if_pos (h.resolve_left today)

end

section
variable (s : State) (f : Option Nat)

theorem State.judgeRecord_opened {c : Core} (h : c.state = .opened) :
    s.judgeRecord f (.core c) = s.judgeSince c.day c.entryTime (s.settings.journey.maxDuration * 600) f := by
  simp only [State.judgeRecord, h]
  rfl

theorem State.judgeRecord_broken {c : Core} {out : Nat} (h : c.state = .broken out) :
    s.judgeRecord f (.core c) = s.judgeSince c.day out (s.settings.journey.breakWindow * 600) f := by
  simp only [State.judgeRecord, h]
  rfl

theorem State.judgeRecord_orphan (o : Orphan) :
    s.judgeRecord f (.orphan o) = s.judgeSince o.day o.arrival (s.settings.journey.orphanHold * 600) f := rfl

theorem State.walkSettle_opened {c : Core} (h : c.state = .opened) (n : Nat) (extra : Flags) :
    s.walkSettle n extra (.core c) =
      ([(s.settleCore n c .incomplete extra).1.record], (s.settleCore n c .incomplete extra).2) := by
  simp only [State.walkSettle, Core.dayClosing, h]

theorem State.walkSettle_broken {c : Core} {out : Nat} (h : c.state = .broken out) (n : Nat) (extra : Flags) :
    s.walkSettle n extra (.core c) =
      ([(s.settleCore n c .completedLegs extra).1.record], (s.settleCore n c .completedLegs extra).2) := by
  simp only [State.walkSettle, Core.dayClosing, h]

end

/-! ### The age pass (R138) -/

section
variable {n : Nat} (below : n < 12288) (free : s.tableFree = true) (walk : s.sweep.walk = some (.age n))
  (waiting : s.sweep.waiting = [])
include below free walk waiting

theorem exec_agePassExamination : exec .agePassExamination s =
    .next ((s.examineByAge n none).2.finishExamination (s.examineByAge n none).1) := by
  simp only [exec, execAgePassExamination, walk]
  exact if_pos ⟨below, State.mayExamine_of free waiting⟩

theorem agePass_kept (h : s.examineByAge n none = ([], s)) :
    exec .agePassExamination s = .next (s.withWalk (.age (n + 1))).endIfFinished := by
  rw [exec_agePassExamination below free walk waiting, h, State.finishExamination_nil walk waiting]
  rfl

/-- A record kept or settled by an age pass, by its age against its window. -/
theorem agePass_judged {c : Content} {day since window : Nat} (held : s.slot n = some (.allocated c true))
    (judged : ∀ f, s.judgeRecord f c = s.judgeSince day since window f) :
    (day = s.today → s.ageSince since ≤ window →
      exec .agePassExamination s = .next (s.withWalk (.age (n + 1))).endIfFinished) ∧
    (day ≠ s.today ∨ window < s.ageSince since → exec .agePassExamination s =
      .next (((s.walkSettle n {} c).2.withWalk (.age (n + 1))).walkRecords (s.walkSettle n {} c).1).endIfFinished) := by
  refine ⟨fun today young => ?_, fun old => ?_⟩
  · exact agePass_kept below free walk waiting (State.examineByAge_kept held
      ((judged none).trans (State.judgeSince_keep today young fun _ h => by cases h)))
  · have walks : (s.walkSettle n {} c).2.sweep.walk = some (.age n) :=
      ((walking_closed (.age n)).walkSettle n {} c (.inl walk)).elim id id
    rw [exec_agePassExamination below free walk waiting,
      State.examineByAge_settled held ((judged none).trans (State.judgeSince_settle old none)),
      State.finishExamination_eq walks]
    rfl

end

/-- Settles O46: what the pass finds in its slot, and each record by its age against its window. -/
theorem agePassJudgesByAge : Obligations.AgePassJudgesByAge := by
  unfold Obligations.AgePassJudgesByAge
  intro n s below free walk waiting
  refine ⟨fun passed => agePass_kept below free walk waiting (State.PassedOver.examineByAge passed none), fun c failed => ?_,
    fun c held => ⟨fun opened => ?_, fun out broken => ?_⟩, fun o held => ?_⟩
  · rw [exec_agePassExamination below free walk waiting, State.examineByAge_failed failed,
      State.finishExamination_nil (t := s.quarantine n) walk waiting]
    rfl
  · obtain ⟨kept, settled⟩ := agePass_judged below free walk waiting held fun f => s.judgeRecord_opened f opened
    rw [s.walkSettle_opened opened] at settled
    exact ⟨kept, settled⟩
  · obtain ⟨kept, settled⟩ := agePass_judged below free walk waiting held fun f => s.judgeRecord_broken f broken
    rw [s.walkSettle_broken broken] at settled
    exact ⟨kept, settled⟩
  · obtain ⟨kept, settled⟩ := agePass_judged below free walk waiting held fun f => s.judgeRecord_orphan f o
    exact ⟨kept, fun old => ⟨settled old, rfl⟩⟩

/-! ### The forced pass (R141, R142) -/

/-- The walk in flight is the forced pass at slot `n`, still forcing when it was and no release has cleared shortage since it
stood at `shortage`. -/
def State.ForcedAt (s : State) (n : Nat) (forcing shortage : Bool) : Prop := ∃ f, s.sweep.walk = some (.forced n f) ∧
  (f = true ↔ forcing = true ∧ (shortage = true → s.table.shortage = true)) ∧
  (s.table.shortage = true → shortage = true)

/-- A release that clears shortage ends the forcing of the pass in flight (R142). -/
theorem State.ForcedAt.releaseSlot {n : Nat} {forcing shortage : Bool} (h : s.ForcedAt n forcing shortage) (m : Nat) :
    (s.releaseSlot m).ForcedAt n forcing shortage := by
  unfold State.releaseSlot
  split
  · exact h
  · unfold State.judgeCleared
    split
    next clears =>
      obtain ⟨f, walk, -, stood⟩ := h
      refine ⟨false, ?_, ?_, fun k => by cases k⟩
      · show s.sweep.walk.map Walk.unforced = _
        rw [walk]
        rfl
      · exact iff_of_false (fun k => by cases k) fun ⟨_, k⟩ => by cases k (stood clears.1)
    next => exact h

theorem settleClosed_forcedAt (n : Nat) (forcing shortage : Bool) :
    SettleClosed fun s => s.ForcedAt n forcing shortage where
  setNext s m next h := by
    obtain ⟨slots, e, -⟩ := s.setNext_rewrites m next
    rw [e]
    exact h
  setNextOrder s m next h := by
    obtain ⟨slots, e, -⟩ := s.setNextOrder_rewrites m next
    rw [e]
    exact h
  quarantine _ _ _ _ h := h
  setBucketHead _ _ _ h := h
  setOrder _ _ h := h
  releaseSlot _ m h := h.releaseSlot m
  charge s t d k f h := by
    obtain ⟨c, k, e⟩ := s.charge_frame t d k f
    rw [e]
    exact h

section
variable {n : Nat} {forcing : Bool} (below : n < 12288) (free : s.tableFree = true)
  (walk : s.sweep.walk = some (.forced n forcing)) (waiting : s.sweep.waiting = [])
include below free walk waiting

/-- The forced age in force in the pass (R141, R142). -/
theorem exec_forcedPassExamination : exec .forcedPassExamination s =
    .next ((s.examineByAge n (if forcing && s.table.shortage then s.sweep.forcedAge else none)).2.finishExamination
      (s.examineByAge n (if forcing && s.table.shortage then s.sweep.forcedAge else none)).1) := by
  simp only [exec, execForcedPassExamination, walk]
  exact if_pos ⟨below, State.mayExamine_of free waiting⟩

theorem forcedPass_kept
    (h : s.examineByAge n (if forcing && s.table.shortage then s.sweep.forcedAge else none) = ([], s)) :
    exec .forcedPassExamination s = .next (s.withWalk (.forced (n + 1) forcing)).endIfFinished := by
  rw [exec_forcedPassExamination below free walk waiting, h, State.finishExamination_nil walk waiting]
  rfl

/-- A record settled by a forced pass; whether the pass forces on rests on whether the release has cleared shortage. -/
theorem forcedPass_settled {r : Settled × State} {forced : Bool}
    (h : s.examineByAge n (if forcing && s.table.shortage then s.sweep.forcedAge else none) = ([r.1.record], r.2))
    (at_ : r.2.ForcedAt n forcing s.table.shortage) (flag : forced = true → r.1.record.flags.forced = true) :
    ∃ f, exec .forcedPassExamination s =
        .next ((r.2.withWalk (.forced (n + 1) f)).walkRecords [r.1.record]).endIfFinished ∧
      (f = true ↔ forcing = true ∧ (s.table.shortage = true → r.2.table.shortage = true)) ∧
      (forced = true → r.1.record.flags.forced = true) := by
  obtain ⟨f, walks, forces, -⟩ := at_
  refine ⟨f, ?_, forces, flag⟩
  rw [exec_forcedPassExamination below free walk waiting, h, State.finishExamination_eq walks]
  rfl

/-- A record kept or settled by a forced pass, by its age against its window and the forced age. -/
theorem forcedPass_judged {c : Content} {day since window : Nat} {settle : Flags → Settled × State}
    (held : s.slot n = some (.allocated c true))
    (judged : ∀ f, s.judgeRecord f c = s.judgeSince day since window f)
    (settles : ∀ extra, s.walkSettle n extra c = ([(settle extra).1.record], (settle extra).2))
    (at_ : ∀ extra, (settle extra).2.ForcedAt n forcing s.table.shortage)
    (flag : (settle { forced := true }).1.record.flags.forced = true) :
    (day = s.today → s.ageSince since ≤ window →
      (¬(∃ a, s.sweep.forcedAge = some a ∧ a < s.ageSince since) ∨ forcing = false ∨ s.table.shortage = false) →
      exec .forcedPassExamination s = .next (s.withWalk (.forced (n + 1) forcing)).endIfFinished) ∧
    (day = s.today → s.ageSince since ≤ window → (∃ a, s.sweep.forcedAge = some a ∧ a < s.ageSince since) →
      forcing = true → s.table.shortage = true → ∃ f, exec .forcedPassExamination s =
        .next (((settle { forced := true }).2.withWalk (.forced (n + 1) f)).walkRecords
          [(settle { forced := true }).1.record]).endIfFinished ∧
      (f = true ↔ forcing = true ∧ (s.table.shortage = true → (settle { forced := true }).2.table.shortage = true)) ∧
      (true = true → (settle { forced := true }).1.record.flags.forced = true)) ∧
    (day ≠ s.today ∨ window < s.ageSince since → ∃ f, exec .forcedPassExamination s =
        .next (((settle {}).2.withWalk (.forced (n + 1) f)).walkRecords [(settle {}).1.record]).endIfFinished ∧
      (f = true ↔ forcing = true ∧ (s.table.shortage = true → (settle {}).2.table.shortage = true)) ∧
      (false = true → (settle {}).1.record.flags.forced = true)) := by
  refine ⟨fun today young notForced => ?_, fun today young older forces short => ?_, fun old => ?_⟩
  · refine forcedPass_kept below free walk waiting (State.examineByAge_kept held
      ((judged _).trans (State.judgeSince_keep today young fun a ha => ?_)))
    split at ha
    next on =>
      obtain ⟨forces, short⟩ := Bool.and_eq_true_iff.1 on
      rcases notForced with notOlder | off | off
      · exact Nat.le_of_not_lt fun older => notOlder ⟨a, ha, older⟩
      · rw [forces] at off; cases off
      · rw [short] at off; cases off
    next => cases ha
  · obtain ⟨a, forcedAge, older⟩ := older
    refine forcedPass_settled below free walk waiting ?_ (at_ _) fun _ => flag
    rw [forces, short, forcedAge]
    exact (State.examineByAge_settled held ((judged _).trans (State.judgeSince_forced today young older))).trans (settles _)
  · refine forcedPass_settled below free walk waiting ?_ (at_ _) fun k => by cases k
    exact (State.examineByAge_settled held ((judged _).trans (State.judgeSince_settle old _))).trans (settles _)

end

/-- Settles O47: as the age pass, and by the forced age while the pass forces and shortage stands. -/
theorem forcedPassJudgesByForcedAge : Obligations.ForcedPassJudgesByForcedAge := by
  unfold Obligations.ForcedPassJudgesByForcedAge
  intro n forcing s below free walk waiting
  have stands : s.ForcedAt n forcing s.table.shortage := ⟨forcing, walk, ⟨fun h => ⟨h, id⟩, fun h => h.1⟩, id⟩
  have closed := settleClosed_forcedAt n forcing s.table.shortage
  refine ⟨fun passed => forcedPass_kept below free walk waiting (State.PassedOver.examineByAge passed _), fun c failed => ?_,
    fun c held => ⟨fun opened => ?_, fun out broken => ?_⟩, fun o held => ?_⟩
  · rw [exec_forcedPassExamination below free walk waiting, State.examineByAge_failed failed,
      State.finishExamination_nil (t := s.quarantine n) walk waiting]
    rfl
  · exact forcedPass_judged below free walk waiting held (fun f => s.judgeRecord_opened f opened)
      (settle := fun f => s.settleCore n c .incomplete f) (s.walkSettle_opened opened n)
      (fun f => closed.settleCore n c .incomplete f .sought stands) (s.settleCore_forced n c .incomplete .sought)
  · exact forcedPass_judged below free walk waiting held (fun f => s.judgeRecord_broken f broken)
      (settle := fun f => s.settleCore n c .completedLegs f) (s.walkSettle_broken broken n)
      (fun f => closed.settleCore n c .completedLegs f .sought stands) (s.settleCore_forced n c .completedLegs .sought)
  · refine forcedPass_judged below free walk waiting held (fun f => s.judgeRecord_orphan f o)
      (settle := fun f => (⟨(s.settleOrphan n o f).1, none⟩, (s.settleOrphan n o f).2)) (fun _ => rfl)
      (fun f => closed.settleOrphan n o f .sought stands) ?_
    obtain ⟨-, -, forced, -⟩ := s.settleOrphan_flags n o { forced := true } .sought
    rw [forced, Bool.or_true]

/-! ### The day-change walk (R145) -/

section
variable {n : Nat} (below : n < 12288) (free : s.tableFree = true) (walk : s.sweep.walk = some (.day n))
  (waiting : s.sweep.waiting = [])
include below free walk waiting

theorem exec_dayChangeWalkExamination : exec .dayChangeWalkExamination s =
    .next ({ (s.examineByDay n).2 with sweep := { (s.examineByDay n).2.sweep with
      dayCounts := (s.examineByDay n).1.foldl DayCounts.add (s.examineByDay n).2.sweep.dayCounts } }.finishExamination
      (s.examineByDay n).1) := by
  simp only [exec, execDayChangeWalkExamination, walk]
  exact if_pos ⟨below, State.mayExamine_of free waiting⟩

/-- An examination that settles nothing. -/
theorem dayWalk_none {t : State} (h : s.examineByDay n = ([], t)) (walks : t.sweep.walk = some (.day n))
    (none : t.sweep.waiting = []) :
    exec .dayChangeWalkExamination s = .next (t.withWalk (.day (n + 1))).endIfFinished := by
  rw [exec_dayChangeWalkExamination below free walk waiting, h]
  exact congrArg Host.Outcome.next (State.finishExamination_nil walks none)

theorem dayWalk_kept (h : s.examineByDay n = ([], s)) :
    exec .dayChangeWalkExamination s = .next (s.withWalk (.day (n + 1))).endIfFinished :=
  dayWalk_none below free walk waiting h walk waiting

/-- A record settled by the day-change walk is counted, and the walk goes on. -/
theorem dayWalk_settled {r : JourneyRecord} {t : State} (h : s.examineByDay n = ([r], t)) (walks : t.Walking (.day n))
    (counts : t.sweep.dayCounts = s.sweep.dayCounts) :
    exec .dayChangeWalkExamination s =
      .next ({ t with sweep := { t.sweep with
        walk := some (.day (n + 1)), dayCounts := s.sweep.dayCounts.add r } }.walkRecords [r]).endIfFinished := by
  have walks : t.sweep.walk = some (.day n) := walks.elim id id
  rw [exec_dayChangeWalkExamination below free walk waiting, h, ← counts]
  exact congrArg Host.Outcome.next (State.finishExamination_eq
    (t := { t with sweep := { t.sweep with dayCounts := t.sweep.dayCounts.add r } }) walks [r])

end

/-- A record of another day is settled, one of the current day passed over (R145). -/
theorem State.examineByDay_intact {n : Nat} {c : Content} (h : s.slot n = some (.allocated c true)) :
    s.examineByDay n = if c.ofOtherDay s.today then s.walkSettle n {} c else ([], s) := by
  unfold State.examineByDay
  rw [State.readSlot_of_intact h]

/-- Settles O48: what the walk finds in its slot, and each record by its day. -/
theorem dayChangeWalkSettlesOtherDays : Obligations.DayChangeWalkSettlesOtherDays := by
  unfold Obligations.DayChangeWalkSettlesOtherDays
  intro n s below free walk waiting
  have walking := walking_closed (.day n)
  refine ⟨fun passed => dayWalk_kept below free walk waiting (State.PassedOver.examineByDay passed), fun c failed => ?_,
    fun c held => ⟨fun today => ?_, fun other => ⟨fun opened => ?_, fun out broken => ?_⟩⟩,
    fun o held => ⟨fun today => ?_, fun other => ?_⟩⟩
  · exact dayWalk_none below free walk waiting (State.examineByDay_failed failed) walk waiting
  · refine dayWalk_kept below free walk waiting ((State.examineByDay_intact held).trans (if_neg ?_))
    simp [Content.ofOtherDay, today]
  · refine dayWalk_settled below free walk waiting ?_ (walking.settleCore n c .incomplete {} .sought (.inl walk)) ?_
    · rw [State.examineByDay_intact held, if_pos (by simpa [Content.ofOtherDay] using other), s.walkSettle_opened opened]
    · obtain ⟨-, -, counts, -⟩ := s.settleCore_sweep n c .incomplete {} .sought
      exact counts
  · refine dayWalk_settled below free walk waiting ?_ (walking.settleCore n c .completedLegs {} .sought (.inl walk)) ?_
    · rw [State.examineByDay_intact held, if_pos (by simpa [Content.ofOtherDay] using other), s.walkSettle_broken broken]
    · obtain ⟨-, -, counts, -⟩ := s.settleCore_sweep n c .completedLegs {} .sought
      exact counts
  · refine dayWalk_kept below free walk waiting ((State.examineByDay_intact held).trans (if_neg ?_))
    simp [Content.ofOtherDay, today]
  · refine dayWalk_settled below free walk waiting ?_ (walking.settleOrphan n o {} .sought (.inl walk)) ?_
    · rw [State.examineByDay_intact held, if_pos (by simpa [Content.ofOtherDay] using other)]
      rfl
    · obtain ⟨-, -, counts, -⟩ := s.settleOrphan_sweep n o {} .sought
      exact counts

end Sys2Proof.Machine
end

section
/-! PROOFS. The second and the third step of the pool audit (R70, R71): the slot that comes next, and what its examination or
its test leaves. -/

namespace Sys2Proof.Machine

variable {s : State} {n m : Nat}

/-! ### The QUARANTINED slot that comes next (R71) -/

theorem State.nextQuarantined_first (stored : s.Stored) (above : n ≤ m) (held : s.slot m = some .quarantined)
    (first : ∀ j, n ≤ j → j < m → s.slot j ≠ some .quarantined) : s.nextQuarantined n = some m :=
  sparse_find_least s.table.slots stored.slots (fun x _ => decide (x = .quarantined)) n m .quarantined held
    (decide_eq_true rfl) above fun j _ from_ below get => decide_eq_false fun e => first j from_ below (e ▸ get)

theorem State.nextQuarantined_none (stored : s.Stored) (none_ : ∀ m, n ≤ m → s.slot m ≠ some .quarantined) :
    s.nextQuarantined n = none :=
  sparse_find_none s.table.slots stored.slots (fun x _ => decide (x = .quarantined)) n
    fun j _ from_ get => decide_eq_false fun e => none_ j from_ (e ▸ get)

theorem exec_auditSlotTest (free : s.tableFree = true) (walk : s.sweep.walk = some (.audit (.tests n)))
    (waiting : s.sweep.waiting = []) (passes : Bool) : exec (.auditSlotTest passes) s =
      match s.nextQuarantined n with
      | none => .next (s.setAuditStep (s.gatherFrom 0 []))
      | some m =>
        let t := if passes then (s.releaseSlot m).setAuditCounts { (s.releaseSlot m).sweep.auditCounts with
          restored := (s.releaseSlot m).sweep.auditCounts.restored + 1 } else s
        .next (t.setAuditStep (t.testsFrom (m + 1))) := by
  simp only [exec, execAuditSlotTest, walk]
  exact if_pos (State.mayExamine_of free waiting)

/-- Settles O33: by the QUARANTINED slot that comes next. -/
theorem auditTestsQuarantinedSlots : Obligations.AuditTestsQuarantinedSlots := by
  unfold Obligations.AuditTestsQuarantinedSlots
  intro n s stored free walk waiting
  refine ⟨fun none_ => ?_, fun m above below held first => ?_⟩
  · have next := State.nextQuarantined_none stored none_
    refine ⟨?_, fun passes => ?_⟩
    · unfold State.testsFrom
      rw [next]
    · rw [exec_auditSlotTest free walk waiting, next]
      rfl
  · have next := State.nextQuarantined_first stored above held first
    have kind : s.kind m = .quarantined := by
      unfold State.kind
      rw [held]
      rfl
    obtain ⟨gone, others⟩ := State.releaseSlot_slot stored m
    refine ⟨?_, ?_, ?_, gone, others, State.releaseSlot_toList below held, ?_⟩
    · unfold State.testsFrom
      rw [next]
    · rw [exec_auditSlotTest free walk waiting, next]
      rfl
    · have counts : (s.releaseSlot m).sweep.auditCounts = s.sweep.auditCounts := by rw [s.releaseSlot_sweep m]
      rw [exec_auditSlotTest free walk waiting, next, ← counts]
      rfl
    · rw [State.releaseSlot_counts, kind]
      rfl

/-! ### The unmarked slot that comes next (R70) -/

/-- Whether a slot's number is taken by a record, whatever its check. -/
def Slot.isAllocated : Slot → Bool
  | .allocated _ _ => true
  | .quarantined => false

/-- A slot that holds a record and no audit mark (R70). -/
def State.Unmarked (s : State) (m : Nat) : Prop := (∃ c k, s.slot m = some (.allocated c k)) ∧ m ∉ s.table.marks

theorem State.nextUnmarked_eq (s : State) (n : Nat) : s.nextUnmarked n =
    (s.table.slots.find? fun x => decide (n ≤ x.1) && (x.2.isAllocated && !s.table.marks.contains x.1)).map (·.1) := by
  unfold State.nextUnmarked
  simp only [Bool.and_assoc]
  rfl

/-- The search takes a slot exactly when it is unmarked. -/
theorem State.unmarked_iff {x : Slot} (get : s.slot m = some x) :
    (x.isAllocated && !s.table.marks.contains m) = true ↔ s.Unmarked m := by
  unfold State.Unmarked
  rw [get]
  cases x <;> simp [Slot.isAllocated]

theorem State.nextUnmarked_first (stored : s.Stored) (above : n ≤ m) (unmarked : s.Unmarked m)
    (first : ∀ j, n ≤ j → j < m → ¬s.Unmarked j) : s.nextUnmarked n = some m := by
  obtain ⟨⟨c, k, get⟩, -⟩ := id unmarked
  rw [State.nextUnmarked_eq]
  exact sparse_find_least s.table.slots stored.slots (fun x j => x.isAllocated && !s.table.marks.contains j) n m _ get
    ((State.unmarked_iff get).2 unmarked) above fun j _ from_ below get =>
      Bool.eq_false_iff.2 fun e => first j from_ below ((State.unmarked_iff get).1 e)

theorem State.nextUnmarked_none (stored : s.Stored) (none_ : ∀ m, n ≤ m → ¬s.Unmarked m) : s.nextUnmarked n = none := by
  rw [State.nextUnmarked_eq]
  exact sparse_find_none s.table.slots stored.slots (fun x j => x.isAllocated && !s.table.marks.contains j) n
    fun j _ from_ get => Bool.eq_false_iff.2 fun e => none_ j from_ ((State.unmarked_iff get).1 e)

/-! ### The examination of an unmarked slot (R70) -/

theorem exec_auditSlotExamination (free : s.tableFree = true) (walk : s.sweep.walk = some (.audit (.slots n)))
    (waiting : s.sweep.waiting = []) : exec .auditSlotExamination s =
      match s.nextUnmarked n with
      | none => .next (s.setAuditStep (s.testsFrom 0))
      | some m => .next (((s.auditSlot m).2.setAuditStep ((s.auditSlot m).2.slotsFrom (m + 1))).walkRecords
        (s.auditSlot m).1) := by
  simp only [exec, execAuditSlotExamination, walk]
  exact if_pos (State.mayExamine_of free waiting)

theorem State.auditSlot_failed {c : Content} (h : s.slot m = some (.allocated c false)) :
    s.auditSlot m = ([], s.quarantine m) := by
  unfold State.auditSlot
  rw [State.readSlot_failed h]

theorem State.auditSlot_core {c : Core} (h : s.slot m = some (.allocated (.core c) true)) :
    s.auditSlot m = ([(s.settleCore m c .incomplete { recovered := true }).1.record],
      (s.settleCore m c .incomplete { recovered := true }).2.setAuditCounts (s.sweep.auditCounts.recover
        (s.settleCore m c .incomplete { recovered := true }).1.record)) := by
  obtain ⟨-, counts, -⟩ := s.settleCore_sweep m c .incomplete { recovered := true } .sought
  unfold State.auditSlot
  rw [State.readSlot_of_intact h, ← counts]

theorem State.auditSlot_orphan {o : Orphan} (h : s.slot m = some (.allocated (.orphan o) true)) :
    s.auditSlot m = ([(s.settleOrphan m o { recovered := true }).1],
      (s.settleOrphan m o { recovered := true }).2.setAuditCounts (s.sweep.auditCounts.recover
        (s.settleOrphan m o { recovered := true }).1)) := by
  obtain ⟨-, counts, -⟩ := s.settleOrphan_sweep m o { recovered := true } .sought
  unfold State.auditSlot
  rw [State.readSlot_of_intact h, ← counts]

theorem State.auditSlot_owned {e : Extension} (h : s.slot m = some (.allocated (.extension e) true))
    (owned : s.ownedBy m e.owner = (true, s)) : s.auditSlot m = ([], s) := by
  unfold State.auditSlot
  rw [State.readSlot_of_intact h]
  dsimp only
  rw [owned]

theorem State.auditSlot_lone {e : Extension} (h : s.slot m = some (.allocated (.extension e) true))
    (lone : s.ownedBy m e.owner = (false, s)) :
    s.auditSlot m = ([], (s.releaseSlot m).setAuditCounts
      { s.sweep.auditCounts with loneReleased := s.sweep.auditCounts.loneReleased + 1 }) := by
  have counts : (s.releaseSlot m).sweep.auditCounts = s.sweep.auditCounts := by rw [s.releaseSlot_sweep m]
  unfold State.auditSlot
  rw [State.readSlot_of_intact h]
  dsimp only
  rw [lone, ← counts]

theorem State.ownedBy_core {owner : Nat} {c : Core} (h : s.slot owner = some (.allocated (.core c) true)) :
    s.ownedBy m owner = (c.extensions.contains m, s) := by
  have kind : s.kind owner = .core := State.kind_of_allocated h
  unfold State.ownedBy
  rw [if_pos kind, State.readSlot_of_intact h]

theorem State.ownedBy_other {owner : Nat} (h : s.kind owner ≠ .core) : s.ownedBy m owner = (false, s) :=
  if_neg h

/-- The counts after a quarantine, by the content whose check failed (R65). -/
theorem State.quarantine_counts {c : Content} {k : Bool} (h : s.slot n = some (.allocated c k)) :
    (s.quarantine n).table.counts = (s.table.counts.lower c.kind).lift .quarantined := by
  show s.table.counts.move (s.kind n) .quarantined = _
  rw [State.kind_of_allocated h]
  rfl

/-- Settles O32: by the unmarked slot that comes next, and what is found in it. -/
theorem auditExaminesUnmarkedSlots : Obligations.AuditExaminesUnmarkedSlots := by
  unfold Obligations.AuditExaminesUnmarkedSlots
  refine ⟨fun n c s _ failed => ⟨s.quarantine_slot_self n, fun m hm => s.quarantine_slot_other hm, ?_, rfl, rfl, rfl, rfl,
    rfl, rfl, rfl, rfl⟩, fun n s stored free walk waiting => ⟨fun none_ => ?_, fun m above unmarked first => ?_⟩⟩
  · rw [State.quarantine_counts failed]
    cases c <;> rfl
  · have next := State.nextUnmarked_none stored none_
    refine ⟨?_, ?_⟩
    · unfold State.slotsFrom
      rw [next]
    · rw [exec_auditSlotExamination free walk waiting, next]
      rfl
  · have next := State.nextUnmarked_first stored above unmarked first
    rw [exec_auditSlotExamination free walk waiting, next]
    dsimp only
    refine ⟨?_, fun c failed => ?_, fun c held => ?_, fun o held => ?_, fun e held => ⟨fun c core named => ?_, fun lone => ?_⟩⟩
    · unfold State.slotsFrom
      rw [next]
    · rw [State.auditSlot_failed failed]
      exact congrArg _ (State.walkRecords_nil ((s.quarantine m).setAuditStep _) waiting)
    · obtain ⟨kind, flag⟩ := s.settleCore_incomplete m c { recovered := true } .sought
      refine ⟨kind, flag rfl, ?_⟩
      rw [State.auditSlot_core held]
      rfl
    · obtain ⟨kind, -, -, flag⟩ := s.settleOrphan_flags m o { recovered := true } .sought
      refine ⟨kind, flag.trans (Bool.or_true _), ?_⟩
      rw [State.auditSlot_orphan held]
      rfl
    · rw [State.auditSlot_owned held ((State.ownedBy_core core).trans (by rw [List.contains_iff_mem.2 named]))]
      exact congrArg _ (State.walkRecords_nil (s.setAuditStep _) waiting)
    · have lone : s.ownedBy m e.owner = (false, s) := by
        rcases lone with other | ⟨c, core, unnamed⟩
        · exact State.ownedBy_other other
        · rw [State.ownedBy_core core, Bool.eq_false_iff.2 fun h => unnamed (List.contains_iff_mem.1 h)]
      have waits : (s.releaseSlot m).sweep.waiting = [] := by
        rw [s.releaseSlot_sweep m]
        exact waiting
      rw [State.auditSlot_lone held lone]
      exact congrArg _ (State.walkRecords_nil (((s.releaseSlot m).setAuditCounts _).setAuditStep _) waits)

end Sys2Proof.Machine
end

section
/-! PROOFS. The first step of the pool audit (R69): a sound chain marked to its end, and a chain cut at a slot that cannot be
read (R66). -/

namespace Sys2Proof.Machine

variable {s : State} {n : Nat}

/-! ### A chain cut at a slot that cannot be read (R66) -/

/-- `t` is `s` with the chain of bucket `b` cut before the slot `n`, which cannot be read, after the record in slot `prev`, or at
its head where there is none (R65, R66). -/
structure State.CutAt (s : State) (b : Nat) (prev : Option Nat) (n : Nat) (t : State) : Prop where
  quarantined : t.slot n = some .quarantined
  marks : t.table.marks = s.table.marks
  records : t.records = s.records
  fault : s.slot n ≠ some .quarantined → t.fault = some ⟨.slotCheck, n, s.clock.time⟩
  heads : ∀ a, a ≠ b → t.bucketHead a = s.bucketHead a
  first : prev = none → t.bucketHead b = none ∧ ∀ m, m ≠ n → t.slot m = s.slot m
  after : ∀ p d, prev = some p → s.slot p = some (.allocated d true) → p ≠ n → t.bucketHead b = s.bucketHead b ∧
    t.slot p = some (.allocated (d.withNext none) true) ∧ ∀ m, m ≠ n → m ≠ p → t.slot m = s.slot m

/-- A chain is cut so from a state whose slot is QUARANTINED. -/
theorem State.cutAt_of_quarantined (heads : sparseWf s.table.heads = true) (h : s.slot n = some .quarantined) (b : Nat)
    (prev : Option Nat) : s.CutAt b prev n (s.setChainLink b prev none) := by
  cases prev with
  | none =>
    exact ⟨h, rfl, rfl, fun k => absurd h k, fun a ha => State.bucketHead_setBucketHead_other heads ha none,
      fun _ => ⟨s.bucketHead_setBucketHead b none heads, fun _ _ => rfl⟩, fun _ _ e => by cases e⟩
  | some p =>
    obtain ⟨slots, eq, others, stays⟩ := s.setNext_rewrites p none
    have cut : s.setChainLink b (some p) none = { s with table := { s.table with slots := slots } } := eq
    have empty : ∀ c k, s.slot n ≠ some (.allocated c k) := fun c k e => by
      rw [h] at e
      cases e
    rw [cut]
    refine ⟨(stays n empty).trans h, rfl, rfl, fun k => absurd h k, fun _ _ => rfl, (fun e => by cases e), fun q d e held _ => ?_⟩
    cases e
    have written := congrArg (fun t : State => t.table.slots) (eq.symm.trans (State.setNext_eq held none))
    exact ⟨rfl, s.slot_put_self written, fun m _ hm => others m hm⟩

/-- A chain is cut so by a read that fails, whatever state the read began from. -/
theorem State.CutAt.of_quarantine {b : Nat} {prev : Option Nat} {t : State} (h : (s.quarantine n).CutAt b prev n t)
    (fault : t.fault = some ⟨.slotCheck, n, s.clock.time⟩) : s.CutAt b prev n t where
  quarantined := h.quarantined
  marks := h.marks
  records := h.records
  fault _ := fault
  heads := h.heads
  first e := by
    obtain ⟨head, others⟩ := h.first e
    exact ⟨head, fun m hm => (others m hm).trans (s.quarantine_slot_other hm)⟩
  after p d e held ne := by
    obtain ⟨head, linked, others⟩ := h.after p d e ((s.quarantine_slot_other ne).trans held) ne
    exact ⟨head, linked, fun m hm hp => (others m hm hp).trans (s.quarantine_slot_other hm)⟩

/-- A link written writes no fault. -/
theorem State.setChainLink_fault (s : State) (b : Nat) (prev next : Option Nat) : (s.setChainLink b prev next).fault = s.fault := by
  cases prev with
  | none => rfl
  | some p =>
    obtain ⟨slots, eq, -⟩ := s.setNext_rewrites p next
    show (s.setNext p next).fault = s.fault
    rw [eq]

theorem State.Unreadable.cutAt (stored : s.Stored) (bad : s.Unreadable n) (b : Nat) (prev : Option Nat) :
    ∃ u, s.readSlot n = (none, u) ∧ s.CutAt b prev n (u.setChainLink b prev none) := by
  rcases bad with failed | quarantined
  · have cut := State.cutAt_of_quarantined (s := s.quarantine n) stored.heads (s.quarantine_slot_self n) b prev
    exact ⟨_, State.readSlot_failed failed.choose_spec,
      cut.of_quarantine ((s.quarantine n).setChainLink_fault b prev none)⟩
  · exact ⟨s, State.readSlot_quarantined quarantined, State.cutAt_of_quarantined stored.heads quarantined b prev⟩

/-! ### Marks (R69) -/

/-- The state with other audit marks. -/
def State.withMarks (s : State) (marks : List Nat) : State := { s with table := { s.table with marks := marks } }

theorem foldl_mark : ∀ (ns : List Nat) (s : State),
    ns.foldl State.mark s = s.withMarks (ns.foldl markIn s.table.marks)
  | [], _ => rfl
  | n :: rest, s => foldl_mark rest (s.mark n)

theorem mem_foldl_markIn (m : Nat) : ∀ (ns marks : List Nat), m ∈ ns.foldl markIn marks ↔ m ∈ marks ∨ m ∈ ns := by
  intro ns
  induction ns with
  | nil => simp
  | cons n rest ih =>
    intro marks
    rw [List.foldl_cons, ih, mem_markIn, List.mem_cons]
    tauto

/-- The slots that a record's examination marks: its own, and those of a core's extensions (R69). -/
def Content.marked (c : Content) (n : Nat) : List Nat :=
  match c with
  | .core d => n :: d.extensions
  | _ => [n]

theorem Content.mem_marked {c : Content} {m : Nat} : m ∈ c.marked n ↔ m = n ∨ ∃ d, c = .core d ∧ m ∈ d.extensions := by
  cases c <;> simp [Content.marked]

/-! ### The extensions of a core (R67) -/

/-- Extensions that are intact or QUARANTINED are read without a change, and the QUARANTINED ones are the damaged. -/
theorem readExtensions_damaged : ∀ (ns : List Nat),
    (∀ e ∈ ns, s.slot e = some .quarantined ∨ ∃ l, s.slot e = some (.allocated (.extension l) true)) →
    ∃ es, readExtensions ns s = (es, s) ∧ (anyDamaged es = true ↔ ∃ e ∈ ns, s.slot e = some .quarantined) := by
  intro ns
  induction ns with
  | nil => exact fun _ => ⟨[], rfl, by simp [anyDamaged]⟩
  | cons n rest ih =>
    intro h
    obtain ⟨es, read, damaged⟩ := ih fun e he => h e (List.mem_cons_of_mem _ he)
    rcases h n List.mem_cons_self with quarantined | ⟨l, intact⟩
    · have first : s.readExtension n = (none, s) := by
        unfold State.readExtension
        rw [State.readSlot_quarantined quarantined]
      refine ⟨(n, none) :: es, by simp only [readExtensions, first, read], ?_⟩
      exact iff_of_true rfl ⟨n, List.mem_cons_self, quarantined⟩
    · have first : s.readExtension n = (some l, s) := by
        unfold State.readExtension
        rw [State.readSlot_of_intact intact]
      refine ⟨(n, some l) :: es, by simp only [readExtensions, first, read], ?_⟩
      show anyDamaged es = true ↔ _
      simp [damaged, intact]

/-! ### One slot of a chain (R69) -/

/-- What a chain's slot is examined as by its content: a record that passes, with the extensions of a core. -/
def State.ChainSound (s : State) (c : Content) : Prop :=
  c.kind ≠ .extension ∧ ∀ d, c = .core d → ∀ e ∈ d.extensions, ∃ l, s.slot e = some (.allocated (.extension l) true)

section
variable (b : Nat) (passed : Option Nat)

theorem State.auditChainSlot_sound {c : Content} (held : s.slot n = some (.allocated c true)) (sound : s.ChainSound c) :
    s.auditChainSlot b passed n = ([], some n, s.withMarks ((c.marked n).foldl markIn s.table.marks)) := by
  obtain ⟨kind, extensions⟩ := sound
  unfold State.auditChainSlot
  rw [State.readSlot_of_intact held]
  cases c with
  | core d =>
    obtain ⟨es, read, damaged⟩ := readExtensions_damaged d.extensions fun e he => .inr (extensions d rfl e he)
    have none_ : anyDamaged es ≠ true := by
      rw [ne_eq, damaged]
      rintro ⟨e, he, quarantined⟩
      obtain ⟨l, intact⟩ := extensions d rfl e he
      rw [intact] at quarantined
      cases quarantined
    dsimp only
    rw [read, if_neg none_, foldl_mark]
    rfl
  | orphan o => rfl
  | extension e => exact absurd rfl kind

theorem State.auditChainSlot_cut {u : State} (read : s.readSlot n = (none, u)) :
    s.auditChainSlot b passed n = ([], passed, u.setChainLink b passed none) := by
  unfold State.auditChainSlot
  rw [read]

theorem State.auditChainSlot_damaged {c : Core} (held : s.slot n = some (.allocated (.core c) true))
    {es : List (Nat × Option Extension)} (read : readExtensions c.extensions s = (es, s)) (damaged : anyDamaged es = true) :
    s.auditChainSlot b passed n = ([(s.settleCore n c .incomplete {}).1.record], passed,
      (s.settleCore n c .incomplete {}).2.setAuditCounts
        { s.sweep.auditCounts with damaged := s.sweep.auditCounts.damaged + 1 }) := by
  obtain ⟨-, counts, -⟩ := s.settleCore_sweep n c .incomplete {} .sought
  unfold State.auditChainSlot
  rw [State.readSlot_of_intact held]
  dsimp only
  rw [read, if_pos damaged, ← counts]

end

/-- A journey with a damaged extension is settled with DAMAGED (R67, R98). -/
theorem State.settleCore_damaged {c : Core} {es : List (Nat × Option Extension)}
    (read : readExtensions c.extensions s = (es, s)) (damaged : anyDamaged es = true) (how : Closing) (extra : Flags)
    (p : Predecessor) : (s.settleCore n c how extra p).1.record.flags.damaged = true := by
  simp only [State.settleCore, State.closeJourney, read]
  exact State.settle_damaged _ c damaged how _

/-- A slot released stays FREE through the releases after it. -/
theorem foldl_releaseSlot_free : ∀ (ns : List Nat) {s : State}, s.Stored → s.slot n = none →
    (ns.foldl State.releaseSlot s).slot n = none := by
  intro ns
  induction ns with
  | nil => exact fun _ h => h
  | cons m rest ih =>
    intro s stored h
    refine ih (stored.releaseSlot m) ?_
    obtain ⟨gone, others⟩ := State.releaseSlot_slot stored m
    by_cases e : n = m
    · rw [e]
      exact gone
    · exact (others n e).trans h

/-- The core settled leaves its slot FREE (R55, R67). -/
theorem State.settleCore_gone (stored : s.Stored) (n : Nat) (c : Core) (how : Closing) (extra : Flags) (p : Predecessor) :
    (s.settleCore n c how extra p).2.slot n = none := by
  have read := journeyClosed_stored.readExtensions c.extensions stored
  have unlinked := journeyClosed_stored.unlink n c.token p read
  refine (State.slot_of_table (State.settle_table _ _) n).trans ?_
  exact foldl_releaseSlot_free _ (unlinked.releaseSlot n) (State.releaseSlot_slot unlinked n).1

/-! ### The walk of a chain (R68, R69) -/

theorem State.chainsFrom_eq (s : State) (b : Nat) (passed : Option Nat) : s.chainsFrom b passed =
    if (s.chainLink b passed).isSome then .chains b passed else if b < 4095 then .chains (b + 1) none else s.slotsFrom 0 := by
  unfold State.chainsFrom
  cases s.chainLink b passed with
  | some n => rfl
  | none => exact (if_congr (show b + 1 < 4096 ↔ b < 4095 by omega) rfl rfl).trans (if_neg Bool.false_ne_true).symm

/-- The second step and those after it are no walk of a chain. -/
theorem State.slotsFrom_ne_chains (s : State) (m b : Nat) (p : Option Nat) : s.slotsFrom m ≠ .chains b p := by
  unfold State.slotsFrom State.testsFrom State.gatherFrom
  split
  · exact nofun
  · split
    · exact nofun
    · split
      · exact nofun
      · exact nofun

section
variable {b : Nat} {passed : Option Nat}

/-- The walk of one bucket's chain rests where the audit has left that chain, or a record waits. -/
theorem runChain_rests (k : Nat) (h : (∀ p, s.sweep.walk ≠ some (.audit (.chains b p))) ∨ s.sweep.waiting ≠ []) :
    runChain b k s = s := by
  cases k with
  | zero => rfl
  | succ k =>
    unfold runChain
    split
    next a p walk =>
      refine if_neg fun ⟨e, waiting⟩ => ?_
      exact h.elim (fun other => other p (e ▸ walk)) fun waits => waits waiting
    next => rfl

theorem runChain_step (k : Nat) (walk : s.sweep.walk = some (.audit (.chains b passed))) (waiting : s.sweep.waiting = []) :
    runChain b (k + 1) s = runChain b k (s.auditChainStep b passed) := by
  rw [runChain, walk]
  exact if_pos ⟨rfl, waiting⟩

/-- A walk over several slots is a walk over the first of them, and then over the others. -/
theorem runChain_succ (b k : Nat) (s : State) : runChain b (k + 1) s = runChain b k (runChain b 1 s) := by
  by_cases walks : ∃ p, s.sweep.walk = some (.audit (.chains b p))
  · obtain ⟨p, walk⟩ := walks
    by_cases waiting : s.sweep.waiting = []
    · rw [runChain_step k walk waiting, runChain_step 0 walk waiting]
      rfl
    · rw [runChain_rests _ (.inr waiting), runChain_rests 1 (.inr waiting), runChain_rests k (.inr waiting)]
  · have rests : ∀ p, s.sweep.walk ≠ some (.audit (.chains b p)) := fun p walk => walks ⟨p, walk⟩
    rw [runChain_rests _ (.inl rests), runChain_rests 1 (.inl rests), runChain_rests k (.inl rests)]

/-- The walk of a chain leaves the Journey Unit. -/
theorem State.auditChainStep_unit (s : State) (b : Nat) (passed : Option Nat) : (s.auditChainStep b passed).unit = s.unit := by
  unfold State.auditChainStep
  split
  · rfl
  next n _ =>
    have frame := (journeyFrame_closed s).auditChainSlot b passed n (JourneyFrame.refl s)
    dsimp only
    obtain ⟨records, counters, stall, waiting, e⟩ := State.walkRecords_eq (s := (s.auditChainSlot b passed n).2.2.setAuditStep
      ((s.auditChainSlot b passed n).2.2.chainsFrom b (s.auditChainSlot b passed n).2.1)) (s.auditChainSlot b passed n).1
    rw [e, frame]
    rfl

theorem exec_auditChainWalk (free : s.tableFree = true) (walk : s.sweep.walk = some (.audit (.chains b passed)))
    (k : Option Nat) : exec (.auditChainWalk k) s = .next (runChain b (k.getD (Config.slotCount + 1)) s) := by
  simp only [exec, execAuditChainWalk, walk]
  exact if_pos free

/-- One slot of a chain is examined, and the walk goes on. -/
theorem exec_auditChainWalk_one (free : s.tableFree = true) (walk : s.sweep.walk = some (.audit (.chains b passed)))
    (waiting : s.sweep.waiting = []) (link : s.chainLink b passed = some n) :
    exec (.auditChainWalk (some 1)) s = .next (((s.auditChainSlot b passed n).2.2.setAuditStep
      ((s.auditChainSlot b passed n).2.2.chainsFrom b (s.auditChainSlot b passed n).2.1)).walkRecords
      (s.auditChainSlot b passed n).1) := by
  rw [exec_auditChainWalk free walk, Option.getD_some, runChain_step 0 walk waiting]
  unfold State.auditChainStep
  rw [link]
  rfl

/-- The walk of a chain, record by record: each that passes is marked, and at the end of the chain the walk goes on. -/
theorem runChain_sound : ∀ (rest : List (Nat × Content)) (k : Nat) (prev : Option Nat) (s : State), rest.length ≤ k →
    s.sweep.waiting = [] → s.Leads Content.inBucket (s.chainLink b prev) rest none → (∀ x ∈ rest, s.ChainSound x.2) →
    ∃ marks, (∀ m, m ∈ marks ↔ m ∈ s.table.marks ∨ ∃ x ∈ rest, m ∈ x.2.marked x.1) ∧
      runChain b k (s.setAuditStep (s.chainsFrom b prev)) = (s.withMarks marks).setAuditStep
        (if b < 4095 then .chains (b + 1) none else (s.withMarks marks).slotsFrom 0) := by
  intro rest
  induction rest with
  | nil =>
    intro k prev s _ _ leads _
    have ends : s.chainsFrom b prev = if b < 4095 then .chains (b + 1) none else s.slotsFrom 0 := by
      rw [State.chainsFrom_eq, show s.chainLink b prev = none from leads]
      rfl
    refine ⟨s.table.marks, by simp, ?_⟩
    rw [ends]
    refine runChain_rests k (.inl fun p e => ?_)
    have e : (if b < 4095 then AuditStep.chains (b + 1) none else s.slotsFrom 0) = .chains b p :=
      Walk.audit.inj (Option.some.inj e)
    split_ifs at e
    · simp at e
    · exact s.slotsFrom_ne_chains 0 b p e
  | cons x rest ih =>
    intro k prev s len waiting leads sound
    obtain ⟨link, held, next, inBucket, leads⟩ := leads
    obtain ⟨k, rfl⟩ := Nat.exists_eq_add_of_lt (Nat.lt_of_lt_of_le (Nat.succ_pos _) len)
    have on : s.chainsFrom b prev = .chains b prev := by rw [State.chainsFrom_eq, link]; rfl
    let v := s.setAuditStep (.chains b prev)
    let w := v.withMarks ((x.2.marked x.1).foldl markIn s.table.marks)
    have linkW : w.chainLink b (some x.1) = next := by
      obtain ⟨token, e⟩ := Content.link_of_inBucket inBucket
      exact State.nextOf_eq (s := w) held e
    obtain ⟨marks, mem, run⟩ := ih k (some x.1) w (by simpa using len) waiting
      (linkW ▸ State.Leads.of_slots (s := s) (t := w) (fun _ => rfl) leads) fun y hy => sound y (List.mem_cons_of_mem _ hy)
    have step : v.auditChainStep b prev = w.setAuditStep (w.chainsFrom b (some x.1)) := by
      unfold State.auditChainStep
      rw [show v.chainLink b prev = some x.1 from link]
      dsimp only
      rw [State.auditChainSlot_sound (s := v) b prev held (sound x List.mem_cons_self)]
      exact State.walkRecords_nil (w.setAuditStep _) waiting
    refine ⟨marks, fun m => ?_, ?_⟩
    · rw [mem, show w.table.marks = (x.2.marked x.1).foldl markIn s.table.marks from rfl, mem_foldl_markIn]
      simp only [List.mem_cons, exists_eq_or_imp, or_assoc]
    · rw [on, Nat.zero_add, runChain_step (s := v) k rfl waiting, step, run]
      rfl

/-- The walk of a whole chain, from its head. -/
theorem runChain_whole {k : Nat} {rest : List (Nat × Content)} (len : rest.length ≤ k)
    (walk : s.sweep.walk = some (.audit (.chains b passed))) (waiting : s.sweep.waiting = [])
    (leads : s.Leads Content.inBucket (s.chainLink b passed) rest none) (sound : ∀ x ∈ rest, s.ChainSound x.2) :
    ∃ marks, (∀ m, m ∈ marks ↔ m ∈ s.table.marks ∨ ∃ x ∈ rest, m ∈ x.2.marked x.1) ∧
      runChain b (k + 1) s = (s.withMarks marks).setAuditStep
        (if b < 4095 then .chains (b + 1) none else (s.withMarks marks).slotsFrom 0) := by
  cases link : s.chainLink b passed with
  | none =>
    obtain ⟨marks, mem, run⟩ := runChain_sound rest k passed s len waiting leads sound
    refine ⟨marks, mem, ?_⟩
    rw [← run, runChain_step k walk waiting]
    unfold State.auditChainStep
    rw [link]
  | some n =>
    obtain ⟨marks, mem, run⟩ := runChain_sound rest (k + 1) passed s (Nat.le_succ_of_le len) waiting leads sound
    have on : s.chainsFrom b passed = .chains b passed := by rw [State.chainsFrom_eq, link]; rfl
    have here : s.setAuditStep (s.chainsFrom b passed) = s := by
      rw [on, State.setAuditStep, ← walk]
    rw [here] at run
    exact ⟨marks, mem, run⟩

end

/-- Records listed in the order of their links lead on to the end of the list. -/
theorem State.leads_of_links {f : Content → Option (Option Nat)} : ∀ {xs : List (Nat × Content)},
    (∀ i x, xs[i]? = some x → s.slot x.1 = some (.allocated x.2 true) ∧ f x.2 = some (xs[i + 1]?.map (·.1))) →
    s.Leads f (xs.head?.map (·.1)) xs none := by
  intro xs
  induction xs with
  | nil => exact fun _ => rfl
  | cons x rest ih =>
    intro links
    obtain ⟨held, link⟩ := links 0 x rfl
    refine ⟨rfl, held, _, link, ?_⟩
    have tail := ih fun i y hy => links (i + 1) y hy
    rwa [List.head?_eq_getElem?] at tail

/-- Settles O31: along a sound chain by induction over its records, one slot by what is found in it, and a walk of several slots
by the first of them. -/
theorem auditWalksEachChain : Obligations.AuditWalksEachChain := by
  unfold Obligations.AuditWalksEachChain
  refine ⟨?_, ?_, ?_⟩
  · intro b s stored free walk waiting chain len head links extensions
    have linked : ∀ i x, chain[i]? = some x → s.slot x.1 = some (.allocated x.2 true) ∧
        x.2.inBucket = some (chain[i + 1]?.map (·.1)) := fun i x hx => by
      obtain ⟨held, token, link⟩ := links i x hx
      exact ⟨held, by rw [Content.inBucket, link]; rfl⟩
    have leads : s.Leads Content.inBucket (s.chainLink b none) chain none := by
      rw [show s.chainLink b none = chain.head?.map (·.1) from head]
      exact State.leads_of_links linked
    have each : ∀ x ∈ chain, s.ChainSound x.2 := fun x hx => by
      refine ⟨fun extension => ?_, fun c core => extensions x hx c core⟩
      obtain ⟨-, inBucket⟩ := leads.intact x hx
      cases e : x.2 <;> rw [e] at extension inBucket
      · cases extension
      · cases inBucket
      · cases extension
    obtain ⟨marks, mem, run⟩ := runChain_whole len walk waiting leads each
    refine ⟨marks, fun m => ?_, ?_⟩
    · simp only [mem m, Content.mem_marked, eq_comm]
    · rw [exec_auditChainWalk free walk, Option.getD_none]
      exact congrArg _ run
  · intro b n passed s stored free walk waiting link on one
    have link : s.chainLink b passed = some n := link
    have one_eq := exec_auditChainWalk_one free walk waiting link
    have on_eq : ∀ t p, on t p = t.setAuditStep (t.chainsFrom b p) := fun t p => by
      rw [State.chainsFrom_eq]
      rfl
    have passes : ∀ t p, s.auditChainSlot b passed n = ([], p, t) → t.sweep.waiting = [] → one (on t p) := by
      intro t p slot waits
      show exec _ _ = _
      rw [one_eq, slot, on_eq]
      exact congrArg _ (State.walkRecords_nil (t.setAuditStep _) waits)
    have cut : ∀ u, s.readSlot n = (none, u) → one (on (u.setChainLink b passed none) passed) := fun u read =>
      passes _ _ (State.auditChainSlot_cut b passed read) (by
        obtain ⟨-, sweep⟩ := (settleClosed_sweep s.table.marks s.sweep).setChainLink b passed none
          (s := u) (by have := (settleClosed_sweep s.table.marks s.sweep).readSlot n (s := s) ⟨rfl, rfl⟩; rwa [read] at this)
        rw [sweep]
        exact waiting)
    refine ⟨fun c held kind extensions => ?_, fun ⟨c, failed⟩ => cut _ (State.readSlot_failed failed),
      fun quarantined => cut s (State.readSlot_quarantined quarantined), fun bad => ?_, fun c held read damaged => ?_⟩
    · refine ⟨(c.marked n).foldl markIn s.table.marks, fun m => ?_, ?_⟩
      · rw [mem_foldl_markIn, Content.mem_marked]
      · exact passes _ _ (State.auditChainSlot_sound b passed held ⟨kind, extensions⟩) waiting
    · obtain ⟨u, read, cutAt⟩ := State.Unreadable.cutAt stored bad b passed
      exact ⟨_, cut u read, cutAt.quarantined, cutAt.marks, cutAt.records, cutAt.fault, cutAt.heads, cutAt.first, cutAt.after⟩
    · obtain ⟨es, reads, damages⟩ := readExtensions_damaged c.extensions read
      obtain ⟨marks, -⟩ := s.settleCore_sweep n c .incomplete {} .sought
      obtain ⟨kind, -⟩ := s.settleCore_incomplete n c {} .sought
      refine ⟨?_, kind, State.settleCore_damaged reads (damages.2 damaged) _ _ _, State.settleCore_gone stored n c _ _ _, marks⟩
      show exec _ _ = _
      rw [one_eq, State.auditChainSlot_damaged b passed held reads (damages.2 damaged), on_eq]
      rfl
  · intro b k passed s t free walk first
    have run := exec_auditChainWalk free walk
    rw [run, Option.getD_some] at first
    obtain rfl := Host.Outcome.next.inj first
    have unit : (runChain b 1 s).unit = s.unit := by
      by_cases waiting : s.sweep.waiting = []
      · rw [runChain_step 0 walk waiting]
        exact s.auditChainStep_unit b passed
      · rw [runChain_rests 1 (.inr waiting)]
    have free' : (runChain b 1 s).tableFree = true := by
      unfold State.tableFree at free ⊢
      rwa [unit]
    refine ⟨fun ⟨p, on⟩ _ => ?_, fun rests => ?_, by rw [run, run, Option.getD_none, Option.getD_some]⟩
    · rw [run, exec_auditChainWalk free' on, Option.getD_some, Option.getD_some, runChain_succ]
    · rw [run, Option.getD_some, runChain_succ, runChain_rests k rests]

end Sys2Proof.Machine
end

section
/-! PROOFS. The lookup of a card along its chain, by where it ends (R54, R66), and JOURNEY_QUERY (R171). -/

namespace Sys2Proof.Machine

variable {s : State} {n : Nat} {token : Token} {before : List (Nat × Content)}

/-! ### The lookup (R54, R66) -/

/-- The lookup goes on from the last record of another card. -/
theorem State.lookup_eq {stop : Option Nat}
    (leads : s.Leads Content.inBucket (s.bucketHead (bucketOf token)) before stop) (len : before.length ≤ 12288)
    (others : ∀ x ∈ before, ∀ next, x.2.link ≠ some (token, next)) :
    s.lookup token = chainLookup (bucketOf token) token (12288 - before.length + 1) (lastSlot before) stop s := by
  unfold State.lookup
  rw [show Config.slotCount + 1 = before.length + (12288 - before.length + 1) by simp only [Config.slotCount]; omega,
    chainLookup_passes _ _ _ _ _ none _ leads others, Option.or_none]

theorem State.lookup_end (leads : s.Leads Content.inBucket (s.bucketHead (bucketOf token)) before none)
    (len : before.length ≤ 12288) (others : ∀ x ∈ before, ∀ next, x.2.link ≠ some (token, next)) :
    s.lookup token = (none, s) :=
  State.lookup_eq leads len others

section
variable (leads : s.Leads Content.inBucket (s.bucketHead (bucketOf token)) before (some n)) (len : before.length ≤ 12288)
  (others : ∀ x ∈ before, ∀ next, x.2.link ≠ some (token, next))
include leads len others

/-- A lookup that reaches a slot it cannot read cuts the chain there. -/
theorem State.lookup_cut {u : State} (read : s.readSlot n = (none, u)) :
    s.lookup token = (none, u.setChainLink (bucketOf token) (lastSlot before) none) := by
  rw [State.lookup_eq leads len others]
  simp only [chainLookup, read]

/-- A lookup returns the first record of its card, wherever it lies, and changes nothing. -/
theorem State.lookup_record {c : Content} {next : Option Nat} (held : s.slot n = some (.allocated c true))
    (own : c.link = some (token, next)) : s.lookup token = (some ⟨lastSlot before, n, c⟩, s) := by
  rw [State.lookup_eq leads len others]
  simp only [chainLookup, State.readSlot_of_intact held, own, if_true]

end

/-! ### JOURNEY_QUERY (R171) -/

theorem exec_journeyQuery {src : Nat} (hand : s.hand = none) (free : s.tableFree = true) :
    exec (.journeyQuery src token) s = .next (s.journeyQuery src token) :=
  congrArg _ ((State.whenFree_of_none hand _).trans (if_pos free))

theorem State.queryJourney_none {t : State} (lookup : s.lookup token = (none, t)) :
    s.queryJourney token = (.none, t) := by
  unfold State.queryJourney
  rw [lookup]

section
variable {prev : Option Nat}

theorem State.queryJourney_core {c : Core} {es : List (Nat × Option Extension)} {t : State}
    (lookup : s.lookup token = (some ⟨prev, n, .core c⟩, s)) (read : readExtensions c.extensions s = (es, t)) :
    s.queryJourney token = (.core n c (es.map (·.2)), t) := by
  unfold State.queryJourney
  rw [lookup]
  dsimp only
  rw [read]

theorem State.queryJourney_orphan {o : Orphan} {met : Bool} {p : Option Nat}
    (lookup : s.lookup token = (some ⟨prev, n, .orphan o⟩, s)) (walk : s.walkOrder (some n) = (met, p, s)) :
    s.queryJourney token = (.orphan n o met, s) := by
  unfold State.queryJourney
  rw [lookup]
  dsimp only
  rw [walk]

end

/-- A walk of a sound order meets the orphans on it, and no other, and changes nothing (R57). -/
theorem State.walkOrder_sound {order : List (Nat × Orphan)} (len : order.length ≤ 512) (once : (order.map (·.1)).Nodup)
    (head : s.table.order.head = order.head?.map (·.1)) (tail : s.table.order.tail = order.getLast?.map (·.1))
    (links : ∀ i x, order[i]? = some x → s.slot x.1 = some (.allocated (.orphan x.2) true) ∧
      x.2.nextOrder = order[i + 1]?.map (·.1)) (n : Nat) :
    ∃ p, s.walkOrder (some n) = (decide (n ∈ order.map (·.1)), p, s) := by
  let content : Nat × Orphan → Nat × Content := fun x => (x.1, .orphan x.2)
  have leads : s.Leads Content.inOrder s.table.order.head (order.map content) none := by
    have leads : s.Leads Content.inOrder _ (order.map content) none := State.leads_of_links fun i x hx => by
      rw [List.getElem?_map] at hx
      obtain ⟨y, hy, rfl⟩ := Option.map_eq_some_iff.1 hx
      obtain ⟨held, next⟩ := links i y hy
      refine ⟨held, congrArg some ?_⟩
      rw [List.getElem?_map, Option.map_map]
      exact next
    rw [head]
    rwa [List.head?_map, Option.map_map] at leads
  by_cases on : n ∈ order.map (·.1)
  · rw [decide_eq_true on]
    obtain ⟨x, hx, rfl⟩ := List.mem_map.1 on
    obtain ⟨pre, post, rfl⟩ := List.append_of_mem hx
    rw [List.map_append] at leads once
    obtain ⟨mid, first, rfl, -⟩ := leads.split
    have apart : ∀ y ∈ pre, ∀ z ∈ x :: post, y.1 ≠ z.1 := fun y hy z hz =>
      (List.nodup_append.1 once).2.2 y.1 (List.mem_map_of_mem hy) z.1 (List.mem_map_of_mem hz)
    refine ⟨_, State.walkOrder_met first (by simp at len ⊢; omega) fun w hw => ?_⟩
    obtain ⟨y, hy, rfl⟩ := List.mem_map.1 hw
    refine ⟨apart y hy x List.mem_cons_self, fun e => ?_⟩
    rw [tail, List.getLast?_append_of_ne_nil _ (List.cons_ne_nil _ _)] at e
    obtain ⟨z, hz, e⟩ := Option.map_eq_some_iff.1 e
    exact apart y hy z (List.mem_of_getLast? hz) e.symm
  · rw [decide_eq_false on]
    rcases List.eq_nil_or_concat' order with rfl | ⟨init, y, rfl⟩
    · exact ⟨_, State.walkOrder_end leads (by simp) (by simp)⟩
    · have other : ∀ x ∈ init ++ [y], x.1 ≠ n := fun x hx e => on (e ▸ List.mem_map_of_mem hx)
      rw [List.map_append] at leads once
      refine ⟨_, State.walkOrder_tail leads (by simp at len ⊢; omega) (fun w hw => ?_) (other y (by simp))
        (by simp [tail, content])⟩
      obtain ⟨x, hx, rfl⟩ := List.mem_map.1 hw
      refine ⟨other x (List.mem_append_left _ hx), fun e => ?_⟩
      rw [tail, List.getLast?_concat] at e
      exact (List.nodup_append.1 once).2.2 x.1 (List.mem_map_of_mem hx) y.1 (by simp) (Option.some.inj e).symm

/-- Settles O27: by where the lookup ends, and by the record that it returns. -/
theorem journeyQueryAnswers : Obligations.JourneyQueryAnswers := by
  unfold Obligations.JourneyQueryAnswers
  intro src token s before stop hand free len leads others account prev absent present
  have answers : ∀ part t, s.queryJourney token = (part, t) → exec (.journeyQuery src token) s =
      .next (t.respond ⟨src, 0x30, part.result, .query part account⟩) := fun part t query => by
    rw [exec_journeyQuery hand free, State.journeyQuery, query]
    rfl
  have missing : ∀ t, s.lookup token = (none, t) → absent t := fun t lookup =>
    ⟨lookup, answers _ _ (State.queryJourney_none lookup)⟩
  refine ⟨?_, ?_⟩
  · rintro rfl
    exact missing s (State.lookup_end leads len others)
  rintro n rfl
  have cut : ∀ u, s.readSlot n = (none, u) → absent (u.setChainLink (bucketOf token) prev none) := fun u read =>
    missing _ (State.lookup_cut leads len others read)
  refine ⟨fun ⟨d, failed⟩ => cut _ (State.readSlot_failed failed), fun quarantined => cut s (State.readSlot_quarantined quarantined),
    fun stored bad => ?_, fun c held own => ?_, fun o held own order orderLen once head tail links => ?_⟩
  · obtain ⟨u, read, cutAt⟩ := State.Unreadable.cutAt stored bad (bucketOf token) prev
    refine ⟨_, cut u read, cutAt.quarantined, cutAt.fault, fun first => cutAt.first (by simp only [prev, first]; rfl), fun y hy => ?_⟩
    obtain ⟨intact, -⟩ := leads.last y hy
    have other : y.1 ≠ n := by
      rintro rfl
      exact State.Unreadable.not_intact bad _ intact
    exact cutAt.after y.1 y.2 (by simp only [prev, hy]; rfl) intact other
  · have found := State.lookup_record leads len others held (by rw [← own]; rfl : (Content.core c).link = some (token, c.next))
    refine ⟨fun legs listed slots => ⟨found, answers _ _ (State.queryJourney_core found ?_)⟩, fun e d listed failed =>
      ⟨found, answers _ _ (State.queryJourney_core (es := [(e, none)]) found ?_)⟩⟩
    · rw [listed]
      refine readExtensions_eq s legs fun x hx => ?_
      rw [slots x hx]
      cases x.2 <;> rfl
    · rw [listed]
      have first : s.readExtension e = (none, s.quarantine e) := by
        unfold State.readExtension
        rw [State.readSlot_failed failed]
      simp only [readExtensions, first]
  · have found := State.lookup_record leads len others held (by rw [← own]; rfl : (Content.orphan o).link = some (token, o.next))
    obtain ⟨p, walk⟩ := State.walkOrder_sound orderLen once head tail links n
    exact ⟨found, answers _ _ (State.queryJourney_orphan found walk)⟩

end Sys2Proof.Machine
end

section
/-! PROOFS. A tap-in of the current day by what its lookup finds (R85 to R91, R105 to R108): what it goes on to, and what the
handling of each ends with. -/

namespace Sys2Proof.Machine

variable {s : State}

/-! ### What a lookup leaves as it was -/

section
variable {t : State} (h : JourneyFrame s t)
include h

theorem JourneyFrame.clock : t.clock = s.clock := by rw [h]

theorem JourneyFrame.settings : t.settings = s.settings := by rw [h]

theorem JourneyFrame.tariff : t.tariff = s.tariff := by rw [h]

theorem JourneyFrame.today : t.today = s.today := by rw [State.today, State.today, h.clock]

end

theorem State.lookup_frame (s : State) (token : Token) : JourneyFrame s (s.lookup token).2 :=
  (journeyFrame_closed s).lookup token (JourneyFrame.refl s)

/-! ### The steps that end a tap-in -/

/-- A tap's handling that goes on as another ends as that one does. -/
theorem exec_goesOn {i : Instr} {r q : Handling × State} (run : exec i s = .next (finishCard r)) (step : r = q) :
    exec i s = .next (finishCard q) :=
  step ▸ run

section
variable (e : TapEntry) (x : TapContext) (o : TapOutcome) (rest : List CardStep)

theorem finishCard_nil : finishCard (cardToEnd ⟨e, x, [], o⟩ s) = s.finishTap e o := by
  rw [cardToEnd_nil]
  rfl

/-- A journey settled by another tap's handling leaves its record in the outcome (R100). -/
theorem cardToEnd_dayClose (n : Nat) (c : Core) (how : Closing) (p : Predecessor) :
    cardToEnd ⟨e, x, .closeJourney n c how {} false p :: rest, o⟩ s =
      cardToEnd ⟨e, x, rest, { o with records := o.records ++ [(s.settleCore n c how {} p).1.record] }⟩
        (s.settleCore n c how {} p).2 :=
  cardToEnd_closeJourney e x rest o s n c how {} false p

/-- A journey continued is written as it goes on (R88). -/
theorem finishCard_rewriteCore (n : Nat) (c : Core) :
    finishCard (cardToEnd ⟨e, x, [.rewriteCore n c], o⟩ s) = (s.rewrite n (.core c)).finishTap e o := by
  rw [cardToEnd_cons]
  exact finishCard_nil e x o

/-- An orphan matched gives the tap its charge (R81, R106). -/
theorem finishCard_matchOrphan (v : VerdictKind) (r : Reason) (n : Nat) (a : Orphan) (p : Predecessor) {t : State} {q : SettlementRequest}
    (released : s.releaseOrphan n a.token p = t) (trip : t.matchRequest x a = q) :
    finishCard (cardToEnd ⟨e, x, [.matchOrphan n a p], plainOutcome v r []⟩ s) =
      (t.settle q).2.finishTap e ⟨v, r, some (t.settle q).1.record.charged, (t.settle q).1.capRemaining,
        [(t.settle q).1.record]⟩ := by
  rw [cardToEnd_matchOrphan, released]
  dsimp only
  rw [trip]
  exact finishCard_nil e x _

/-- A tap-in that has its slot opens its journey (R90). -/
theorem finishCard_openCore {n : Nat} {t : State} (h : s.allocateLinked x.token (.core x.core) = (some n, t)) :
    finishCard (cardToEnd ⟨e, x, [.openCore], o⟩ s) = t.finishTap e o := by
  rw [cardToEnd_openCore, State.openCore, h]
  rfl

/-- With no slot free a linked record is not written either, and nothing changes (R56). -/
theorem State.allocateLinked_none (h : s.table.free.take = none) (token : Token) (c : Content) :
    s.allocateLinked token c = (none, s) := by
  unfold State.allocateLinked
  dsimp only
  rw [State.allocate_none h]

/-- A tap-in with no slot to be had is untracked (R91). -/
theorem finishCard_openCore_noSlot (h : s.table.free.take = none) :
    finishCard (cardToEnd ⟨e, x, [.openCore], o⟩ s) = s.finishTap e { o with
      verdict := .allowNote, reason := .untracked, records := o.records ++ [s.tapRecord x .entryUntracked] } := by
  rw [cardToEnd_openCore, State.openCore, State.allocateLinked_none h]
  rfl

end

/-! ### What a tap-in goes on to (R85 to R89, R105) -/

section
variable (h : Handling) {p : Option Nat} {n : Nat} {c : Core} {o : Orphan} (before : Predecessor)

theorem State.decideTapIn_today (today : c.day = s.today) :
    s.decideTapIn h (some ⟨p, n, .core c⟩) = s.decideTapInCore h (.known p) n c :=
  if_pos today

theorem State.decideTapIn_otherDay (other : c.day ≠ s.today) : s.decideTapIn h (some ⟨p, n, .core c⟩) =
    (h.answer .allow .none).push [.closeJourney n c c.dayClosing {} false (.known p), .openCore] :=
  if_neg other

theorem State.decideTapInCore_passback (opened : c.state = .opened)
    (again : h.context.station = c.entryStation ∧ h.context.time - c.entryTime ≤ s.passbackWindow) :
    s.decideTapInCore h before n c = (h.answer .refuse .alreadyInside).add (s.tapRecord h.context .refusal) := by
  simp only [State.decideTapInCore, opened]
  exact if_pos again

theorem State.decideTapInCore_opened (opened : c.state = .opened)
    (notAgain : ¬(h.context.station = c.entryStation ∧ h.context.time - c.entryTime ≤ s.passbackWindow)) :
    s.decideTapInCore h before n c =
      (h.answer .allowNote .previousSettled).push [.closeJourney n c .incomplete {} false before, .openCore] := by
  simp only [State.decideTapInCore, opened]
  exact if_neg notAgain

theorem State.decideTapInCore_continued {out : Nat} (broken : c.state = .broken out)
    (within : h.context.time - out ≤ s.breakWindow) :
    s.decideTapInCore h before n c = (h.answer .allow .none).push [.rewriteCore n (c.continued h.context)] := by
  simp only [State.decideTapInCore, broken]
  exact if_pos within

theorem State.decideTapInCore_broken {out : Nat} (broken : c.state = .broken out)
    (beyond : s.breakWindow < h.context.time - out) : s.decideTapInCore h before n c =
      (h.answer .allow .none).push [.closeJourney n c .completedLegs {} false before, .openCore] := by
  simp only [State.decideTapInCore, broken]
  exact if_neg (Nat.not_le.2 beyond)

theorem State.decideTapIn_matched (matching : s.matchesOrphan h.context o = true) :
    s.decideTapIn h (some ⟨p, n, .orphan o⟩) = (h.answer .allow .none).push [.matchOrphan n o (.known p)] :=
  if_pos matching

theorem State.decideTapIn_unmatched (unmatched : s.matchesOrphan h.context o ≠ true) :
    s.decideTapIn h (some ⟨p, n, .orphan o⟩) =
      (h.answer .allow .none).push [.closeOrphan n o (.known p), .openCore] :=
  if_neg unmatched

end

/-- The match of a tap-in and an orphan (R105). -/
theorem State.matchesOrphan_iff {x : TapContext} {o : Orphan} : s.matchesOrphan x o = true ↔
    o.day = s.today ∧ x.time ≤ o.exitTime ∧ o.exitTime - x.time ≤ s.settings.journey.maxDuration * 600 := by
  simp [State.matchesOrphan, State.maxDuration, and_assoc]

/-- The trip of a tap-in of a station and the orphan it matches, as the current day type stands (R106, R107). -/
theorem State.matchRequest_eq (x : TapContext) (o : Orphan) {station : Nat} (at_ : x.station = station) {dayType : DayType}
    (stands : s.clock.dayType = dayType) : s.matchRequest x o =
    { token := x.token, cls := x.cls, day := o.day, flags := { x.flags with clockDoubt := false }.union o.flags
      case := if o.exitStation = station then .sameStation station x.time o.exitTime
        else .completed dayType x.time [⟨some ⟨station, x.time⟩, some ⟨o.exitStation, o.exitTime⟩, none⟩] } := by
  rw [← at_, ← stands]
  rfl

/-! ### A tap-in of the current day -/

/-- A tap-in that is not refused goes on to what its lookup calls for. -/
theorem State.Takes.tapIn {e : TapEntry} {rest : List TapEntry} (takes : s.Takes e rest) (tapIn : e.tap.direction = 0)
    (day : s.today ≤ e.tap.day) (admitted : e.tap.token ∈ s.deny → e.tap.gateDecided = 1) {l : State} {found : Option Found}
    (lookup : (s.tapTaken rest).lookup e.tap.token = (found, l)) {h : Handling}
    (goesOn : l.decideTapIn ⟨e, s.checkedTap e, [], plainOutcome .allow .none []⟩ found = h) :
    exec (.tapTake none) s = .next (finishCard (cardToEnd h l)) := by
  rw [takes.tapTake (.inr ⟨day, admitted⟩), lookup, ← goesOn]
  have direction : e.tap.direction ≠ 1 := by rw [tapIn]; decide
  simp only [State.afterLookup, if_neg direction]
  rfl

/-- The core that a tap-in of the current day opens (R90). -/
theorem State.checkedTap_core {e : TapEntry} (day : s.today ≤ e.tap.day) : (s.checkedTap e).core =
    { token := e.tap.token, cls := (s.checkedTap e).cls, day := s.today, dayType := s.clock.dayType, state := .opened
      entryStation := e.tap.station, entryTime := (s.checkedTap e).time, firstEntryTime := (s.checkedTap e).time
      entryGate := e.tap.gate, extensions := [], flags := (s.checkedTap e).flags, next := none } := by
  obtain ⟨token, station, gate, ofDay, dayType, -⟩ := State.checkedTap_today day
  simp only [TapContext.core, token, station, gate, ofDay, dayType]

/-- Settles O38: by what the lookup returns, each case through the steps it calls for. -/
theorem tapInByWhatItFinds : Obligations.TapInByWhatItFinds := by
  unfold Obligations.TapInByWhatItFinds
  intro s e rest takes tapIn day admitted x found l gives opens
  obtain ⟨token, station, gate, ofDay, dayType, stamp, earlier, offline⟩ := State.checkedTap_today day
  have frame : JourneyFrame (s.tapTaken rest) l := State.lookup_frame _ _
  have today : l.today = s.today := frame.today
  have settings : l.settings = s.settings := frame.settings
  have runs : ∀ r h, found.1 = r → l.decideTapIn ⟨e, x, [], plainOutcome .allow .none []⟩ r = h →
      exec (.tapTake none) s = .next (finishCard (cardToEnd h l)) := fun r h returned goesOn =>
    takes.tapIn tapIn day admitted (Prod.ext returned rfl) goesOn
  have opened : ∀ u v reason rs,
      exec (.tapTake none) s = .next (finishCard (cardToEnd ⟨e, x, [.openCore], ⟨v, reason, none, none, rs⟩⟩ u)) →
      opens u v reason rs := fun u v reason rs run => by
    refine ⟨fun n t allocated => ?_, fun noSlot => ?_⟩
    · rw [← State.checkedTap_core day, ← token] at allocated
      exact run.trans (congrArg _ (finishCard_openCore e x _ allocated))
    · exact run.trans (congrArg _ (finishCard_openCore_noSlot e x _ noSlot))
  have closes : ∀ n c how p v reason,
      exec (.tapTake none) s = .next (finishCard (cardToEnd
        ⟨e, x, [.closeJourney n c how {} false p, .openCore], ⟨v, reason, none, none, []⟩⟩ l)) →
      opens (l.settleCore n c how {} p).2 v reason [(l.settleCore n c how {} p).1.record] :=
    fun n c how p v reason run => opened _ _ _ _ (exec_goesOn run (cardToEnd_dayClose e x _ _ n c how p))
  have ofPassback : l.passbackWindow = s.settings.journey.passbackWindow * 10 := by rw [State.passbackWindow, settings]
  have ofBreak : l.breakWindow = s.settings.journey.breakWindow * 600 := by rw [State.breakWindow, settings]
  let h : Handling := ⟨e, x, [], plainOutcome .allow .none []⟩
  refine ⟨fun nothing => ?_, fun p n c core ofToday => ⟨fun inside => ⟨fun again => ?_, fun notAgain => ?_⟩,
    fun out broken => ⟨fun within => ?_, fun beyond => ?_⟩⟩, fun p n c how core otherDay closing => ?_, fun p n o orphan => ?_⟩
  · exact opened _ _ _ _ (runs _ _ nothing rfl)
  · rw [← station, ← ofPassback] at again
    refine (runs _ _ core ((l.decideTapIn_today h (ofToday.trans today.symm)).trans
      (l.decideTapInCore_passback h (.known p) inside again))).trans (congrArg _ (finishCard_nil e x _))
  · rw [← station, ← ofPassback] at notAgain
    exact closes _ _ _ _ _ _ (runs _ _ core ((l.decideTapIn_today h (ofToday.trans today.symm)).trans
      (l.decideTapInCore_opened h (.known p) inside notAgain)))
  · rw [← ofBreak] at within
    have run := runs _ _ core ((l.decideTapIn_today h (ofToday.trans today.symm)).trans
      (l.decideTapInCore_continued h (.known p) broken within))
    have continued : c.continued x = { c with
        state := .opened, entryStation := e.tap.station, entryTime := x.time
        flags := c.flags.union
          { offlineEntry := e.tap.gateDecided == 1, timeClamped := x.flags.timeClamped, denied := x.flags.denied
            clockDoubt := x.flags.clockDoubt } } := by
      rw [← station, ← offline]
      rfl
    rw [← continued]
    exact run.trans (congrArg _ (finishCard_rewriteCore e x _ n _))
  · rw [← ofBreak] at beyond
    exact closes _ _ _ _ _ _ (runs _ _ core ((l.decideTapIn_today h (ofToday.trans today.symm)).trans
      (l.decideTapInCore_broken h (.known p) broken beyond)))
  · obtain rfl : how = c.dayClosing := closing
    exact closes _ _ _ _ _ _ (runs _ _ core (l.decideTapIn_otherDay h fun k => otherDay (k.trans today)))
  · intro matching trip r
    have matches_iff : l.matchesOrphan x o = true ↔ o.day = s.today ∧ x.time ≤ o.exitTime ∧
        o.exitTime - x.time ≤ s.settings.journey.maxDuration * 600 := by
      rw [State.matchesOrphan_iff, today, settings]
    refine ⟨fun isMatch => ?_, fun unmatched => ?_⟩
    · have run := runs _ _ orphan (l.decideTapIn_matched h (matches_iff.2 isMatch))
      have dayType' : (l.releaseOrphan n o.token (.known p)).clock.dayType = s.clock.dayType := by
        rw [((journeyFrame_closed l).releaseOrphan n o.token (.known p) (JourneyFrame.refl l)).clock, frame.clock]
        rfl
      have request : (l.releaseOrphan n o.token (.known p)).matchRequest x o = trip := by
        rw [State.matchRequest_eq x o station dayType', isMatch.1, token]
      exact run.trans (congrArg _ (finishCard_matchOrphan e x _ _ n o (.known p) rfl request))
    · have run := runs _ _ orphan (l.decideTapIn_unmatched h fun k => unmatched (matches_iff.1 k))
      exact opened _ _ _ _ (exec_goesOn run (cardToEnd_closeOrphan e x _ _ l n o (.known p)))

end Sys2Proof.Machine
end

section
/-! PROOFS. A tap-out of the current day that finds no OPEN journey of it (R92, R97, R101, R102): what it goes on to, the room made
on the orphan order, and the orphan stored. -/

namespace Sys2Proof.Machine

variable {s : State}

/-! ### The steps that end a tap-out without a journey -/

section
variable (e : TapEntry) (x : TapContext) (o : TapOutcome) (rest : List CardStep)

/-- Where the orphan order has room nothing gives way (R58). -/
theorem cardToEnd_makeRoom (room : s.table.order.length < 512) :
    cardToEnd ⟨e, x, .makeRoom :: rest, o⟩ s = cardToEnd ⟨e, x, rest, o⟩ s := by
  rw [cardToEnd_cons, State.cardStep, State.makeRoom, if_pos room]

section
variable {n : Nat} (full : 512 ≤ s.table.order.length) (head : s.table.order.head = some n)
include full head

theorem State.makeRoom_oldest (h : Handling) {a : Orphan} {t : State} (read : s.readSlot n = (some (.orphan a), t)) :
    s.makeRoom h = (h.push [.closeOrphan n a .sought], t) := by
  unfold State.makeRoom
  rw [if_neg (Nat.not_lt.2 full), head]
  dsimp only
  rw [read]

theorem State.makeRoom_cut (h : Handling) {t : State} (read : s.readSlot n = (none, t)) :
    s.makeRoom h = (h, t.setOrder ⟨none, none, 0⟩) := by
  unfold State.makeRoom
  rw [if_neg (Nat.not_lt.2 full), head]
  dsimp only
  rw [read]
  rfl

/-- The oldest orphan of a full order is settled (R58, R102). -/
theorem cardToEnd_makeRoom_oldest {a : Orphan} (held : s.slot n = some (.allocated (.orphan a) true)) :
    cardToEnd ⟨e, x, .makeRoom :: rest, o⟩ s =
      cardToEnd ⟨e, x, rest, { o with records := o.records ++ [(s.settleOrphan n a {}).1] }⟩ (s.settleOrphan n a {}).2 := by
  rw [cardToEnd_cons, State.cardStep, State.makeRoom_oldest full head _ (State.readSlot_of_intact held)]
  exact cardToEnd_closeOrphan e x rest o s n a .sought

/-- A head of a full order that cannot be read cuts the order to nothing (R66). -/
theorem cardToEnd_makeRoom_cut {t : State} (read : s.readSlot n = (none, t)) :
    cardToEnd ⟨e, x, .makeRoom :: rest, o⟩ s = cardToEnd ⟨e, x, rest, o⟩ (t.setOrder ⟨none, none, 0⟩) := by
  rw [cardToEnd_cons, State.cardStep, State.makeRoom_cut full head _ read]

end

/-- An orphan that has its slot joins the order (R97, R101). -/
theorem finishCard_storeOrphan {n : Nat} {t : State} (h : s.allocateLinked x.token (.orphan x.orphan) = (some n, t)) :
    finishCard (cardToEnd ⟨e, x, [.storeOrphan], o⟩ s) = (t.appendToOrder n).finishTap e o := by
  rw [cardToEnd_cons, State.cardStep, State.storeOrphan, h]
  exact (congrArg finishCard (cardToEnd_cons e x [] o t (.joinOrder n))).trans (finishCard_nil e x o)

/-- A tap-out with no slot to be had is settled at once (R61, R97). -/
theorem finishCard_storeOrphan_noSlot (h : s.table.free.take = none) :
    finishCard (cardToEnd ⟨e, x, [.storeOrphan], o⟩ s) =
      s.finishTap e { o with records := o.records ++ [(s.reckon x.unmatched).record] } := by
  rw [cardToEnd_cons, State.cardStep, State.storeOrphan, State.allocateLinked_none h]
  exact (congrArg finishCard (cardToEnd_reckon e x [] o s x.unmatched false)).trans (finishCard_nil e x _)

end

/-! ### What a tap-out goes on to (R92, R97) -/

section
variable (h : Handling) {p : Option Nat} {n : Nat} {c : Core}

theorem State.decideTapOut_broken {out : Nat} (today : c.day = s.today) (broken : c.state = .broken out) :
    s.decideTapOut h (some ⟨p, n, .core c⟩) = (h.answer .allow .noEntryFound).push
      [.closeJourney n c .completedLegs {} false (.known p), .makeRoom, .storeOrphan] := by
  unfold State.decideTapOut
  dsimp only
  rw [if_pos today, broken]

theorem State.decideTapOut_otherDay (other : c.day ≠ s.today) :
    s.decideTapOut h (some ⟨p, n, .core c⟩) = (h.answer .allow .noEntryFound).push
      [.closeJourney n c c.dayClosing {} false (.known p), .makeRoom, .storeOrphan] :=
  if_neg other

end

/-- A tap-out of the current day goes on to what its lookup calls for. -/
theorem State.Takes.tapOut {e : TapEntry} {rest : List TapEntry} (takes : s.Takes e rest) (out : e.tap.direction = 1)
    (day : s.today ≤ e.tap.day) {l : State} {found : Option Found}
    (lookup : (s.tapTaken rest).lookup e.tap.token = (found, l)) {h : Handling}
    (goesOn : l.decideTapOut ⟨e, s.checkedTap e, [], plainOutcome .allow .none []⟩ found = h) :
    exec (.tapTake none) s = .next (finishCard (cardToEnd h l)) := by
  obtain ⟨-, -, -, -, -, -, earlier, -⟩ := State.checkedTap_today day
  rw [takes.tapTake (.inl out), lookup, ← goesOn]
  simp only [State.afterLookup, if_pos out, earlier]
  rfl

/-- The orphan that a tap-out of the current day stores (R97, R101). -/
theorem State.checkedTap_orphan {e : TapEntry} (day : s.today ≤ e.tap.day) : (s.checkedTap e).orphan =
    { token := e.tap.token, cls := (s.checkedTap e).cls, day := s.today, exitStation := e.tap.station
      exitGate := e.tap.gate, exitTime := (s.checkedTap e).time, arrival := e.stamp, flags := (s.checkedTap e).flags
      next := none, nextOrder := none } := by
  obtain ⟨token, station, gate, ofDay, -, stamp, -⟩ := State.checkedTap_today day
  simp only [TapContext.orphan, token, station, gate, ofDay, stamp]

/-- The request that settles a tap-out of the current day by itself (R61). -/
theorem State.checkedTap_unmatched {e : TapEntry} (day : s.today ≤ e.tap.day) : (s.checkedTap e).unmatched =
    ⟨e.tap.token, (s.checkedTap e).cls, s.today, (s.checkedTap e).flags,
      .unmatched e.tap.station (s.checkedTap e).time⟩ := by
  obtain ⟨token, station, gate, ofDay, -⟩ := State.checkedTap_today day
  simp only [TapContext.unmatched, TapContext.request, token, station, ofDay]

/-- The class and the flags with which a tap-out of the current day is taken (R79, R80). -/
theorem State.checkedTap_out_flags {e : TapEntry} (day : s.today ≤ e.tap.day) (out : e.tap.direction = 1) :
    (s.checkedTap e).cls = (classLookup s.tariff.liveBank e.tap.cls).cls ∧ (s.checkedTap e).flags =
      { offlineExit := e.tap.gateDecided == 1, timeClamped := s.takenLate e.tap, clockDoubt := s.clock.doubt
        denied := s.deny.contains e.tap.token
        classSubstituted := (classLookup s.tariff.liveBank e.tap.cls).substituted } := by
  obtain ⟨-, clamped, -⟩ := State.checkedTap_out day out
  rw [← clamped]
  unfold State.checkedTap
  rw [if_neg (Nat.not_lt.2 day)]
  simp [State.tapContext, out]

/-! ### An orphan joins the order (R57) -/

theorem State.appendToOrder_empty (h : s.table.order.tail = none) (n : Nat) :
    s.appendToOrder n = s.setOrder ⟨some n, some n, 1⟩ := by
  unfold State.appendToOrder
  rw [h]
  rfl

theorem State.appendToOrder_after {m : Nat} {o : Orphan} (tail : s.table.order.tail = some m)
    (held : s.slot m = some (.allocated (.orphan o) true)) (n : Nat) :
    s.appendToOrder n = (s.rewrite m (.orphan { o with nextOrder := some n })).setOrder
      ⟨s.table.order.head, some n, s.table.order.length + 1⟩ := by
  have next : s.setNextOrder m (some n) = s.rewrite m (.orphan { o with nextOrder := some n }) := by
    unfold State.setNextOrder
    rw [held]
  unfold State.appendToOrder
  rw [tail]
  dsimp only
  rw [State.readSlot_of_intact held]
  dsimp only [State.linkAtTail]
  rw [next]

/-! ### A tap-out whose card's chain is empty -/

/-- A record allocated and linked at the head of an empty chain: what it writes, and what it leaves (R54, R55). -/
theorem State.allocateLinked_first {token : Token} {n : Nat} {f : FreeList} (take : s.table.free.take = some (n, f))
    (heads : sparseWf s.table.heads = true) (empty : s.bucketHead (bucketOf token) = none) (c : Content) :
    ∃ t, s.allocateLinked token c = (some n, t) ∧ t.table.slots = sparsePut s.table.slots n (.allocated (c.withNext none) true) ∧
      t.bucketHead (bucketOf token) = some n ∧ t.table.free = f ∧ t.table.order = s.table.order ∧ t.cap = s.cap ∧
      t.table.counts = (s.table.counts.lower .free).lift c.kind ∧ JourneyFrame s t := by
  obtain ⟨u, allocated, slots, sameHeads, free, order, cap, counts⟩ := State.allocate_fields take (c.withNext none)
  have frame := (journeyFrame_closed s).allocate s (c.withNext none) (JourneyFrame.refl s)
  rw [allocated] at frame
  rw [Content.withNext_kind] at counts
  refine ⟨u.setBucketHead (bucketOf token) (some n), ?_, slots, ?_, free, order, cap, counts, frame.trans rfl⟩
  · unfold State.allocateLinked
    dsimp only
    rw [empty, allocated]
  · exact State.bucketHead_setBucketHead u _ _ (by rw [sameHeads]; exact heads)

/-- Settles O40: by what the lookup returns, each case through the steps it calls for. -/
theorem tapOutStoresAnOrphan : Obligations.TapOutStoresAnOrphan := by
  unfold Obligations.TapOutStoresAnOrphan
  refine ⟨?_, fun s n => ⟨fun empty => State.appendToOrder_empty empty n,
    fun m o tail held => State.appendToOrder_after tail held n⟩, ?_⟩
  · intro s e rest takes out day x found l gives stored stores
    obtain ⟨token, -⟩ := State.checkedTap_today day
    have frame : JourneyFrame (s.tapTaken rest) l := State.lookup_frame _ _
    have today : l.today = s.today := frame.today
    have runs : ∀ r h, found.1 = r → l.decideTapOut ⟨e, x, [], plainOutcome .allow .none []⟩ r = h →
        exec (.tapTake none) s = .next (finishCard (cardToEnd h l)) := fun r h returned goesOn =>
      takes.tapOut out day (Prod.ext returned rfl) goesOn
    have isStored : ∀ u rs, exec (.tapTake none) s =
        .next (finishCard (cardToEnd ⟨e, x, [.storeOrphan], ⟨.allow, .noEntryFound, none, none, rs⟩⟩ u)) → stored u rs :=
      fun u rs run => by
        refine ⟨fun n t allocated => ?_, fun noSlot => ?_⟩
        · rw [← State.checkedTap_orphan day, ← token] at allocated
          exact run.trans (congrArg _ (finishCard_storeOrphan e x _ allocated))
        · rw [← State.checkedTap_unmatched day]
          exact run.trans (congrArg _ (finishCard_storeOrphan_noSlot e x _ noSlot))
    have isStores : ∀ u rs, exec (.tapTake none) s = .next (finishCard (cardToEnd
        ⟨e, x, [.makeRoom, .storeOrphan], ⟨.allow, .noEntryFound, none, none, rs⟩⟩ u)) → stores u rs := fun u rs run => by
      refine ⟨fun room => ?_, fun full n head => ⟨fun o held => ?_, fun d failed => ?_, fun quarantined => ?_⟩⟩
      · exact isStored _ _ (exec_goesOn run (cardToEnd_makeRoom e x _ _ room))
      · exact isStored _ _ (exec_goesOn run (cardToEnd_makeRoom_oldest e x _ _ full head held))
      · exact isStored _ _ (exec_goesOn run (cardToEnd_makeRoom_cut e x _ _ full head (State.readSlot_failed failed)))
      · exact isStored _ _ (exec_goesOn run (cardToEnd_makeRoom_cut e x _ _ full head (State.readSlot_quarantined quarantined)))
    have closes : ∀ n c how p, exec (.tapTake none) s = .next (finishCard (cardToEnd
        ⟨e, x, [.closeJourney n c how {} false p, .makeRoom, .storeOrphan], ⟨.allow, .noEntryFound, none, none, []⟩⟩ l)) →
        stores (l.settleCore n c how {} p).2 [(l.settleCore n c how {} p).1.record] := fun n c how p run =>
      isStores _ _ (exec_goesOn run (cardToEnd_dayClose e x _ _ n c how p))
    let h : Handling := ⟨e, x, [], plainOutcome .allow .none []⟩
    refine ⟨fun nothing => isStores _ _ (runs _ _ nothing rfl), fun p n c out core ofToday broken => ?_,
      fun p n c how core otherDay closing => ?_, fun p n o orphan => ?_⟩
    · exact closes _ _ _ _ (runs _ _ core (l.decideTapOut_broken h (ofToday.trans today.symm) broken))
    · obtain rfl : how = c.dayClosing := closing
      exact closes _ _ _ _ (runs _ _ core (l.decideTapOut_otherDay h fun k => otherDay (k.trans today)))
    · exact isStores _ _ (exec_goesOn (runs _ _ orphan rfl) (cardToEnd_closeOrphan e x _ _ l n o (.known p)))
  · intro s e rest n f stored takes out day empty room take clamped found placed
    let o₀ : TapOutcome := ⟨.allow, .noEntryFound, none, none, []⟩
    obtain ⟨token, -⟩ := State.checkedTap_today day
    obtain ⟨time, -⟩ := State.checkedTap_out day out
    obtain ⟨cls, flags⟩ := State.checkedTap_out_flags day out
    have orphan := State.checkedTap_orphan day
    rw [cls, flags, time] at orphan
    obtain ⟨t, allocated, slots, head, free, order, cap, counts, frame⟩ := State.allocateLinked_first
      (s := s.tapTaken rest) take stored.heads empty (.orphan (s.checkedTap e).orphan)
    have nothing : (s.tapTaken rest).lookup e.tap.token = (none, s.tapTaken rest) :=
      State.lookup_end (before := []) empty (by simp) (by simp)
    have goesOn : exec (.tapTake none) s = .next (finishCard (cardToEnd
        ⟨e, s.checkedTap e, [.makeRoom, .storeOrphan], o₀⟩ (s.tapTaken rest))) := takes.tapOut out day nothing rfl
    have run := exec_goesOn goesOn (cardToEnd_makeRoom e _ _ _ room)
    rw [← token] at allocated
    rw [finishCard_storeOrphan e _ _ allocated] at run
    have place : ∀ slots' joined (same : Nat → Prop),
        t.appendToOrder n = { t with table := { t.table with slots := slots', order := joined } } →
        sparseGet slots' n = sparseGet t.table.slots n → (∀ m, m ≠ n → same m → sparseGet slots' m = t.slot m) →
        (∀ m o, ¬same m → s.slot m = some (.allocated (.orphan o) true) →
          sparseGet slots' m = some (.allocated (.orphan { o with nextOrder := some n }) true)) → placed joined same := by
      intro slots' joined same joins own others linked
      rw [joins, State.finishTap_none _ _ rfl] at run
      obtain ⟨queue, stale, offered⟩ := State.verdictOffered_eq
        { t with table := { t.table with slots := slots', order := joined } } e o₀
      have verdicts := State.verdictOffered_verdicts (s := s)
        (t := { t with table := { t.table with slots := slots', order := joined } }) frame.clock frame.settings
        (by show t.verdicts = s.verdicts; rw [frame]; rfl) e o₀
      rw [offered] at run verdicts
      refine ⟨_, run, ?_, head, rfl, free, counts, ?_, cap, rfl, fun m hm hs => ?_, linked, verdicts⟩
      · refine own.trans ?_
        rw [slots, sparseGet_put_self, orphan]
        rfl
      · show t.records = s.records
        rw [frame]
        rfl
      · exact (others m hm hs).trans (State.slot_put_other slots hm)
    refine ⟨fun tail => ?_, fun m o tail held => ?_⟩
    · refine place _ _ _ (State.appendToOrder_empty (s := t) (by rw [order]; exact tail) n) rfl (fun _ _ _ => rfl)
        fun m o k => absurd trivial k
    · have other : m ≠ n := by
        rintro rfl
        have free := ((stored.freeSlots m).1 (FreeList.mem_of_take take)).2
        rw [held] at free
        cases free
      have heldNow : t.slot m = some (.allocated (.orphan o) true) := (State.slot_put_other slots other).trans held
      have joins := State.appendToOrder_after (s := t) (by rw [order]; exact tail) heldNow n
      have kind : t.kind m = .orphan := State.kind_of_allocated heldNow
      rw [State.rewrite_eq (c := .orphan { o with nextOrder := some n }) kind, order] at joins
      refine place _ _ _ joins (sparseGet_put_other _ _ _ _ other.symm) (fun k _ same => sparseGet_put_other _ _ _ _ same)
        fun k o' same held' => ?_
      obtain rfl : k = m := not_not.1 same
      rw [held] at held'
      cases held'
      exact sparseGet_put_self _ _ _

end Sys2Proof.Machine
end

section
/-! PROOFS. A tap in HANDLING (R62, R75, R78): how it is checked when it is taken, how its steps go on from where they rest, and
what its handling leaves. -/

namespace Sys2Proof.Machine

variable {s : State}

/-! ### The tap as taken (R79, R80, R111) -/

/-- Whether a tap is taken at the service time: it is of a later day, or of the current one beyond the future tolerance. -/
def State.clampsTap (s : State) (t : Tap) : Bool :=
  decide (s.today < t.day ∨ t.day = s.today ∧ s.clock.time + s.settings.timing.futureTolerance * 10 < t.time)

theorem State.checkedTap_eq (s : State) (e : TapEntry) : s.checkedTap e =
    s.tapContext e (if s.today < e.tap.day then s.today else e.tap.day)
      (if s.clampsTap e.tap then s.clock.time else e.tap.time) (s.clampsTap e.tap) := by
  rcases Nat.lt_trichotomy e.tap.day s.today with earlier | today | later
  · have taken : s.clampsTap e.tap = false := decide_eq_false (by omega)
    rw [State.checkedTap, if_pos earlier, if_neg (Nat.lt_asymm earlier), taken]
    rfl
  · have notLater : ¬s.today < e.tap.day := by omega
    rw [State.checkedTap, if_neg (by omega), if_neg notLater]
    by_cases late : s.clock.time + s.settings.timing.futureTolerance * 10 < e.tap.time
    · have clamped : s.clampTap e.tap = (e.tap.day, s.clock.time, true) := (if_neg notLater).trans (if_pos late)
      have taken : s.clampsTap e.tap = true := decide_eq_true (.inr ⟨today, late⟩)
      rw [clamped, taken]
      rfl
    · have clamped : s.clampTap e.tap = (e.tap.day, e.tap.time, false) := (if_neg notLater).trans (if_neg late)
      have taken : s.clampsTap e.tap = false := decide_eq_false (by tauto)
      rw [clamped, taken]
      rfl
  · have clamped : s.clampTap e.tap = (s.today, s.clock.time, true) := if_pos later
    have taken : s.clampsTap e.tap = true := decide_eq_true (.inl later)
    rw [State.checkedTap, if_neg (Nat.lt_asymm later), clamped, if_pos later, taken]
    rfl

/-- What a tap enters HANDLING as, when it makes a card operation (R80). -/
theorem State.beginHandling_lookup {e : TapEntry} (h : e.tap.direction = 1 ∨
    (s.today ≤ e.tap.day ∧ (e.tap.token ∈ s.deny → e.tap.gateDecided = 1))) :
    s.beginHandling e = ⟨e, s.checkedTap e, [.lookup], plainOutcome .allow .none []⟩ := by
  have offline : (s.checkedTap e).offline = (e.tap.gateDecided == 1) := by rw [State.checkedTap_eq]; rfl
  have denied : (s.checkedTap e).denied = s.deny.contains e.tap.token := by rw [State.checkedTap_eq]; rfl
  have earlier : (s.checkedTap e).earlier = decide (e.tap.day < s.today) := by rw [State.checkedTap_eq]; rfl
  unfold State.beginHandling
  dsimp only
  rw [if_neg, if_neg]
  · rfl
  · rintro ⟨tapIn, k⟩
    rw [earlier, decide_eq_true_eq] at k
    exact h.elim tapIn fun ⟨day, _⟩ => Nat.not_lt.2 day k
  · rintro ⟨tapIn, listed, live⟩
    obtain ⟨-, admitted⟩ := h.resolve_left tapIn
    rw [denied, List.contains_iff_mem] at listed
    rw [offline, admitted listed] at live
    cases live

/-- A tap-in of an earlier day enters HANDLING to be settled at once (R112). -/
theorem State.beginHandling_earlier {e : TapEntry} (tapIn : e.tap.direction = 0) (day : e.tap.day < s.today)
    (admitted : e.tap.token ∈ s.deny → e.tap.gateDecided = 1) : s.beginHandling e =
      ⟨e, s.checkedTap e, [.reckon (s.checkedTap e).incomplete false], plainOutcome .allowNote .untracked []⟩ := by
  have offline : (s.checkedTap e).offline = (e.tap.gateDecided == 1) := by rw [State.checkedTap_eq]; rfl
  have denied : (s.checkedTap e).denied = s.deny.contains e.tap.token := by rw [State.checkedTap_eq]; rfl
  have earlier : (s.checkedTap e).earlier = true := by rw [State.checkedTap_eq]; exact decide_eq_true day
  have notOut : e.tap.direction ≠ 1 := by rw [tapIn]; decide
  unfold State.beginHandling
  dsimp only
  rw [if_neg, if_pos ⟨notOut, earlier⟩]
  · rfl
  · rintro ⟨-, listed, live⟩
    rw [denied, List.contains_iff_mem] at listed
    rw [offline, admitted listed] at live
    cases live

/-- The request that settles a tap-in of an earlier day, whose day and time are kept (R111, R112). -/
theorem State.checkedTap_incomplete {e : TapEntry} (day : e.tap.day < s.today) : (s.checkedTap e).incomplete =
    ⟨e.tap.token, (s.checkedTap e).cls, e.tap.day, (s.checkedTap e).flags,
      .incomplete [⟨some ⟨e.tap.station, e.tap.time⟩, none, none⟩]⟩ := by
  rw [State.checkedTap, if_pos day]
  rfl

/-! ### How a tap goes on (R62) -/

section
variable {h : Handling}

theorem exec_tapTake_handling (unit : s.unit = .handling h) (k : Option Nat) :
    exec (.tapTake k) s = .next (s.handle h k) := by
  simp only [exec, execTapTake, unit]

theorem State.Takes.exec {e : TapEntry} {rest : List TapEntry} (takes : s.Takes e rest) (k : Option Nat) :
    exec (.tapTake k) s = .next ((s.tapTaken rest).handle ((s.tapTaken rest).beginHandling e) k) := by
  obtain ⟨unit, stall, mode, taps, formed⟩ := takes
  have mode : (s.tapTaken rest).mode = .service := mode
  simp only [Machine.exec, execTapTake, unit, taps, stall, State.takeTap, formed, mode]
  rfl

/-- A tap taken over no step rests with its checks made. -/
theorem State.handle_zero (left : h.steps ≠ []) : s.handle h (some 0) = { s with unit := .handling h } :=
  if_neg left

/-- A tap handled over one step rests where that leaves a step, and is else finished. -/
theorem State.handle_one {x : CardStep} {later : List CardStep} (steps : h.steps = x :: later) {r : Handling × State}
    (step : s.cardStep { h with steps := later } x = r) :
    (r.1.steps ≠ [] → s.handle h (some 1) = { r.2 with unit := .handling r.1 }) ∧
      (r.1.steps = [] → s.handle h (some 1) = r.2.finishTap r.1.entry r.1.outcome) := by
  have run : runCard 1 h s = r := by rw [← step, runCard, steps]; rfl
  unfold State.handle
  rw [Option.getD_some, run]
  exact ⟨fun left => if_neg left, fun done => if_pos done⟩

/-- What a TAP_TAKE that leaves a tap in HANDLING was handling, over however many steps it had been. -/
theorem exec_tapTake_handles {k : Option Nat} {t : State} (run : exec (.tapTake k) s = .next t)
    (handling : t.unit = .handling h) : ∃ u g, ∀ j, exec (.tapTake j) s = .next (State.handle u g j) := by
  cases unit : s.unit with
  | handling g => exact ⟨s, g, exec_tapTake_handling unit⟩
  | appending rs =>
    have stays : exec (.tapTake k) s = .next s := by simp only [exec, execTapTake, unit]
    obtain rfl := Host.Outcome.next.inj (stays.symm.trans run)
    rw [unit] at handling
    cases handling
  | idle =>
    cases taps : s.taps with
    | nil =>
      have stays : exec (.tapTake k) s = .next s := by simp only [exec, execTapTake, unit, taps]
      obtain rfl := Host.Outcome.next.inj (stays.symm.trans run)
      rw [unit] at handling
      cases handling
    | cons e rest =>
      have takes : ∀ j, exec (.tapTake j) s = if s.stall then .next s else .next ((s.tapTaken rest).takeTap e j) := fun j => by
        simp only [exec, execTapTake, unit, taps]
      rw [takes k] at run
      split at run
      · obtain rfl := Host.Outcome.next.inj run
        rw [unit] at handling
        cases handling
      next clear =>
        obtain rfl := Host.Outcome.next.inj run
        by_cases formed : e.tap.wellFormed = false
        · rw [State.takeTap, if_pos formed] at handling
          exact absurd (unit.symm.trans handling) nofun
        cases mode : s.mode with
        | maintenance =>
          simp only [State.takeTap, if_neg formed, show (s.tapTaken rest).mode = .maintenance from mode] at handling
          exact absurd handling (State.finishTap_unit _ _ _ _)
        | service =>
          refine ⟨s.tapTaken rest, (s.tapTaken rest).beginHandling e, fun j => ?_⟩
          rw [takes j, if_neg clear]
          simp only [State.takeTap, if_neg formed, show (s.tapTaken rest).mode = .service from mode]

/-- A tap that rests goes on to what it would have come to. -/
theorem exec_tapTake_resumes {k : Nat} {t : State} (run : exec (.tapTake (some k)) s = .next t)
    (handling : t.unit = .handling h) (j : Option Nat) :
    exec (.tapTake j) t = exec (.tapTake (j.map (k + ·))) s := by
  obtain ⟨u, g, handles⟩ := exec_tapTake_handles run handling
  rw [handles] at run
  obtain rfl := Host.Outcome.next.inj run
  have rests : u.handle g (some k) = { (runCard k g u).2 with unit := .handling (runCard k g u).1 } := by
    unfold State.handle at handling ⊢
    dsimp only at handling ⊢
    split at handling
    · exact absurd handling (State.finishTap_unit _ _ _ _)
    next left => exact if_neg left
  rw [handles, ← State.handle_resume u g k j, rests]
  exact exec_tapTake_handling rfl j

end

/-! ### What a tap's handling leaves (R75, R78) -/

/-- A card operation counts at most a charge outside every account (R15). -/
theorem journeyClosed_counters (c : Counters) : JourneyClosed fun s => ∃ k, s.counters = { c with capUntracked := k } where
  rewrite s n d h := by rw [State.rewrite_counters]; exact h
  quarantine _ _ _ _ h := h
  setBucketHead _ _ _ h := h
  setOrder _ _ h := h
  allocate s d h := by
    unfold State.allocate
    split
    · exact h
    · rw [(State.judgeShortage_keeps _).2.2.2.2.2.2.2]
      exact h
  releaseSlot s n h := by rw [State.releaseSlot_counters]; exact h
  charge s t d k f h := by
    obtain ⟨j, e⟩ := h
    unfold State.charge
    split
    · exact ⟨j, e⟩
    · split
      · exact ⟨j, e⟩
      · split
        · exact ⟨j, e⟩
        · exact ⟨_, by rw [e]⟩
  mark _ _ h := h
  setAuditCounts _ _ h := h

/-- The counts of the taps taken and refused are those of another state's (R75, R78). -/
def Counters.SameTaps (c d : Counters) : Prop := c.tapsTaken = d.tapsTaken ∧ c.tapsRefused = d.tapsRefused

theorem Counters.countRecord_taps (c : Counters) (k : RecordKind) : (c.countRecord k).SameTaps c := by
  cases k <;> exact ⟨rfl, rfl⟩

theorem appendWhileRoom_taps : ∀ (rs : List JourneyRecord) (s : State),
    (appendWhileRoom rs s).2.counters.SameTaps s.counters := by
  intro rs
  induction rs with
  | nil => exact fun _ => ⟨rfl, rfl⟩
  | cons r rest ih =>
    intro s
    unfold appendWhileRoom
    split
    · obtain ⟨taken, refused⟩ := ih (s.appendRecord r)
      obtain ⟨sameTaken, sameRefused⟩ := s.counters.countRecord_taps r.kind
      exact ⟨taken.trans sameTaken, refused.trans sameRefused⟩
    · exact ⟨rfl, rfl⟩

/-- The end of a tap's handling moves the verdicts, the records, the counters, the stall mark and the unit alone, and takes
and refuses no tap (R75, R78). -/
theorem State.finishTap_frame (s : State) (e : TapEntry) (o : TapOutcome) :
    ∃ verdicts records counters stall unit, s.finishTap e o = { s with
        verdicts := verdicts, records := records, counters := counters, stall := stall, unit := unit } ∧
      counters.SameTaps s.counters ∧ (unit = .idle ∨ ∃ rs, unit = .appending rs) := by
  obtain ⟨queue, stale, offered⟩ := s.verdictOffered_eq e o
  obtain ⟨records, counters, stall, appended⟩ := appendWhileRoom_eq o.records (s.verdictOffered e o)
  obtain ⟨taken, refused⟩ := appendWhileRoom_taps o.records (s.verdictOffered e o)
  rw [appended, offered] at taken refused
  refine ⟨queue, records, counters, stall, if (appendWhileRoom o.records (s.verdictOffered e o)).1 = [] then .idle
    else .appending (appendWhileRoom o.records (s.verdictOffered e o)).1, ?_, ⟨taken, refused⟩, ?_⟩
  · show ({ (appendWhileRoom o.records (s.verdictOffered e o)).2 with
      unit := if (appendWhileRoom o.records (s.verdictOffered e o)).1 = [] then .idle
        else .appending (appendWhileRoom o.records (s.verdictOffered e o)).1 } : State) = _
    rw [appended, offered]
  · split
    · exact .inl rfl
    · exact .inr ⟨_, rfl⟩

/-- A tap in HANDLING taken to its end finishes, takes no further tap and refuses none (R62, R75, R78). -/
theorem exec_tapTake_finishes {h : Handling} (unit : s.unit = .handling h) :
    ∃ t, exec (.tapTake none) s = .next t ∧ (t.unit = .idle ∨ ∃ rs, t.unit = .appending rs) ∧ t.mode = s.mode ∧
      t.taps = s.taps ∧ t.clock = s.clock ∧ t.tariff = s.tariff ∧ t.deny = s.deny ∧
      t.counters.tapsTaken = s.counters.tapsTaken ∧ t.counters.tapsRefused = s.counters.tapsRefused := by
  have frame : JourneyFrame s (cardToEnd h s).2 := (journeyFrame_closed s).runCard h.most h (JourneyFrame.refl s)
  obtain ⟨k, counters⟩ : ∃ k, (cardToEnd h s).2.counters = { s.counters with capUntracked := k } :=
    (journeyClosed_counters s.counters).runCard h.most h ⟨s.counters.capUntracked, rfl⟩
  obtain ⟨verdicts, records, count, stall, u, finished, ⟨taken, refused⟩, ended⟩ :=
    (cardToEnd h s).2.finishTap_frame (cardToEnd h s).1.entry (cardToEnd h s).1.outcome
  rw [counters] at taken refused
  refine ⟨_, (exec_tapTake_handling unit none).trans (congrArg _ ((handle_none s h).trans finished)), ended, ?_, ?_,
    frame.clock, frame.tariff, ?_, taken, refused⟩
  · show (cardToEnd h s).2.mode = s.mode
    rw [frame]
  · show (cardToEnd h s).2.taps = s.taps
    rw [frame]
  · show (cardToEnd h s).2.deny = s.deny
    rw [frame]

/-- Settles O36: each clause by what a step, a rest and a taking of the tap are. -/
theorem handlingRestsBetweenSteps : Obligations.HandlingRestsBetweenSteps := by
  unfold Obligations.HandlingRestsBetweenSteps
  refine ⟨?_, ?_, ?_, ?_, ?_, ?_, ?_, ?_, ?_⟩
  · intro s e rest kind x late clamped found offline out denied
    exact ⟨rfl, rfl, s.checkedTap_eq e, rfl⟩
  · intro h x later s unit steps r
    obtain ⟨left, done⟩ := State.handle_one (s := s) steps (r := r) rfl
    rw [exec_tapTake_handling unit]
    exact ⟨fun k => congrArg _ (left k), fun k => congrArg _ (done k)⟩
  · intro h s unit
    have busy : s.tableFree = false := by
      unfold State.tableFree
      rw [unit]
    refine ⟨exec_tapTake_finishes unit, ?_⟩
    have rests : ∀ n, ¬(n < Config.slotCount ∧ s.mayExamine = true) := fun n ⟨_, may⟩ => by
      simp [State.mayExamine, busy] at may
    have noSlot : ¬s.mayExamine = true := fun may => by
      simp [State.mayExamine, busy] at may
    have taken : ¬s.tableFree = true := by rw [busy]; nofun
    refine ⟨?_, ?_, ?_, fun k => ?_, ?_, fun passes => ?_, fun k => if_neg taken, fun src token => ?_⟩
    · show execAgePassExamination s = _
      unfold execAgePassExamination
      split
      · exact if_neg (rests _)
      · rfl
    · show execForcedPassExamination s = _
      unfold execForcedPassExamination
      split
      · exact if_neg (rests _)
      · rfl
    · show execDayChangeWalkExamination s = _
      unfold execDayChangeWalkExamination
      split
      · exact if_neg (rests _)
      · rfl
    · show execAuditChainWalk s k = _
      unfold execAuditChainWalk
      split
      · exact if_neg taken
      · rfl
    · show execAuditSlotExamination s = _
      unfold execAuditSlotExamination
      split
      · exact if_neg noSlot
      · rfl
    · show execAuditSlotTest passes s = _
      unfold execAuditSlotTest
      split
      · exact if_neg noSlot
      · rfl
    · refine congrArg _ (show s.whenFree _ = s from ?_)
      unfold State.whenFree
      split
      · rfl
      · exact if_neg taken
  · intro s e rest takes admitted
    rw [takes.exec, State.beginHandling_lookup (s := s.tapTaken rest) admitted]
    exact congrArg _ (State.handle_zero nofun)
  · intro s e rest takes tapIn day admitted x
    rw [takes.exec, State.beginHandling_earlier (s := s.tapTaken rest) tapIn day admitted,
      State.checkedTap_incomplete (s := s.tapTaken rest) day]
    exact congrArg _ (State.handle_zero nofun)
  · intro k s t run ⟨h, handling⟩
    exact ⟨(exec_tapTake_resumes run handling none).symm, fun j => (exec_tapTake_resumes run handling (some j)).symm⟩
  · intro h n o p s unit steps x r
    obtain ⟨entry, context, _, outcome⟩ := h
    subst steps
    have frame : JourneyFrame s (s.releaseOrphan n o.token p) :=
      (journeyFrame_closed s).releaseOrphan n o.token p (JourneyFrame.refl s)
    have request := (s.releaseOrphan n o.token p).matchRequest_eq context o rfl (congrArg Clock.dayType frame.clock)
    refine ⟨?_, ?_⟩
    · rw [exec_tapTake_handling unit, handle_none, cardToEnd_matchOrphan]
      dsimp only
      rw [request]
      exact congrArg _ (finishCard_nil entry context _)
    · have flags := (s.releaseOrphan n o.token p).settle_flags ((s.releaseOrphan n o.token p).matchRequest context o)
      rw [request] at flags
      show r.1.record.flags.clockDoubt = _
      rw [flags]
      simp [Flags.union, State.doubtFlag, ClassFound.flags, frame.clock]
  · intro h q own later cap s unit steps capped
    have step : s.cardStep { h with steps := later } (.reckon q own) =
        ({ h with steps := .charge (s.reckon q) own :: later }, s) := by
      simp only [State.cardStep, State.reckonStep, capped]
      rfl
    obtain ⟨left, -⟩ := State.handle_one steps step
    exact (exec_tapTake_handling unit (some 1)).trans (congrArg _ (left nofun))
  · intro h r cap s unit steps capped otherDay
    obtain ⟨record, dailyCap⟩ := r
    obtain rfl : dailyCap = some cap := capped
    have step : s.cardStep { h with steps := [] } (.charge ⟨record, some cap⟩ true) =
        (Handling.settled { h with steps := [] } ⟨record.uncapped, none⟩ true, s) := by
      simp only [State.cardStep, State.chargeRecord_staleDay otherDay]
    obtain ⟨-, done⟩ := State.handle_one steps step
    exact (exec_tapTake_handling unit (some 1)).trans (congrArg _ (done rfl))

end Sys2Proof.Machine
end

section
/-! PROOFS. The fourth step of the pool audit, its reading of the marked orphans (R72): they are put in the order of their
arrival, those of equal arrival in slot order. -/

namespace Sys2Proof.Machine

variable {s : State}

/-! ### The order of arrival (R72) -/

/-- Of two orphans' slots and arrivals, the one that comes first. -/
def ArrivesBefore (x y : Nat × Nat) : Prop := x.2 < y.2 ∨ x.2 = y.2 ∧ x.1 < y.1

theorem mem_insertByArrival {x y : Nat × Nat} : ∀ {l : List (Nat × Nat)}, y ∈ insertByArrival x l ↔ y = x ∨ y ∈ l := by
  intro l
  induction l with
  | nil => simp [insertByArrival]
  | cons z rest ih =>
    unfold insertByArrival
    split
    · rw [List.mem_cons]
    · rw [List.mem_cons, ih, List.mem_cons]
      tauto

theorem length_insertByArrival (x : Nat × Nat) : ∀ l, (insertByArrival x l).length = l.length + 1 := by
  intro l
  induction l with
  | nil => rfl
  | cons z rest ih =>
    unfold insertByArrival
    split
    · rfl
    · rw [List.length_cons, ih, List.length_cons]

/-- An orphan of a later slot than those listed is put at its place. -/
theorem insertByArrival_sorted {x : Nat × Nat} : ∀ {l : List (Nat × Nat)}, l.Pairwise ArrivesBefore →
    (∀ y ∈ l, y.1 < x.1) → (insertByArrival x l).Pairwise ArrivesBefore := by
  intro l
  induction l with
  | nil => exact fun _ _ => List.pairwise_singleton _ _
  | cons z rest ih =>
    intro sorted below
    obtain ⟨first, others⟩ := List.pairwise_cons.1 sorted
    unfold insertByArrival
    split
    next before =>
      refine List.pairwise_cons.2 ⟨fun y hy => .inl ?_, sorted⟩
      rcases List.mem_cons.1 hy with rfl | hy
      · exact before
      · rcases first y hy with later | ⟨same, -⟩ <;> omega
    next notBefore =>
      refine List.pairwise_cons.2 ⟨fun y hy => ?_, ih others fun y hy => below y (List.mem_cons_of_mem _ hy)⟩
      rcases mem_insertByArrival.1 hy with rfl | hy
      · have slot := below z List.mem_cons_self
        unfold ArrivesBefore
        omega
      · exact first y hy

/-- Two lists in order of arrival with the same orphans are the same. -/
theorem eq_of_arrivesBefore {l r : List (Nat × Nat)} (hl : l.Pairwise ArrivesBefore) (hr : r.Pairwise ArrivesBefore)
    (same : ∀ y, y ∈ l ↔ y ∈ r) : l = r := by
  have irrefl : Std.Irrefl ArrivesBefore := ⟨fun x h => by unfold ArrivesBefore at h; omega⟩
  have antisymm : Std.Antisymm ArrivesBefore := ⟨fun x y h k => by unfold ArrivesBefore at h k; omega⟩
  exact hl.eq_of_mem_iff hr same

/-! ### The marked orphans (R72) -/

/-- The marked orphans at or above a slot. -/
def State.markedOrphans (s : State) (n : Nat) : List Nat :=
  s.table.marks.filter fun m => decide (n ≤ m) && decide (s.kind m = .orphan)

theorem State.nextMarkedOrphan_eq (s : State) (n : Nat) : s.nextMarkedOrphan n = (s.markedOrphans n).head? :=
  (List.head?_filter ..).symm

theorem State.mem_markedOrphans {n m : Nat} : m ∈ s.markedOrphans n ↔ m ∈ s.table.marks ∧ n ≤ m ∧ s.kind m = .orphan := by
  simp [State.markedOrphans]

/-- The marked orphans after the first of them. -/
theorem State.markedOrphans_tail (stored : s.Stored) {n m : Nat} {rest : List Nat} (h : s.markedOrphans n = m :: rest) :
    s.markedOrphans (m + 1) = rest := by
  have first : n ≤ m := (State.mem_markedOrphans.1 (h ▸ List.mem_cons_self)).2.1
  have rises : (m :: rest).Pairwise fun a b => a < b := h ▸ stored.marks.sublist List.filter_sublist
  have later : ∀ j ∈ rest, m < j := (List.pairwise_cons.1 rises).1
  calc s.markedOrphans (m + 1) = (s.markedOrphans n).filter fun j => decide (m + 1 ≤ j) := by
        rw [State.markedOrphans, State.markedOrphans, List.filter_filter]
        refine List.filter_congr fun j _ => ?_
        by_cases above : m + 1 ≤ j
        · simp [above, show n ≤ j by omega]
        · simp [above]
    _ = rest := by
        rw [h, List.filter_cons_of_neg (by simp)]
        exact List.filter_eq_self.2 fun j hj => decide_eq_true (later j hj)

/-- A marked orphan is the first at or above its own slot. -/
theorem State.nextMarkedOrphan_self (stored : s.Stored) {m : Nat} (marked : m ∈ s.table.marks) (kind : s.kind m = .orphan) :
    s.nextMarkedOrphan m = some m := by
  rw [State.nextMarkedOrphan_eq]
  have mem : m ∈ s.markedOrphans m := State.mem_markedOrphans.2 ⟨marked, Nat.le_refl m, kind⟩
  cases e : s.markedOrphans m with
  | nil =>
    rw [e] at mem
    cases mem
  | cons j rest =>
    have least : m ≤ j := (State.mem_markedOrphans.1 (e ▸ List.mem_cons_self : j ∈ s.markedOrphans m)).2.1
    have rises : (j :: rest).Pairwise fun a b => a < b := e ▸ stored.marks.sublist List.filter_sublist
    rw [e] at mem
    rcases List.mem_cons.1 mem with rfl | later
    · rfl
    · have := (List.pairwise_cons.1 rises).1 m later
      omega

/-! ### The steps of the rebuild -/

/-- The rebuild rests where the audit has left it, or a record waits. -/
theorem runRebuild_rests (k : Nat)
    (h : (∀ a, s.sweep.walk = some (.audit a) → a.rebuilds = false) ∨ s.sweep.waiting ≠ []) : runRebuild k s = s := by
  cases k with
  | zero => rfl
  | succ k =>
    unfold runRebuild
    split
    next a walk =>
      refine if_neg fun ⟨rebuilds, waiting⟩ => ?_
      rcases h with h | h
      · rw [h a walk] at rebuilds
        cases rebuilds
      · exact h waiting
    next => rfl

theorem runRebuild_step (k : Nat) {a : AuditStep} (walk : s.sweep.walk = some (.audit a)) (rebuilds : a.rebuilds = true)
    (waiting : s.sweep.waiting = []) : runRebuild (k + 1) s = runRebuild k (s.rebuildStep a) := by
  rw [runRebuild, walk]
  exact if_pos ⟨rebuilds, waiting⟩

/-- Several steps of the rebuild are the first of them, and then the others. -/
theorem runRebuild_succ (k : Nat) (s : State) : runRebuild (k + 1) s = runRebuild k (runRebuild 1 s) := by
  by_cases on : ∃ a, s.sweep.walk = some (.audit a) ∧ a.rebuilds = true
  · obtain ⟨a, walk, rebuilds⟩ := on
    by_cases waiting : s.sweep.waiting = []
    · rw [runRebuild_step k walk rebuilds waiting, runRebuild_step 0 walk rebuilds waiting]
      rfl
    · rw [runRebuild_rests _ (.inr waiting), runRebuild_rests 1 (.inr waiting), runRebuild_rests k (.inr waiting)]
  · have rests : ∀ a, s.sweep.walk = some (.audit a) → a.rebuilds = false := fun a walk =>
      Bool.eq_false_iff.2 fun rebuilds => on ⟨a, walk, rebuilds⟩
    rw [runRebuild_rests _ (.inl rests), runRebuild_rests 1 (.inl rests), runRebuild_rests k (.inl rests)]

/-- A marked orphan that reads is put at its place, and nothing else changes. -/
theorem State.rebuildStep_gather {n : Nat} {o : Orphan} (stored : s.Stored) (marked : n ∈ s.table.marks)
    (held : s.slot n = some (.allocated (.orphan o) true)) (found : List (Nat × Nat)) :
    s.rebuildStep (.gather n found) = s.setAuditStep (s.gatherFrom (n + 1) (insertByArrival (n, o.arrival) found)) := by
  unfold State.rebuildStep
  dsimp only
  rw [State.nextMarkedOrphan_self stored marked (State.kind_of_allocated held)]
  dsimp only [State.gatherOrphan]
  rw [State.readSlot_of_intact held]

/-- The marked orphans, all of which read, are put in the order of their arrival. -/
theorem runRebuild_gather (stored : s.Stored) (waiting : s.sweep.waiting = [])
    (intact : ∀ m ∈ s.markedOrphans 0, ∃ o, s.slot m = some (.allocated (.orphan o) true)) :
    ∀ (rest : List Nat) (n : Nat) (found : List (Nat × Nat)), s.markedOrphans n = rest → found.Pairwise ArrivesBefore →
      (∀ y ∈ found, y.1 < n) → ∃ all : List (Nat × Nat), all.Pairwise ArrivesBefore ∧
        all.length = found.length + rest.length ∧
        (∀ y, y ∈ all ↔ y ∈ found ∨ y.1 ∈ rest ∧ ∃ o, s.slot y.1 = some (.allocated (.orphan o) true) ∧ o.arrival = y.2) ∧
        ∀ k, runRebuild (rest.length + k) (s.setAuditStep (s.gatherFrom n found)) =
          runRebuild k (s.setAuditStep (.shed (all.map (·.1)))) := by
  intro rest
  induction rest with
  | nil =>
    intro n found none_ sorted _
    refine ⟨found, sorted, rfl, by simp, fun k => ?_⟩
    have done : s.gatherFrom n found = .shed (found.map (·.1)) := by
      unfold State.gatherFrom
      rw [State.nextMarkedOrphan_eq, none_]
      rfl
    rw [done, List.length_nil, Nat.zero_add]
  | cons m rest ih =>
    intro n found list sorted below
    have mem : m ∈ s.markedOrphans n := list ▸ List.mem_cons_self
    obtain ⟨marked, above, kind⟩ := State.mem_markedOrphans.1 mem
    obtain ⟨o, held⟩ := intact m (State.mem_markedOrphans.2 ⟨marked, Nat.zero_le m, kind⟩)
    obtain ⟨all, ordered, length, members, run⟩ := ih (m + 1) (insertByArrival (m, o.arrival) found)
      (State.markedOrphans_tail stored list) (insertByArrival_sorted sorted fun y hy => Nat.lt_of_lt_of_le (below y hy) above)
      fun y hy => by
        rcases mem_insertByArrival.1 hy with rfl | hy
        · exact Nat.lt_succ_self m
        · exact Nat.lt_succ_of_lt (Nat.lt_of_lt_of_le (below y hy) above)
    refine ⟨all, ordered, ?_, fun y => ?_, fun k => ?_⟩
    · rw [length, length_insertByArrival, List.length_cons, Nat.add_assoc, Nat.add_comm 1]
    · rw [members, mem_insertByArrival, List.mem_cons]
      constructor
      · rintro ((rfl | old) | ⟨later, orphan⟩)
        · exact .inr ⟨.inl rfl, o, held, rfl⟩
        · exact .inl old
        · exact .inr ⟨.inr later, orphan⟩
      · rintro (old | ⟨here | later, orphan⟩)
        · exact .inl (.inr old)
        · obtain ⟨o', held', arrival⟩ := orphan
          rw [here, held] at held'
          cases held'
          exact .inl (.inl (Prod.ext here arrival.symm))
        · exact .inr ⟨later, orphan⟩
    · have next : s.gatherFrom n found = .gather m found := by
        unfold State.gatherFrom
        rw [State.nextMarkedOrphan_eq, list]
        rfl
      have step := State.rebuildStep_gather (s := s.setAuditStep (.gather m found)) (stored.same rfl rfl rfl) marked held found
      rw [next, List.length_cons, Nat.add_right_comm, runRebuild_step (s := s.setAuditStep (.gather m found)) _ rfl rfl waiting,
        step, ← run k]
      rfl

end Sys2Proof.Machine
end

section
/-! PROOFS. The fourth step of the pool audit, its new order (R72): the oldest orphans settled where there are more than 512, the
others linked one after another, and the end of the audit. -/

namespace Sys2Proof.Machine

variable {s : State}

/-! ### An orphan linked at the tail of the new order (R57) -/

/-- The state with other slots and another orphan order. -/
def State.linkedAs (s : State) (slots : List (Nat × Slot)) (order : OrphanOrder) : State :=
  { s with table := { s.table with slots := slots, order := order } }

/-- An orphan's slot with its link of the order. -/
def Orphan.linked (o : Orphan) (nextOrder : Option Nat) : Slot :=
  .allocated (.orphan { o with nextOrder := nextOrder }) true

section
variable {n : Nat} {o : Orphan} (held : s.slot n = some (.allocated (.orphan o) true))
include held

theorem State.linkOrphan_eq : s.linkOrphan n =
    (s.linkedAs (sparsePut s.table.slots n (o.linked none)) s.table.order).appendToOrder n := by
  unfold State.linkOrphan
  rw [State.readSlot_of_intact held]
  dsimp only
  rw [State.setNextOrder_eq held]
  rfl

/-- The first orphan of the new order is the only one. -/
theorem State.linkOrphan_first (tail : s.table.order.tail = none) : s.linkOrphan n =
    s.linkedAs (sparsePut s.table.slots n (o.linked none)) ⟨some n, some n, 1⟩ := by
  rw [State.linkOrphan_eq held,
    State.appendToOrder_empty (s := s.linkedAs (sparsePut s.table.slots n (o.linked none)) s.table.order) tail]
  rfl

/-- Any other orphan follows the tail, which reads. -/
theorem State.linkOrphan_after {p : Nat} {q : Orphan} (tail : s.table.order.tail = some p) (other : p ≠ n)
    (last : s.slot p = some (.allocated (.orphan q) true)) : s.linkOrphan n =
      s.linkedAs (sparsePut (sparsePut s.table.slots n (o.linked none)) p (q.linked (some n)))
        ⟨s.table.order.head, some n, s.table.order.length + 1⟩ := by
  have last' : (s.linkedAs (sparsePut s.table.slots n (o.linked none)) s.table.order).slot p =
      some (.allocated (.orphan q) true) := (sparseGet_put_other _ _ _ _ other).trans last
  have kind : (s.linkedAs (sparsePut s.table.slots n (o.linked none)) s.table.order).kind p = .orphan :=
    State.kind_of_allocated last'
  rw [State.linkOrphan_eq held,
    State.appendToOrder_after (s := s.linkedAs (sparsePut s.table.slots n (o.linked none)) s.table.order) tail last',
    State.rewrite_eq (c := .orphan { q with nextOrder := some n }) kind]
  rfl

end

theorem State.rebuildStep_link (s : State) (n : Nat) (rest : List Nat) :
    s.rebuildStep (.link (n :: rest)) = (s.linkOrphan n).setAuditStep (.link rest) := rfl

/-! ### The orphans linked one after another (R72) -/

/-- The slots in which the orphans listed are linked in their order, and every other slot is as it was in `s`. -/
structure State.LinkedInOrder (s : State) (ys : List (Nat × Orphan)) (slots : List (Nat × Slot)) : Prop where
  linked : ∀ (i : Nat) (y : Nat × Orphan), ys[i]? = some y → sparseGet slots y.1 = some (y.2.linked (ys[i + 1]?.map (·.1)))
  others : ∀ m, m ∉ ys.map (·.1) → sparseGet slots m = s.slot m

/-- Orphans linked after the tail of an order. -/
theorem runRebuild_link_after : ∀ (ys : List (Nat × Orphan)) (p : Nat × Orphan) (s : State), s.sweep.waiting = [] →
    s.table.order.tail = some p.1 → s.slot p.1 = some (p.2.linked none) →
    (∀ y ∈ ys, s.slot y.1 = some (.allocated (.orphan y.2) true)) → ((p :: ys).map (·.1)).Nodup →
    ∃ slots, s.LinkedInOrder (p :: ys) slots ∧ ∀ k, runRebuild (ys.length + k) (s.setAuditStep (.link (ys.map (·.1)))) =
      runRebuild k ((s.linkedAs slots ⟨s.table.order.head, lastSlot (p :: ys), s.table.order.length + ys.length⟩).setAuditStep
        (.link [])) := by
  intro ys
  induction ys with
  | nil =>
    intro p s _ tail held _ _
    refine ⟨s.table.slots, ⟨fun i y hy => ?_, fun _ _ => rfl⟩, fun k => ?_⟩
    · cases i with
      | zero =>
        cases hy
        exact held
      | succ i => cases hy
    · rw [List.length_nil, Nat.zero_add, show lastSlot [p] = s.table.order.tail from tail.symm]
      rfl
  | cons y ys ih =>
    intro p s waiting tail last held once
    obtain ⟨notIn, once⟩ := List.nodup_cons.1 once
    have other : p.1 ≠ y.1 := fun e => notIn (List.mem_map.2 ⟨y, List.mem_cons_self, e.symm⟩)
    have link := State.linkOrphan_after (s := s.setAuditStep (.link ((y :: ys).map (·.1)))) (held y List.mem_cons_self) tail
      other last
    let t := s.linkedAs (sparsePut (sparsePut s.table.slots y.1 (y.2.linked none)) p.1 (p.2.linked (some y.1)))
      ⟨s.table.order.head, some y.1, s.table.order.length + 1⟩
    have heldNow : t.slot y.1 = some (y.2.linked none) :=
      (sparseGet_put_other _ _ _ _ other.symm).trans (sparseGet_put_self _ _ _)
    have lastNow : t.slot p.1 = some (p.2.linked (some y.1)) := sparseGet_put_self _ _ _
    have othersNow : ∀ m, m ≠ p.1 → m ≠ y.1 → t.slot m = s.slot m := fun m hp hy =>
      (sparseGet_put_other _ _ _ _ hp).trans (sparseGet_put_other _ _ _ _ hy)
    obtain ⟨slots, order, run⟩ := ih y t waiting rfl heldNow (fun z hz => by
      refine (othersNow z.1 (fun e => notIn ?_) fun e => ?_).trans (held z (List.mem_cons_of_mem _ hz))
      · exact List.mem_map.2 ⟨z, List.mem_cons_of_mem _ hz, e⟩
      · exact (List.nodup_cons.1 once).1 (List.mem_map.2 ⟨z, hz, e⟩)) once
    refine ⟨slots, ⟨fun i z hz => ?_, fun m hm => ?_⟩, fun k => ?_⟩
    · cases i with
      | zero =>
        cases hz
        exact (order.others p.1 notIn).trans lastNow
      | succ i => exact order.linked i z hz
    · have notFirst : m ≠ p.1 := fun e => hm (List.mem_map.2 ⟨p, List.mem_cons_self, e.symm⟩)
      have notNext : m ≠ y.1 := fun e => hm (List.mem_map.2 ⟨y, List.mem_cons_of_mem _ List.mem_cons_self, e.symm⟩)
      exact (order.others m fun k => hm (List.mem_cons_of_mem _ k)).trans (othersNow m notFirst notNext)
    · rw [List.length_cons, Nat.add_right_comm, runRebuild_step (s := s.setAuditStep _) _ rfl rfl waiting]
      refine Eq.trans ?_ ((run k).trans ?_)
      · rw [List.map_cons, State.rebuildStep_link]
        exact (congrArg (fun t => runRebuild (ys.length + k) (State.setAuditStep t _)) link).trans rfl
      · have length : t.table.order.length + ys.length = s.table.order.length + (ys.length + 1) := by
          show s.table.order.length + 1 + ys.length = _
          omega
        rw [length]
        rfl

/-- Orphans linked into an empty order are its orphans, in their order. -/
theorem runRebuild_link {ys : List (Nat × Orphan)} (waiting : s.sweep.waiting = []) (empty : s.table.order = ⟨none, none, 0⟩)
    (held : ∀ y ∈ ys, s.slot y.1 = some (.allocated (.orphan y.2) true)) (once : (ys.map (·.1)).Nodup) :
    ∃ slots, s.LinkedInOrder ys slots ∧ ∀ k, runRebuild (ys.length + k) (s.setAuditStep (.link (ys.map (·.1)))) =
      runRebuild k ((s.linkedAs slots ⟨ys.head?.map (·.1), lastSlot ys, ys.length⟩).setAuditStep (.link [])) := by
  cases ys with
  | nil =>
    refine ⟨s.table.slots, ⟨(fun _ _ h => by cases h), fun _ _ => rfl⟩, fun k => ?_⟩
    rw [List.length_nil, Nat.zero_add]
    exact congrArg (fun o => runRebuild k ((s.linkedAs s.table.slots o).setAuditStep (.link []))) empty
  | cons y ys =>
    have link := State.linkOrphan_first (s := s.setAuditStep (.link ((y :: ys).map (·.1)))) (held y List.mem_cons_self)
      (by rw [show (s.setAuditStep _).table = s.table from rfl, empty])
    let t := s.linkedAs (sparsePut s.table.slots y.1 (y.2.linked none)) ⟨some y.1, some y.1, 1⟩
    have heldNow : t.slot y.1 = some (y.2.linked none) := sparseGet_put_self _ _ _
    have othersNow : ∀ m, m ≠ y.1 → t.slot m = s.slot m := fun m hy => sparseGet_put_other _ _ _ _ hy
    obtain ⟨slots, order, run⟩ := runRebuild_link_after ys y t waiting rfl heldNow (fun z hz =>
      (othersNow z.1 fun e => (List.nodup_cons.1 once).1 (List.mem_map.2 ⟨z, hz, e⟩)).trans
        (held z (List.mem_cons_of_mem _ hz))) once
    refine ⟨slots, ⟨order.linked, fun m hm => ?_⟩, fun k => ?_⟩
    · exact (order.others m hm).trans (othersNow m fun e => hm (List.mem_map.2 ⟨y, List.mem_cons_self, e.symm⟩))
    · rw [List.length_cons, Nat.add_right_comm, runRebuild_step (s := s.setAuditStep _) _ rfl rfl waiting]
      refine Eq.trans ?_ ((run k).trans ?_)
      · rw [List.map_cons, State.rebuildStep_link]
        exact (congrArg (fun t => runRebuild (ys.length + k) (State.setAuditStep t _)) link).trans rfl
      · have length : t.table.order.length + ys.length = ys.length + 1 := Nat.add_comm 1 ys.length
        rw [length]
        rfl

/-! ### The end of the audit (R68, R72) -/

/-- The state when an audit in MAINTENANCE has ended, with no walk after it. -/
def State.auditEnded (s : State) : State :=
  { s with
    table := { s.table with marks := [] }
    auditOp := s.auditOp.map (AuditOperation.walked s.table.counts.quarantined)
    sweep := { s.sweep with walk := none, forcedAge := none, pendingExpiry := false } }

theorem runRebuild_end (k : Nat) (waiting : s.sweep.waiting = []) (mode : s.mode = .maintenance) :
    runRebuild (k + 1) (s.setAuditStep (.link [])) = s.auditEnded := by
  have step : (s.setAuditStep (.link [])).rebuildStep (.link []) = s.auditEnded := by
    have done : ((Walk.audit .ending).finished && s.sweep.waiting.isEmpty) = true := by rw [waiting]; rfl
    have ends : (s.setAuditStep .ending).endIfFinished = (s.setAuditStep .ending).endWalk (.audit .ending) := if_pos done
    refine Eq.trans ends ?_
    simp only [State.endWalk, State.afterWalk, State.setAuditStep, State.auditEnded, mode]
  rw [runRebuild_step (s := s.setAuditStep (.link [])) k rfl rfl waiting, step]
  exact runRebuild_rests k (.inl nofun)

/-! ### The oldest orphans settled (R72) -/

/-- An orphan that stays as it is but for its two links. -/
def State.OrphanStays (s : State) (n : Nat) (o : Orphan) : Prop := ∃ next nextOrder,
  s.slot n = some (.allocated (.orphan { o with next := next, nextOrder := nextOrder }) true)

/-- An intact orphan stays through an unlinking and a removal from the order. -/
theorem linkClosed_orphanStays (n : Nat) (o : Orphan) : LinkClosed fun s => s.OrphanStays n o where
  setNext s m x h := by
    obtain ⟨next, nextOrder, held⟩ := h
    by_cases e : n = m
    · subst e
      rw [State.setNext_eq held x]
      exact ⟨x, nextOrder, sparseGet_put_self _ _ _⟩
    · obtain ⟨slots, eq, others, -⟩ := s.setNext_rewrites m x
      rw [eq]
      exact ⟨next, nextOrder, (others n e).trans held⟩
  setNextOrder s m x h := by
    obtain ⟨next, nextOrder, held⟩ := h
    by_cases e : n = m
    · subst e
      rw [State.setNextOrder_eq held x]
      exact ⟨next, x, sparseGet_put_self _ _ _⟩
    · obtain ⟨slots, eq, others, -⟩ := s.setNextOrder_rewrites m x
      rw [eq]
      exact ⟨next, nextOrder, (others n e).trans held⟩
  quarantine s m c failed h := by
    obtain ⟨next, nextOrder, held⟩ := h
    refine ⟨next, nextOrder, (s.quarantine_slot_other fun e => ?_).trans held⟩
    rw [e, failed] at held
    cases held
  setBucketHead _ _ _ h := h
  setOrder _ _ h := h

/-- A FREE slot stays so through an unlinking and a removal from the order. -/
theorem linkClosed_free (n : Nat) : LinkClosed fun s => s.slot n = none where
  setNext s m x h := by
    obtain ⟨slots, eq, -, empty⟩ := s.setNext_rewrites m x
    rw [eq]
    exact (empty n (by simp [h])).trans h
  setNextOrder s m x h := by
    obtain ⟨slots, eq, -, empty⟩ := s.setNextOrder_rewrites m x
    rw [eq]
    exact (empty n (by simp [h])).trans h
  quarantine s m c failed h := by
    refine (s.quarantine_slot_other fun e => ?_).trans h
    rw [e, failed] at h
    cases h
  setBucketHead _ _ _ h := h
  setOrder _ _ h := h

section
variable (n : Nat) (o : Orphan)

/-- The orphan settled leaves its slot FREE (R55, R104). -/
theorem State.settleOrphan_gone (stored : s.Stored) : (s.settleOrphan n o {}).2.slot n = none :=
  (State.releaseSlot_slot (journeyClosed_stored.removeFromOrder n (journeyClosed_stored.unlink n o.token .sought stored)) n).1

/-- What an unlinking and a removal from the order keep of another slot, the orphan's release keeps. -/
theorem State.settleOrphan_other (stored : s.Stored) {m : Nat} (other : m ≠ n) :
    (s.settleOrphan n o {}).2.slot m = ((s.unlink n o.token .sought).removeFromOrder n).slot m :=
  (State.releaseSlot_slot (journeyClosed_stored.removeFromOrder n (journeyClosed_stored.unlink n o.token .sought stored)) n).2
    m other

theorem State.settleOrphan_free (stored : s.Stored) {m : Nat} (free : s.slot m = none) :
    (s.settleOrphan n o {}).2.slot m = none := by
  by_cases e : m = n
  · rw [e]
    exact s.settleOrphan_gone n o stored
  · rw [s.settleOrphan_other n o stored e]
    exact (linkClosed_free m).removeFromOrder n ((linkClosed_free m).unlink n o.token .sought free)

theorem State.settleOrphan_stays (stored : s.Stored) {m : Nat} {a : Orphan} (other : m ≠ n) (stays : s.OrphanStays m a) :
    (s.settleOrphan n o {}).2.OrphanStays m a := by
  obtain ⟨x, y, h⟩ := (linkClosed_orphanStays m a).removeFromOrder n
    ((linkClosed_orphanStays m a).unlink n o.token .sought stays)
  exact ⟨x, y, (s.settleOrphan_other n o stored other).trans h⟩

end

/-- The state after the rebuild has settled an orphan, its record not yet appended (R72). -/
def State.shedTo (s : State) (n : Nat) (o : Orphan) (rest : List Nat) : State :=
  ((s.settleOrphan n o {}).2.setAuditCounts { s.sweep.auditCounts with
    rebuildSettled := s.sweep.auditCounts.rebuildSettled + 1 }).setAuditStep (.shed rest)

theorem State.rebuildStep_shed {n : Nat} {o : Orphan} {rest : List Nat} (many : 512 ≤ rest.length)
    (held : s.slot n = some (.allocated (.orphan o) true)) :
    s.rebuildStep (.shed (n :: rest)) = (s.shedTo n o rest).walkRecords [(s.settleOrphan n o {}).1] := by
  obtain ⟨-, counts, -⟩ := s.settleOrphan_sweep n o {} .sought
  have more : ¬(n :: rest).length ≤ Config.orphanOrderLimit := by
    simp only [List.length_cons, Config.orphanOrderLimit]
    omega
  unfold State.rebuildStep
  dsimp only
  rw [if_neg more, State.shedOrphan, State.readSlot_of_intact held, State.shedTo, ← counts]

/-- `w` is `s` with the orphan in slot `n` settled, as `r`, and the rebuild gone on to the slots `rest` (R72). -/
structure State.Sheds (s : State) (n : Nat) (o : Orphan) (rest : List Nat) (r : JourneyRecord) (w : State) : Prop where
  stored : w.Stored
  walk : w.sweep.walk = some (.audit (.shed rest))
  waiting : w.sweep.waiting = s.sweep.waiting
  kept : w.sweep.kept = s.sweep.kept
  counted : w.sweep.auditCounts.rebuildSettled = s.sweep.auditCounts.rebuildSettled + 1
  records : w.records = s.records
  mode : w.mode = s.mode
  auditOp : w.auditOp = s.auditOp
  gone : w.slot n = none
  free : ∀ m, s.slot m = none → w.slot m = none
  stays : ∀ m a, m ≠ n → s.OrphanStays m a → w.OrphanStays m a
  told : (r.kind, r.token, r.flags.recovered) = (.unmatchedExit, o.token, o.flags.recovered)

/-- What the settlement leaves, and the rebuild's own step on it. -/
theorem State.Sheds.of_settled {n : Nat} {o : Orphan} {rest : List Nat} {r : JourneyRecord} {t : State} (stored : t.Stored)
    (frame : JourneyFrame s t) (waiting : t.sweep.waiting = s.sweep.waiting) (kept : t.sweep.kept = s.sweep.kept)
    (gone : t.slot n = none) (free : ∀ m, s.slot m = none → t.slot m = none)
    (stays : ∀ m a, m ≠ n → s.OrphanStays m a → t.OrphanStays m a)
    (told : (r.kind, r.token, r.flags.recovered) = (.unmatchedExit, o.token, o.flags.recovered)) :
    s.Sheds n o rest r ((t.setAuditCounts { s.sweep.auditCounts with
      rebuildSettled := s.sweep.auditCounts.rebuildSettled + 1 }).setAuditStep (.shed rest)) where
  stored := stored.same rfl rfl rfl
  walk := rfl
  waiting := waiting
  kept := kept
  counted := rfl
  records := by
    show t.records = s.records
    rw [frame]
  mode := by
    show t.mode = s.mode
    rw [frame]
  auditOp := by
    show t.auditOp = s.auditOp
    rw [frame]
  gone := gone
  free := free
  stays := stays
  told := told

theorem State.sheds (stored : s.Stored) (n : Nat) (o : Orphan) (rest : List Nat) :
    s.Sheds n o rest (s.settleOrphan n o {}).1 (s.shedTo n o rest) := by
  obtain ⟨kind, token, -, recovered⟩ := s.settleOrphan_flags n o {} .sought
  obtain ⟨-, -, -, waiting, kept⟩ := s.settleOrphan_sweep n o {} .sought
  exact .of_settled (journeyClosed_stored.settleOrphan n o {} .sought stored)
    ((journeyFrame_closed s).settleOrphan n o {} .sought (JourneyFrame.refl s)) waiting kept
    (s.settleOrphan_gone n o stored) (fun m free => s.settleOrphan_free n o stored free)
    (fun m a other stays => s.settleOrphan_stays n o stored other stays) (by rw [kind, token, recovered, Bool.or_false])

/-! ### A record of the rebuild (R139) -/

/-- With room, and no record before it, a record is appended. -/
theorem State.walkRecords_one {r : JourneyRecord} (kept : s.sweep.kept = []) (waiting : s.sweep.waiting = [])
    (room : s.records.length < 256) : s.walkRecords [r] = s.appendRecord r := by
  have hroom : s.recordRoom = true := by simpa [State.recordRoom, Config.recordQueueCapacity] using room
  have same : { s.sweep with waiting := [] } = s.sweep := by rw [← waiting]
  unfold State.walkRecords
  rw [if_pos ⟨kept, waiting⟩]
  simp only [appendWhileRoom, hroom, if_true]
  exact congrArg (fun w => ({ s.appendRecord r with sweep := w } : State)) same

/-- With 256 records queued a record waits. -/
theorem State.walkRecords_full {r : JourneyRecord} (waiting : s.sweep.waiting = []) (full : 256 ≤ s.records.length) :
    s.walkRecords [r] = { s with sweep := { s.sweep with waiting := [r] } } := by
  have noRoom : s.recordRoom ≠ true := by simpa [State.recordRoom, Config.recordQueueCapacity] using full
  unfold State.walkRecords
  split
  · simp only [appendWhileRoom, if_neg noRoom]
  · rw [waiting]
    rfl

end Sys2Proof.Machine
end

section
/-! PROOFS. AUDIT_ORDER_REBUILD (R72): the rebuild step by step, the length of the order it leaves, and the whole of it when the
marked orphans all read. -/

namespace Sys2Proof.Machine

variable {s : State}

/-! ### The unit while the order is rebuilt -/

theorem State.endIfFinished_unit (s : State) : s.endIfFinished.unit = s.unit := by
  have ends : ∀ t : State, t.afterWalk.unit = t.unit := fun t => by
    obtain ⟨w, e⟩ := t.afterWalk_frame
    rw [e]
  unfold State.endIfFinished
  split
  next w _ =>
    split
    · unfold State.endWalk
      split
      · exact ends _
      · refine (ends _).trans ?_
        split <;> rfl
      · exact ends _
      · exact ends _
    · rfl
  · rfl

theorem State.walkRecords_unit (s : State) (rs : List JourneyRecord) : (s.walkRecords rs).unit = s.unit := by
  obtain ⟨records, counters, stall, waiting, e⟩ := s.walkRecords_eq rs
  rw [e]

theorem State.rebuildStep_unit (s : State) (a : AuditStep) : (s.rebuildStep a).unit = s.unit := by
  have kept : ∀ {t : State} (a : AuditStep), JourneyFrame s t → (t.setAuditStep a).unit = s.unit := fun {t} a h => by
    show t.unit = s.unit
    rw [h]
  have frame := journeyFrame_closed s
  unfold State.rebuildStep
  split
  next n found =>
    split
    · rfl
    next m _ => exact kept _ (frame.gatherOrphan m found (JourneyFrame.refl s))
  · split
    next n rest =>
      split
      · rfl
      · exact (State.walkRecords_unit _ _).trans (kept _ (frame.shedOrphan n (JourneyFrame.refl s)))
    · rfl
  next n rest => exact kept _ (frame.linkOrphan n (JourneyFrame.refl s))
  · exact State.endIfFinished_unit _
  · rfl
  · rfl
  · rfl
  · rfl

theorem runRebuild_unit : ∀ (k : Nat) (s : State), (runRebuild k s).unit = s.unit := by
  intro k
  induction k with
  | zero => exact fun _ => rfl
  | succ k ih =>
    intro s
    unfold runRebuild
    split
    · split
      · exact (ih _).trans (s.rebuildStep_unit _)
      · rfl
    · rfl

theorem exec_auditOrderRebuild (free : s.tableFree = true) (k : Option Nat) :
    exec (.auditOrderRebuild k) s = .next (runRebuild (k.getD s.rebuildMost) s) :=
  if_pos free

/-- A rebuild over several steps is one over the first of them, and then over the others. -/
theorem exec_auditOrderRebuild_resumes {k : Nat} {t : State} (first : exec (.auditOrderRebuild (some 1)) s = .next t) :
    exec (.auditOrderRebuild (some (k + 1))) s = exec (.auditOrderRebuild (some k)) t := by
  by_cases free : s.tableFree = true
  · obtain rfl := Host.Outcome.next.inj ((exec_auditOrderRebuild free (some 1)).symm.trans first)
    have free' : (runRebuild 1 s).tableFree = true := by
      unfold State.tableFree at free ⊢
      rwa [runRebuild_unit]
    rw [exec_auditOrderRebuild free, Option.getD_some, Option.getD_some, exec_auditOrderRebuild free', runRebuild_succ]
    rfl
  · have stays : ∀ j, exec (.auditOrderRebuild j) s = .next s := fun j => if_neg free
    obtain rfl := Host.Outcome.next.inj ((stays (some 1)).symm.trans first)
    rw [stays, stays]

/-! ### The length of the order (R57, R72) -/

/-- The tail of the order, where it has one, is an orphan that reads. -/
def State.TailReads (s : State) : Prop :=
  ∀ t, s.table.order.tail = some t → ∃ o, s.slot t = some (.allocated (.orphan o) true)

/-- What holds of the order while it is rebuilt: with the orphans still to be linked it has at most 512. -/
def State.OrderFits (s : State) : Prop :=
  (s.sweep.walk = none → s.table.order.length ≤ 512) ∧
    ∀ ns, s.sweep.walk = some (.audit (.link ns)) → s.table.order.length + ns.length ≤ 512 ∧ s.TailReads

theorem State.readSlot_reads {n : Nat} {c : Content} {t : State} (h : s.readSlot n = (some c, t)) :
    s.slot n = some (.allocated c true) ∧ t = s := by
  unfold State.readSlot at h
  split at h
  next held =>
    cases h
    exact ⟨held, rfl⟩
  all_goals cases h

theorem State.readSlot_order (s : State) (n : Nat) : (s.readSlot n).2.table.order = s.table.order := by
  unfold State.readSlot
  split <;> rfl

/-- An orphan that joins an order whose tail reads makes it longer by one at most, and is its tail. -/
theorem State.appendToOrder_fits {n : Nat} {o : Orphan} (tails : s.TailReads)
    (held : s.slot n = some (.allocated (.orphan o) true)) :
    (s.appendToOrder n).table.order.length ≤ s.table.order.length + 1 ∧ (s.appendToOrder n).TailReads := by
  cases tail : s.table.order.tail with
  | none =>
    rw [State.appendToOrder_empty tail]
    refine ⟨Nat.le_add_left 1 _, fun t e => ?_⟩
    cases e
    exact ⟨o, held⟩
  | some p =>
    obtain ⟨q, last⟩ := tails p tail
    have kind : s.kind p = .orphan := State.kind_of_allocated last
    rw [State.appendToOrder_after tail last, State.rewrite_eq (c := .orphan { q with nextOrder := some n }) kind]
    refine ⟨Nat.le_refl _, fun t e => ?_⟩
    cases e
    by_cases same : n = p
    · subst same
      exact ⟨_, sparseGet_put_self _ _ _⟩
    · exact ⟨o, (sparseGet_put_other _ _ _ _ same).trans held⟩

theorem State.linkOrphan_fits (tails : s.TailReads) (n : Nat) :
    (s.linkOrphan n).table.order.length ≤ s.table.order.length + 1 ∧ (s.linkOrphan n).TailReads := by
  unfold State.linkOrphan
  split
  next o t read =>
    obtain ⟨held, rfl⟩ := State.readSlot_reads read
    rw [State.setNextOrder_eq held]
    refine State.appendToOrder_fits (fun p tail => ?_) (sparseGet_put_self _ _ _)
    by_cases same : p = n
    · subst same
      exact ⟨_, sparseGet_put_self _ _ _⟩
    · obtain ⟨q, last⟩ := tails p tail
      exact ⟨q, (sparseGet_put_other _ _ _ _ same).trans last⟩
  next c t _ read =>
    have order := s.readSlot_order n
    rw [read] at order
    refine ⟨by rw [order]; exact Nat.le_succ _, fun p tail => ?_⟩
    rw [order] at tail
    obtain ⟨q, last⟩ := tails p tail
    have stays := (linkClosed_orphanStays p q).readSlot n ⟨q.next, q.nextOrder, last⟩
    rw [read] at stays
    obtain ⟨x, y, held⟩ := stays
    exact ⟨_, held⟩

/-- A step that is no linking leaves nothing to be said of the order. -/
theorem State.OrderFits.of_step {a : AuditStep} (walk : s.sweep.walk = some (.audit a)) (other : ∀ ns, a ≠ .link ns) :
    s.OrderFits :=
  ⟨(fun none_ => by rw [walk] at none_; cases none_), fun ns e => by
    rw [walk] at e
    cases e
    exact absurd rfl (other ns)⟩

theorem State.afterWalk_noAudit (s : State) (a : AuditStep) : s.afterWalk.sweep.walk ≠ some (.audit a) := by
  unfold State.afterWalk
  split
  · exact nofun
  · split_ifs <;> exact nofun

theorem State.rebuildStep_fits (fits : s.OrderFits) {a : AuditStep} (walk : s.sweep.walk = some (.audit a)) :
    (s.rebuildStep a).OrderFits := by
  have gathers : ∀ (t u : State) n found, (t.setAuditStep (u.gatherFrom n found)).OrderFits := fun t u n found =>
    .of_step rfl fun ns e => by
      unfold State.gatherFrom at e
      split at e <;> cases e
  cases a with
  | gather n found =>
    simp only [State.rebuildStep]
    split
    · exact gathers _ _ _ _
    · exact gathers _ _ _ _
  | shed ns =>
    have starts : ∀ ns : List Nat, ns.length ≤ 512 → ((s.setOrder ⟨none, none, 0⟩).setAuditStep (.link ns)).OrderFits :=
      fun ns few => ⟨nofun, fun ms e => by
        cases e
        exact ⟨by show 0 + ns.length ≤ 512; omega, fun t e => by cases e⟩⟩
    cases ns with
    | nil => exact starts [] (Nat.zero_le _)
    | cons n rest =>
      simp only [State.rebuildStep]
      split
      next few => exact starts _ few
      next =>
        obtain ⟨records, counters, stall, waiting, e⟩ := State.walkRecords_eq
          ((s.shedOrphan n).2.setAuditStep (.shed rest)) (s.shedOrphan n).1
        exact .of_step (a := .shed rest) (by rw [e]; rfl) nofun
  | link ns =>
    obtain ⟨length, tails⟩ := fits.2 ns walk
    cases ns with
    | nil =>
      show (s.setAuditStep .ending).endIfFinished.OrderFits
      by_cases done : s.sweep.waiting.isEmpty = true
      · have ends : (s.setAuditStep .ending).endIfFinished = (s.setAuditStep .ending).endWalk (.audit .ending) :=
          if_pos (by simp only [Walk.finished, Bool.true_and]; exact done)
        rw [ends]
        obtain ⟨w, e⟩ := State.afterWalk_frame { s.setAuditStep .ending with
          table := { s.table with marks := [] }
          auditOp := s.auditOp.map (AuditOperation.walked s.table.counts.quarantined) }
        refine ⟨fun _ => ?_, fun ns e => absurd e (State.afterWalk_noAudit _ _)⟩
        show (State.afterWalk _).table.order.length ≤ 512
        exact (congrArg (fun t : State => t.table.order.length) e).trans_le length
      · have rests : (s.setAuditStep .ending).endIfFinished = s.setAuditStep .ending :=
          if_neg (by simp only [Walk.finished, Bool.true_and]; exact done)
        rw [rests]
        exact .of_step rfl nofun
    | cons n rest =>
      obtain ⟨longer, tails'⟩ := State.linkOrphan_fits tails n
      refine ⟨nofun, fun ms e => ?_⟩
      cases e
      rw [List.length_cons] at length
      exact ⟨by show (s.linkOrphan n).table.order.length + rest.length ≤ 512; omega, tails'⟩
  | chains b p => exact fits
  | slots n => exact fits
  | tests n => exact fits
  | ending => exact fits

theorem runRebuild_fits : ∀ (k : Nat) {s : State}, s.OrderFits → (runRebuild k s).OrderFits := by
  intro k
  induction k with
  | zero => exact fun h => h
  | succ k ih =>
    intro s fits
    unfold runRebuild
    split
    next walk =>
      split
      · exact ih (State.rebuildStep_fits fits walk)
      · exact fits
    · exact fits

end Sys2Proof.Machine
end

section
/-! PROOFS. The whole rebuild when the marked orphans all read (R72): the oldest beyond 512 settled, the rest in the order of their
arrival, and the statement on AUDIT_ORDER_REBUILD. -/

namespace Sys2Proof.Machine

variable {s : State}

/-! ### The orphans for which the new order has no room (R72) -/

/-- What a record tells of the orphan it settles. -/
def JourneyRecord.told (r : JourneyRecord) : RecordKind × Token × Bool := (r.kind, r.token, r.flags.recovered)

/-- What the record of an orphan that finds no room tells. -/
def Orphan.toldOf (o : Orphan) : RecordKind × Token × Bool := (.unmatchedExit, o.token, o.flags.recovered)

/-- `v` is `s` with the orphans `zs` settled, their records `rs` appended, and the orphans `stay` left to be linked. -/
structure State.ShedAll (s : State) (zs stay : List (Nat × Orphan)) (rs : List JourneyRecord) (v : State) : Prop where
  walk : v.sweep.walk = some (.audit (.shed (stay.map (·.1))))
  waiting : v.sweep.waiting = []
  mode : v.mode = s.mode
  auditOp : v.auditOp = s.auditOp
  counted : v.sweep.auditCounts.rebuildSettled = s.sweep.auditCounts.rebuildSettled + zs.length
  gone : ∀ z ∈ zs, v.slot z.1 = none
  free : ∀ m, s.slot m = none → v.slot m = none
  stays : ∀ x ∈ stay, v.OrphanStays x.1 x.2
  records : v.records = s.records ++ rs
  told : rs.map JourneyRecord.told = zs.map fun z => z.2.toldOf
  unmoved : zs = [] → v = s

theorem runRebuild_shed {stay : List (Nat × Orphan)} : ∀ (zs : List (Nat × Orphan)) (s : State), s.Stored →
    s.sweep.walk = some (.audit (.shed ((zs ++ stay).map (·.1)))) → s.sweep.waiting = [] →
    (zs = [] ∨ stay.length = 512 ∧ s.sweep.kept = [] ∧ s.records.length + zs.length ≤ 256) →
    ((zs ++ stay).map (·.1)).Nodup → (∀ x ∈ zs ++ stay, s.OrphanStays x.1 x.2) →
    ∃ v rs, (∀ k, runRebuild (zs.length + k) s = runRebuild k v) ∧ s.ShedAll zs stay rs v := by
  intro zs
  induction zs with
  | nil =>
    intro s stored walk waiting _ _ stays
    exact ⟨s, [], fun k => by rw [List.length_nil, Nat.zero_add], {
      walk := walk
      waiting := waiting
      mode := rfl
      auditOp := rfl
      counted := rfl
      gone := fun _ h => by cases h
      free := fun _ h => h
      stays := stays
      records := (List.append_nil _).symm
      told := rfl
      unmoved := fun _ => rfl }⟩
  | cons z zs ih =>
    intro s stored walk waiting room once stays
    obtain ⟨many, kept, room⟩ := room.resolve_left (List.cons_ne_nil _ _)
    obtain ⟨notIn, once⟩ := List.nodup_cons.1 once
    obtain ⟨next, nextOrder, held⟩ := stays z List.mem_cons_self
    let a : Orphan := { z.2 with next := next, nextOrder := nextOrder }
    let rest := (zs ++ stay).map (·.1)
    have long : 512 ≤ rest.length := by
      simp only [rest, List.length_map, List.length_append]
      omega
    have sheds := State.sheds stored z.1 a rest
    generalize hw : s.shedTo z.1 a rest = w at sheds
    generalize hr : (s.settleOrphan z.1 a {}).1 = r at sheds
    have fits : w.records.length < 256 := by
      rw [sheds.records]
      rw [List.length_cons] at room
      omega
    have step : s.rebuildStep (.shed (z.1 :: rest)) = w.appendRecord r := by
      rw [State.rebuildStep_shed long held, hw, hr,
        State.walkRecords_one (sheds.kept.trans kept) (sheds.waiting.trans waiting) fits]
    have apart : ∀ x ∈ zs ++ stay, x.1 ≠ z.1 := fun x hx e => notIn (List.mem_map.2 ⟨x, hx, e⟩)
    obtain ⟨v, rs, run, all⟩ := ih (w.appendRecord r) (sheds.stored.same rfl rfl rfl) sheds.walk (sheds.waiting.trans waiting)
      (.inr ⟨many, sheds.kept.trans kept, by
        show (w.records ++ [r]).length + zs.length ≤ 256
        rw [sheds.records, List.length_append, List.length_singleton]
        rw [List.length_cons] at room
        omega⟩) once fun x hx => sheds.stays x.1 x.2 (apart x hx) (stays x (List.mem_cons_of_mem _ hx))
    refine ⟨v, r :: rs, fun k => ?_, {
      walk := all.walk
      waiting := all.waiting
      mode := all.mode.trans sheds.mode
      auditOp := all.auditOp.trans sheds.auditOp
      counted := ?_
      gone := fun x hx => ?_
      free := fun m h => all.free m (sheds.free m h)
      stays := all.stays
      records := ?_
      told := ?_
      unmoved := fun e => by cases e }⟩
    · rw [List.length_cons, Nat.add_right_comm, runRebuild_step _ walk rfl waiting]
      exact (congrArg (runRebuild (zs.length + k)) step).trans (run k)
    · refine all.counted.trans ?_
      show w.sweep.auditCounts.rebuildSettled + zs.length = _
      rw [sheds.counted, List.length_cons]
      omega
    · rcases List.mem_cons.1 hx with rfl | hx
      · exact all.free _ sheds.gone
      · exact all.gone x hx
    · refine all.records.trans ?_
      show w.records ++ [r] ++ rs = _
      rw [sheds.records, List.append_assoc]
      rfl
    · rw [List.map_cons, List.map_cons, all.told]
      exact congrArg (· :: _) sheds.told

/-! ### The rebuild from there on (R72) -/

/-- With 512 orphans or fewer the old order is gone, and they are to be linked. -/
theorem State.rebuildStep_few {ns : List Nat} (few : ns.length ≤ 512) :
    s.rebuildStep (.shed ns) = (s.setOrder ⟨none, none, 0⟩).setAuditStep (.link ns) := by
  cases ns with
  | nil => rfl
  | cons n rest => exact if_pos few

/-- The order replaced twice is the later one. -/
theorem State.setOrder_linkedAs (s : State) (first : OrphanOrder) (slots : List (Nat × Slot)) (o : OrphanOrder) :
    (s.setOrder first).linkedAs slots o = s.linkedAs slots o := rfl

theorem runRebuild_finish {ys : List (Nat × Orphan)} (walk : s.sweep.walk = some (.audit (.shed (ys.map (·.1)))))
    (waiting : s.sweep.waiting = []) (mode : s.mode = .maintenance) (few : ys.length ≤ 512)
    (held : ∀ y ∈ ys, s.slot y.1 = some (.allocated (.orphan y.2) true)) (once : (ys.map (·.1)).Nodup) :
    ∃ slots, s.LinkedInOrder ys slots ∧ ∀ k, runRebuild (ys.length + k + 2) s =
      (s.linkedAs slots ⟨ys.head?.map (·.1), lastSlot ys, ys.length⟩).auditEnded := by
  obtain ⟨slots, order, run⟩ := runRebuild_link (s := s.setOrder ⟨none, none, 0⟩) waiting rfl held once
  refine ⟨slots, ⟨order.linked, order.others⟩, fun k => ?_⟩
  rw [runRebuild_step _ walk rfl waiting, State.rebuildStep_few (by rwa [List.length_map]), Nat.add_assoc, run (k + 1),
    State.setOrder_linkedAs, runRebuild_end (s := s.linkedAs slots _) k waiting mode]

/-- The orphan that a slot holds, or another where it holds none. -/
def State.orphanAt (s : State) (x : Nat × Orphan) : Orphan :=
  match s.slot x.1 with
  | some (.allocated (.orphan o) _) => o
  | _ => x.2

theorem State.orphanAt_eq {x : Nat × Orphan} {o : Orphan} {k : Bool} (h : s.slot x.1 = some (.allocated (.orphan o) k)) :
    s.orphanAt x = o := by
  unfold State.orphanAt
  rw [h]

/-! ### The whole rebuild (R72) -/

/-- An audit in MAINTENANCE comes to its fourth step, with no record waiting, and the marked orphans, in the order of their
arrival, all read. -/
structure State.Rebuilds (s : State) (xs : List (Nat × Orphan)) : Prop where
  stored : s.Stored
  free : s.tableFree = true
  mode : s.mode = .maintenance
  walk : s.sweep.walk = some (.audit (s.gatherFrom 0 []))
  waiting : s.sweep.waiting = []
  listed : ∀ n o, (n, o) ∈ xs ↔ n ∈ s.table.marks ∧ s.slot n = some (.allocated (.orphan o) true)
  read : ∀ n ∈ s.table.marks, ∀ o, s.slot n ≠ some (.allocated (.orphan o) false)
  sorted : xs.Pairwise fun x y => x.2.arrival < y.2.arrival ∨ x.2.arrival = y.2.arrival ∧ x.1 < y.1

namespace State.Rebuilds

variable {xs : List (Nat × Orphan)} (h : s.Rebuilds xs)
include h

theorem held {x : Nat × Orphan} (hx : x ∈ xs) : s.slot x.1 = some (.allocated (.orphan x.2) true) := by
  obtain ⟨-, held⟩ := (h.listed x.1 x.2).1 hx
  exact held

theorem once : (xs.map (·.1)).Nodup := by
  refine List.pairwise_map.2 (h.sorted.imp_of_mem fun {x y} hx hy before e => ?_)
  have same : x.2 = y.2 := by
    have := (h.held hx).symm.trans ((congrArg s.slot e).trans (h.held hy))
    simpa using this
  rw [same, e] at before
  omega

/-- A marked orphan reads. -/
theorem intact {m : Nat} (hm : m ∈ s.markedOrphans 0) : ∃ o, s.slot m = some (.allocated (.orphan o) true) := by
  obtain ⟨marked, -, kind⟩ := State.mem_markedOrphans.1 hm
  unfold State.kind at kind
  cases slot : s.slot m with
  | none =>
    rw [slot] at kind
    cases kind
  | some x =>
    rw [slot] at kind
    cases x with
    | quarantined => cases kind
    | allocated c k =>
      cases c with
      | core c => cases kind
      | extension e => cases kind
      | orphan o =>
        cases k with
        | true => exact ⟨o, rfl⟩
        | false => exact absurd slot (h.read m marked o)

/-- The reading of the marked orphans puts them in the order listed. -/
theorem gathered : (s.markedOrphans 0).length = xs.length ∧ ∀ k, runRebuild (xs.length + k) s =
    runRebuild k (s.setAuditStep (.shed (xs.map (·.1)))) := by
  obtain ⟨all, ordered, length, members, run⟩ := runRebuild_gather h.stored h.waiting (fun m hm => h.intact hm) _ 0 [] rfl .nil
    (by simp)
  have allEq : all = xs.map fun x => (x.1, x.2.arrival) := by
    refine eq_of_arrivesBefore ordered (List.pairwise_map.2 h.sorted) fun y => ?_
    rw [members, List.mem_map]
    constructor
    · rintro (old | ⟨hm, o, held, arrival⟩)
      · cases old
      · obtain ⟨marked, -⟩ := State.mem_markedOrphans.1 hm
        exact ⟨(y.1, o), (h.listed y.1 o).2 ⟨marked, held⟩, Prod.ext rfl arrival⟩
    · rintro ⟨x, hx, rfl⟩
      obtain ⟨marked, held⟩ := (h.listed x.1 x.2).1 hx
      exact .inr ⟨State.mem_markedOrphans.2 ⟨marked, Nat.zero_le _, State.kind_of_allocated held⟩, x.2, held, rfl⟩
  have count : (s.markedOrphans 0).length = xs.length := by
    rw [allEq, List.length_map, List.length_nil, Nat.zero_add] at length
    exact length.symm
  have here : s.setAuditStep (s.gatherFrom 0 []) = s := by rw [State.setAuditStep, ← h.walk]
  refine ⟨count, fun k => ?_⟩
  rw [here, count, allEq, List.map_map] at run
  exact run k

/-- The command takes enough steps for the whole rebuild. -/
theorem most : ∃ j, s.rebuildMost = xs.length + (xs.length + j + 2) := by
  obtain ⟨count, -⟩ := h.gathered
  have fewer : xs.length ≤ s.table.marks.length := count ▸ List.length_filter_le _ _
  have next := h.walk
  unfold State.gatherFrom at next
  rw [State.nextMarkedOrphan_eq] at next
  unfold State.rebuildMost
  cases list : s.markedOrphans 0 with
  | nil =>
    rw [list] at next count
    rw [next, ← count]
    exact ⟨1, rfl⟩
  | cons m rest =>
    rw [list] at next
    rw [next]
    exact ⟨2 * (s.table.marks.length - xs.length) + 1, by
      show 2 * (s.table.marks.length + 0) + 3 = _
      omega⟩

theorem exec_whole : ∃ j, exec (.auditOrderRebuild none) s =
    .next (runRebuild (xs.length + j + 2) (s.setAuditStep (.shed (xs.map (·.1))))) := by
  obtain ⟨-, run⟩ := h.gathered
  obtain ⟨j, most⟩ := h.most
  exact ⟨j, by rw [exec_auditOrderRebuild h.free, Option.getD_none, most, run]⟩

/-- The rebuild to its end, where the records of the orphans that find no room have room. -/
theorem ends {shed stay : List (Nat × Orphan)} (split : xs = shed ++ stay) (few : stay.length ≤ 512)
    (room : shed = [] ∨ stay.length = 512 ∧ s.sweep.kept = [] ∧ s.records.length + shed.length ≤ 256) :
    ∃ v rs slots, exec (.auditOrderRebuild none) s =
        .next (v.linkedAs slots ⟨stay.head?.map (·.1), lastSlot stay, stay.length⟩).auditEnded ∧
      (s.setAuditStep (.shed (xs.map (·.1)))).ShedAll shed stay rs v ∧
      v.LinkedInOrder (stay.map fun x => (x.1, v.orphanAt x)) slots := by
  obtain ⟨j, run⟩ := h.exec_whole
  have once := h.once
  rw [split] at once
  obtain ⟨v, rs, shedRun, all⟩ := runRebuild_shed shed (s.setAuditStep (.shed (xs.map (·.1)))) (h.stored.same rfl rfl rfl)
    (by rw [split]; rfl) h.waiting room once fun x hx => ⟨x.2.next, x.2.nextOrder, h.held (split ▸ hx)⟩
  let ys := stay.map fun x => (x.1, v.orphanAt x)
  have first : ys.map (·.1) = stay.map (·.1) := by simp [ys, Function.comp_def]
  obtain ⟨slots, order, finish⟩ := runRebuild_finish (s := v) (ys := ys) (by rw [first]; exact all.walk) all.waiting
    (all.mode.trans h.mode) (by rwa [List.length_map])
    (fun y hy => by
      obtain ⟨x, hx, rfl⟩ := List.mem_map.1 hy
      obtain ⟨next, nextOrder, held⟩ := all.stays x hx
      show v.slot x.1 = some (.allocated (.orphan (v.orphanAt x)) true)
      rw [State.orphanAt_eq held, held])
    (by rw [first]; exact (List.nodup_append.1 (List.map_append ▸ once)).2.1)
  refine ⟨v, rs, slots, ?_, all, order⟩
  have length : xs.length + j + 2 = shed.length + (ys.length + j + 2) := by
    rw [split, List.length_append, List.length_map]
    omega
  have order_eq : (⟨ys.head?.map (·.1), lastSlot ys, ys.length⟩ : OrphanOrder) =
      ⟨stay.head?.map (·.1), lastSlot stay, stay.length⟩ := by
    simp [ys, lastSlot, Function.comp_def]
  rw [run, length, shedRun, finish, order_eq]

end State.Rebuilds

/-- Settles O34: the reading of the marked orphans, the settlement of the oldest and the linking of the rest, one after
another. -/
theorem auditRebuildsTheOrder : Obligations.AuditRebuildsTheOrder := by
  unfold Obligations.AuditRebuildsTheOrder
  refine ⟨?_, fun k s t first => exec_auditOrderRebuild_resumes first, ?_⟩
  · intro s stored free mode walk waiting
    refine ⟨⟨_, exec_auditOrderRebuild free none, fun ended => ?_⟩, fun xs listed read sorted => ?_⟩
    · have fits : s.OrderFits := .of_step walk fun ns e => by
        unfold State.gatherFrom at e
        split at e <;> cases e
      obtain ⟨length, -⟩ := runRebuild_fits s.rebuildMost fits
      exact length ended
    intro shed stay
    have h : s.Rebuilds xs := ⟨stored, free, mode, walk, waiting, listed, read, sorted⟩
    have split : xs = shed ++ stay := (List.take_append_drop _ xs).symm
    have few : stay.length ≤ 512 := by
      simp only [stay, List.length_drop]
      omega
    refine ⟨fun room => ?_, fun x later many first full => ?_⟩
    · obtain ⟨v, rs, slots, run, all, order⟩ := h.ends split few (by
        by_cases none_ : shed = []
        · exact .inl none_
        · obtain ⟨kept, room⟩ := room.resolve_left none_
          refine .inr ⟨?_, kept, room⟩
          have some_ : 0 < shed.length := List.length_pos_iff.2 none_
          simp only [shed, stay, List.length_take, List.length_drop] at some_ ⊢
          omega)
      have once := h.once
      rw [split, List.map_append] at once
      have listedFirst : (stay.map fun x => (x.1, v.orphanAt x)).map (·.1) = stay.map (·.1) := by simp [Function.comp_def]
      refine ⟨_, rs, run, rfl, rfl, rfl, fun i n o hi => ?_, fun none_ m hm => ?_, fun x hx => ?_, all.records, all.told,
        all.counted, congrArg (Option.map _) all.auditOp⟩
      · obtain ⟨next, nextOrder, held⟩ := all.stays (n, o) (List.mem_of_getElem? hi)
        have linked := order.linked i (n, v.orphanAt (n, o)) (by rw [List.getElem?_map, hi]; rfl)
        rw [State.orphanAt_eq held, List.getElem?_map, Option.map_map] at linked
        refine ⟨next, linked, fun none_ => ?_⟩
        have unmoved := h.held (x := (n, o)) (split ▸ List.mem_append_right _ (List.mem_of_getElem? hi))
        rw [all.unmoved none_] at held
        have same := held.symm.trans unmoved
        simp only [Option.some.injEq, Slot.allocated.injEq, Content.orphan.injEq, and_true] at same
        exact congrArg Orphan.next same
      · have notStay : m ∉ stay.map (·.1) := fun k => hm (by rw [split, List.map_append]; exact List.mem_append_right _ k)
        refine (order.others m (by rwa [listedFirst])).trans ?_
        rw [all.unmoved none_]
        rfl
      · refine (order.others x.1 fun k => ?_).trans (all.gone x hx)
        rw [listedFirst] at k
        exact (List.nodup_append.1 once).2.2 x.1 (List.mem_map_of_mem hx) x.1 k rfl
    · obtain ⟨j, run⟩ := h.exec_whole
      have held := h.held (x := x) (first ▸ List.mem_cons_self)
      have long : 512 ≤ (later.map (·.1)).length := by
        rw [first, List.length_cons] at many
        rw [List.length_map]
        omega
      let u := s.setAuditStep (.shed (x.1 :: later.map (·.1)))
      have sheds := State.sheds (s := u) (stored.same rfl rfl rfl) x.1 x.2 (later.map (·.1))
      have step := State.rebuildStep_shed (s := u) long held
      generalize u.shedTo x.1 x.2 (later.map (·.1)) = w at sheds step
      generalize (u.settleOrphan x.1 x.2 {}).1 = r at sheds step
      rw [State.walkRecords_full (sheds.waiting.trans waiting) (by rw [sheds.records]; exact full)] at step
      have told := sheds.told
      simp only [Prod.mk.injEq] at told
      obtain ⟨kind, token, -⟩ := told
      refine ⟨{ w with sweep := { w.sweep with waiting := [r] } }, r, ?_, sheds.walk, rfl, sheds.records, kind, token,
        sheds.gone, sheds.counted⟩
      rw [run, first, List.map_cons, runRebuild_step (s := u) _ rfl rfl waiting, step]
      exact congrArg _ (runRebuild_rests _ (.inr (List.cons_ne_nil _ _)))
  · intro n o s stored free waiting held on
    refine ⟨fun found walk marked => ?_, fun later walk => ?_⟩
    · rw [exec_auditOrderRebuild free, Option.getD_some, runRebuild_step 0 walk rfl waiting,
        State.rebuildStep_gather stored marked held]
      rfl
    · have link : s.linkOrphan n = (s.setNextOrder n none).appendToOrder n := by
        unfold State.linkOrphan
        rw [State.readSlot_of_intact held]
      rw [exec_auditOrderRebuild free, Option.getD_some, runRebuild_step 0 walk rfl waiting, State.rebuildStep_link, link]
      rfl

end Sys2Proof.Machine
end

section
/-! PROOFS. Records that wait for room (R75, R76, R100, R139): what an append while there is room leaves waiting, how a
tap's handling ends with its records, and the two commands that append a record that waited; and the counters (R168). -/

namespace Sys2Proof.Machine

variable {s : State}

/-! ### Records appended while there is room (R76, R100) -/

theorem State.recordRoom_iff : s.recordRoom = true ↔ s.records.length < 256 := by
  simp [State.recordRoom, Config.recordQueueCapacity]

theorem State.recordRoom_false (full : 256 ≤ s.records.length) : ¬s.recordRoom = true := by
  rw [State.recordRoom_iff]
  exact Nat.not_lt.2 full

theorem foldl_appendRecord_records (rs : List JourneyRecord) :
    ∀ s : State, (rs.foldl State.appendRecord s).records = s.records ++ rs := by
  induction rs with
  | nil => exact fun s => (List.append_nil _).symm
  | cons r rest ih =>
    intro s
    rw [List.foldl_cons, ih, State.appendRecord_records, List.append_assoc]
    rfl

/-- With 256 records queued, all wait. -/
theorem appendWhileRoom_full (full : 256 ≤ s.records.length) (rs : List JourneyRecord) :
    appendWhileRoom rs s = (rs, s) := by
  cases rs with
  | nil => rfl
  | cons r rest => exact if_neg (State.recordRoom_false full)

/-- Records that find room are appended in order, before those after them. -/
theorem appendWhileRoom_append (later first : List JourneyRecord) :
    ∀ s : State, s.records.length + first.length ≤ 256 →
      appendWhileRoom (first ++ later) s = appendWhileRoom later (first.foldl State.appendRecord s) := by
  induction first with
  | nil => exact fun _ _ => rfl
  | cons r rest ih =>
    intro s room
    rw [List.length_cons] at room
    have now : s.recordRoom = true := State.recordRoom_iff.2 (by omega)
    refine (if_pos now).trans (ih (s.appendRecord r) ?_)
    rw [State.appendRecord_records, List.length_append, List.length_singleton]
    omega

theorem appendWhileRoom_all {rs : List JourneyRecord} (room : s.records.length + rs.length ≤ 256) :
    appendWhileRoom rs s = ([], rs.foldl State.appendRecord s) := by
  have appended := appendWhileRoom_append [] rs s room
  rwa [List.append_nil] at appended

/-! ### The end of a tap's handling (R75, R82, R100) -/

theorem State.verdictOffered_records (s : State) (e : TapEntry) (o : TapOutcome) :
    (s.verdictOffered e o).records = s.records := by
  obtain ⟨queue, stale, offered⟩ := s.verdictOffered_eq e o
  rw [offered]

/-- A tap's handling ends with its verdict offered, its records appended while there is room, and the unit as those that
wait leave it. -/
theorem State.finishTap_eq {e : TapEntry} {o : TapOutcome} {waiting : List JourneyRecord} {t : State}
    (appended : appendWhileRoom o.records (s.verdictOffered e o) = (waiting, t)) :
    s.finishTap e o = { t with unit := if waiting = [] then .idle else .appending waiting } := by
  show ({ (appendWhileRoom o.records (s.verdictOffered e o)).2 with
    unit := if (appendWhileRoom o.records (s.verdictOffered e o)).1 = [] then .idle
      else .appending (appendWhileRoom o.records (s.verdictOffered e o)).1 } : State) = _
  rw [appended]

theorem State.finishTap_all {e : TapEntry} {o : TapOutcome} (room : s.records.length + o.records.length ≤ 256) :
    s.finishTap e o = { o.records.foldl State.appendRecord (s.verdictOffered e o) with unit := .idle } := by
  rw [← s.verdictOffered_records e o] at room
  rw [State.finishTap_eq (appendWhileRoom_all room), if_pos rfl]

theorem State.finishTap_waits {e : TapEntry} {o : TapOutcome} {first later : List JourneyRecord}
    (split : o.records = first ++ later) (left : later ≠ []) (full : s.records.length + first.length = 256) :
    s.finishTap e o = { first.foldl State.appendRecord (s.verdictOffered e o) with unit := .appending later } := by
  rw [← s.verdictOffered_records e o] at full
  have noRoom : 256 ≤ (first.foldl State.appendRecord (s.verdictOffered e o)).records.length := by
    rw [foldl_appendRecord_records, List.length_append]
    exact full.ge
  have appended := (appendWhileRoom_append later first _ full.le).trans (appendWhileRoom_full noRoom later)
  rw [← split] at appended
  rw [State.finishTap_eq appended, if_neg left]

/-! ### The unit appends what waits (R100) -/

section
variable {r : JourneyRecord} {rest : List JourneyRecord}

theorem exec_recordAppend_room (unit : s.unit = .appending (r :: rest)) (room : s.records.length < 256) :
    exec .recordAppend s = .next { s.appendRecord r with unit := if rest = [] then .idle else .appending rest } := by
  show execRecordAppend s = _
  unfold execRecordAppend
  rw [unit]
  exact if_pos (State.recordRoom_iff.2 room)

theorem exec_recordAppend_full (unit : s.unit = .appending (r :: rest)) (full : 256 ≤ s.records.length) :
    exec .recordAppend s = .next s := by
  show execRecordAppend s = _
  unfold execRecordAppend
  rw [unit]
  exact if_neg (State.recordRoom_false full)

/-! ### A walk's records (R139) -/

/-- A record waits behind a full queue, and behind any record that waits already. -/
theorem State.walkRecords_waits (r : JourneyRecord)
    (waits : 256 ≤ s.records.length ∨ s.sweep.kept ≠ [] ∨ s.sweep.waiting ≠ []) :
    s.walkRecords [r] = { s with sweep := { s.sweep with waiting := s.sweep.waiting ++ [r] } } := by
  by_cases before : s.sweep.kept = [] ∧ s.sweep.waiting = []
  · obtain ⟨noneKept, noneWaiting⟩ := before
    have full : 256 ≤ s.records.length :=
      waits.resolve_right fun k => k.elim (fun h => h noneKept) fun h => h noneWaiting
    rw [State.walkRecords_full noneWaiting full, noneWaiting]
    rfl
  · exact if_neg before

/-- A walk with nothing left to examine and no record that waits ends; any other goes on, and so does no walk. -/
theorem State.endIfFinished_ends {w : Walk} (walk : s.sweep.walk = some w) (finished : w.finished = true)
    (waiting : s.sweep.waiting = []) : s.endIfFinished = s.endWalk w := by
  unfold State.endIfFinished
  rw [walk, waiting]
  exact if_pos (by rw [finished]; rfl)

theorem State.endIfFinished_goesOn (unfinished : ∀ w, s.sweep.walk = some w → w.finished = false) :
    s.endIfFinished = s := by
  unfold State.endIfFinished
  cases walk : s.sweep.walk with
  | none => rfl
  | some w => exact if_neg (by rw [unfinished w walk]; nofun)

theorem exec_walkRecordAppend_full (full : 256 ≤ s.records.length) : exec .walkRecordAppend s = .next s :=
  if_neg (State.recordRoom_false full)

section
variable (room : s.records.length < 256)
include room

theorem exec_walkRecordAppend_kept (kept : s.sweep.kept = r :: rest) :
    exec .walkRecordAppend s = .next { s.appendRecord r with sweep := { s.sweep with kept := rest } } := by
  refine (if_pos (State.recordRoom_iff.2 room)).trans ?_
  rw [kept]
  rfl

theorem exec_walkRecordAppend_waiting (kept : s.sweep.kept = []) (waiting : s.sweep.waiting = r :: rest) :
    exec .walkRecordAppend s =
      .next { s.appendRecord r with sweep := { s.sweep with waiting := rest } }.endIfFinished := by
  refine (if_pos (State.recordRoom_iff.2 room)).trans ?_
  rw [kept, waiting]
  rfl

end

end

/-! ### The counters (R168) -/

theorem raised_below {n : Nat} (below : n < 4294967295) : raised n = n + 1 := if_pos below

theorem raised_greatest : raised 4294967295 = 4294967295 := if_neg (Nat.lt_irrefl _)

/-- Settles O44: each clause by the rule of the operation it speaks of. -/
theorem waitingRecordsAreAppended : Obligations.WaitingRecordsAreAppended := by
  unfold Obligations.WaitingRecordsAreAppended
  refine ⟨fun n c => ?_, ?_, ⟨fun s r => rfl, fun s r rest unit => ?_, fun s r rest => ?_, fun s r => ?_⟩, ?_⟩
  · exact ⟨raised_below, raised_greatest, rfl, rfl, rfl, rfl, rfl, rfl, rfl, rfl, rfl, rfl, rfl, rfl⟩
  · intro s e o u
    exact ⟨State.finishTap_all, fun first later split left full => State.finishTap_waits split left full⟩
  · exact ⟨exec_recordAppend_room unit, exec_recordAppend_full unit⟩
  · refine ⟨exec_walkRecordAppend_full, exec_walkRecordAppend_kept, fun room kept waiting unfinished => ?_⟩
    exact (exec_walkRecordAppend_waiting room kept waiting).trans (congrArg _ (State.endIfFinished_goesOn unfinished))
  · exact ⟨fun room kept waiting => State.walkRecords_one kept waiting room, State.walkRecords_waits r⟩
  · intro s r w room kept waiting walk finished
    exact (exec_walkRecordAppend_waiting room kept waiting).trans
      (congrArg _ (State.endIfFinished_ends walk finished rfl))

end Sys2Proof.Machine
end

section
/-! PROOFS. Egress (R150, R158, R159): the source a grant takes and the counts it leaves, the item that leaves its source, and
the characters a port sends. -/

namespace Sys2Proof.Machine

variable {s : State}

/-! ### Counts of the sources passed over (R158) -/

theorem PassedOver.count_set (c : PassedOver) (n : Nat) (x y : Source) :
    (c.set n x).count y = if y = x then n else c.count y := by
  cases x <;> cases y <;> rfl

/-- The passed-over count that a grant of `x` leaves of a source it judges, from the count before. -/
def State.countAfter (s : State) (x y : Source) (before : Nat) : Nat :=
  if y = x then 0 else if s.ready y then s.passed.count y + 1 else before

/-- A grant of `x` counts one source. -/
theorem State.count_passStep (s : State) (x a y : Source) (c : Machine.PassedOver) :
    (if a = x then c.set 0 a else if s.ready a then c.set (s.passed.count a + 1) a else c).count y =
      if y = a then s.countAfter x a (c.count a) else c.count y := by
  unfold State.countAfter
  split
  · rw [PassedOver.count_set]
  · split
    · rw [PassedOver.count_set]
    · split
      next same => rw [same]
      · rfl

theorem State.countAfter_twice (s : State) (x y : Source) (n : Nat) :
    s.countAfter x y (s.countAfter x y n) = s.countAfter x y n := by
  unfold State.countAfter
  split
  · rfl
  · split <;> rfl

/-- A grant of `x` counts each source of a list, and no other. -/
theorem State.count_passed (s : State) (x y : Source) (l : List Source) : ∀ c : Machine.PassedOver,
    (l.foldl (fun c a => if a = x then c.set 0 a else if s.ready a then c.set (s.passed.count a + 1) a else c) c).count y =
      if y ∈ l then s.countAfter x y (c.count y) else c.count y := by
  induction l with
  | nil => exact fun _ => rfl
  | cons a rest ih =>
    intro c
    rw [List.foldl_cons, ih, State.count_passStep]
    by_cases same : y = a
    · subst same
      simp [State.countAfter_twice]
    · simp [same]

/-- The counts after a grant to a source of the port (R158). -/
theorem State.passedAfter_count {p : Port} {x : Source} (source : x ∈ sourcesOf p) (y : Source) :
    (s.passedAfter p x).count y = if y = x then 0
      else if y ∈ sourcesOf p ∧ s.ready y = true then s.passed.count y + 1 else s.passed.count y := by
  unfold State.passedAfter
  rw [State.count_passed]
  unfold State.countAfter
  by_cases same : y = x
  · rw [same, if_pos source, if_pos rfl, if_pos rfl]
  · by_cases listed : y ∈ sourcesOf p <;> simp [same, listed]

/-! ### The source granted (R158) -/

section
variable {p : Port} {before after : List Source} {x : Source}

/-- The highest of the ready sources that stand at 8 or more is granted. -/
theorem State.granted_aged (sources : sourcesOf p = before ++ x :: after) (ready : s.ready x = true)
    (aged : 8 ≤ s.passed.count x) (younger : ∀ y ∈ before, s.ready y = true → s.passed.count y < 8) :
    s.granted p = some x := by
  have found :
      ((before ++ x :: after).filter s.ready).find? (fun y => s.passed.count y ≥ Config.passedOverLimit) = some x := by
    rw [List.filter_append, List.find?_append, List.filter_cons_of_pos ready, List.find?_eq_none.2, Option.none_or]
    · exact List.find?_cons_of_pos (decide_eq_true aged)
    intro y listed
    obtain ⟨earlier, isReady⟩ := List.mem_filter.1 listed
    exact fun k => Nat.not_le.2 (younger y earlier isReady) (of_decide_eq_true k)
  unfold State.granted
  rw [sources]
  dsimp only
  rw [found]
  rfl

/-- With no ready source at 8 or more the highest ready one is granted. -/
theorem State.granted_highest (sources : sourcesOf p = before ++ x :: after) (ready : s.ready x = true)
    (young : ∀ y ∈ sourcesOf p, s.ready y = true → s.passed.count y < 8) (higher : ∀ y ∈ before, s.ready y = false) :
    s.granted p = some x := by
  have noneAged : ((sourcesOf p).filter s.ready).find? (fun y => s.passed.count y ≥ Config.passedOverLimit) = none := by
    refine List.find?_eq_none.2 fun y listed k => ?_
    obtain ⟨source, isReady⟩ := List.mem_filter.1 listed
    exact Nat.not_le.2 (young y source isReady) (of_decide_eq_true k)
  have noneHigher : before.filter s.ready = [] :=
    List.filter_eq_nil_iff.2 fun y earlier k => Bool.false_ne_true ((higher y earlier).symm.trans k)
  unfold State.granted
  dsimp only
  rw [noneAged, sources, List.filter_append, noneHigher, List.filter_cons_of_pos ready]
  rfl

theorem State.granted_none (unready : ∀ y ∈ sourcesOf p, s.ready y = false) : s.granted p = none := by
  have nothing : (sourcesOf p).filter s.ready = [] :=
    List.filter_eq_nil_iff.2 fun y source k => Bool.false_ne_true ((unready y source).symm.trans k)
  unfold State.granted
  rw [nothing]
  rfl

end

/-! ### The item granted (R76, R159, R173) -/

theorem head?_isSome {α : Type} (l : List α) : l.head?.isSome = !l.isEmpty := by
  cases l <;> rfl

/-- A source holds an item to give exactly when it is ready. -/
theorem State.takeFrom_isSome (s : State) (x : Source) : (s.takeFrom x).isSome = s.ready x := by
  cases x <;> simp only [State.takeFrom, State.ready, Option.isSome_map, head?_isSome]

/-- An item leaves its source with no port touched. -/
theorem State.takeFrom_port {x : Source} {f : Frame} {t : State} (took : s.takeFrom x = some (f, t)) (p : Port) :
    t.port p = s.port p := by
  unfold State.takeFrom at took
  split at took
  all_goals
    obtain ⟨item, -, taken⟩ := Option.map_eq_some_iff.1 took
    cases taken
    cases p <;> rfl

section
variable {p : Port}

/-- A grant fills the empty holding frame with the item taken. -/
theorem exec_egressGrant {x : Source} {f : Frame} {t : State} (empty : (s.port p).holding = none)
    (running : (s.port p).partnerPaused = false) (granted : s.granted p = some x) (took : s.takeFrom x = some (f, t)) :
    exec (.egressGrant p) s = .next ({ t with passed := s.passedAfter p x }.hold p f) := by
  show execEgressGrant p s = _
  unfold execEgressGrant
  rw [empty, running, granted, Option.bind_some, took]
  rfl

theorem exec_egressGrant_stays (h : (s.port p).holding ≠ none ∨ (s.port p).partnerPaused = true ∨
    ∀ x ∈ sourcesOf p, s.ready x = false) : exec (.egressGrant p) s = .next s := by
  show execEgressGrant p s = _
  unfold execEgressGrant
  rcases h with full | paused | unready
  · rw [Option.isSome_iff_ne_none.2 full]
    rfl
  · rw [paused, Bool.or_true]
    rfl
  · rw [State.granted_none unready]
    exact ite_self _

theorem exec_endSent {f : Frame} (holding : (s.port p).holding = some f) :
    exec (.endSent p) s = .next (s.setPort p ((s.port p).sendToEnd f)) := by
  show execEndSent p s = _
  unfold execEndSent
  rw [holding]

/-- A grant to a ready source that the port's arbiter chooses (R158, R159). -/
theorem exec_egressGrant_chosen {x : Source} (source : x ∈ sourcesOf p) (ready : s.ready x = true)
    (empty : (s.port p).holding = none) (running : (s.port p).partnerPaused = false) (granted : s.granted p = some x) :
    ∃ f t u, s.takeFrom x = some (f, t) ∧
      exec (.egressGrant p) s =
        .next ({ t with passed := u }.setPort p { s.port p with holding := some f, position := 0 }) ∧
      ∀ y, u.count y = if y = x then 0 else if y ∈ sourcesOf p ∧ s.ready y = true then s.passed.count y + 1
        else s.passed.count y := by
  obtain ⟨⟨f, t⟩, took⟩ := Option.isSome_iff_exists.1 ((s.takeFrom_isSome x).trans ready)
  have port : ({ t with passed := s.passedAfter p x } : State).port p = s.port p := by
    rw [← State.takeFrom_port took p]
    cases p <;> rfl
  refine ⟨f, t, s.passedAfter p x, took, ?_, State.passedAfter_count source⟩
  rw [exec_egressGrant empty running granted took, State.hold, port]

end

/-! ### The characters a port sends (R150) -/

section
variable {ps : PortState} {f : Frame} {ch : Character}

theorem PortState.sendCharacter_fill (idle : ps.holding = none) :
    ps.sendCharacter = { ps with sent := ps.sent ++ [0x100] } := by
  unfold PortState.sendCharacter
  rw [idle]
  rfl

/-- What is left of a frame that a port sends is its next character and those after it. -/
theorem PortState.left_eq (next : f.characters[ps.position]? = some ch) :
    f.characters.drop ps.position = ch :: f.characters.drop (ps.position + 1) := by
  obtain ⟨inside, rfl⟩ := List.getElem?_eq_some_iff.1 next
  exact List.drop_eq_getElem_cons inside

section
variable (holding : ps.holding = some f) (next : f.characters[ps.position]? = some ch)
include holding next

theorem PortState.sendCharacter_inside (more : ps.position + 1 < f.characters.length) :
    ps.sendCharacter = { ps with position := ps.position + 1, sent := ps.sent ++ [ch] } := by
  unfold PortState.sendCharacter
  rw [holding]
  dsimp only
  rw [PortState.left_eq next, List.drop_eq_getElem_cons more]

/-- The END sent empties the holding frame. -/
theorem PortState.sendCharacter_last (last : ps.position + 1 = f.characters.length) :
    ps.sendCharacter = { ps with holding := none, position := 0, sent := ps.sent ++ [ch] } := by
  have left := PortState.left_eq next
  rw [List.drop_of_length_le last.ge] at left
  unfold PortState.sendCharacter
  rw [holding]
  dsimp only
  rw [left]
  dsimp only [PortState.sendToEnd]
  rw [left]

end

/-- A frame sent from its START for a number of characters short of its END. -/
theorem PortState.sendCharacter_many (holding : ps.holding = some f) (start : ps.position = 0) (k : Nat)
    (short : k < f.characters.length) : (List.range k).foldl (fun q _ => q.sendCharacter) ps =
      { ps with position := k, sent := ps.sent ++ f.characters.take k } := by
  induction k with
  | zero =>
    rw [List.take_zero, List.append_nil]
    exact congrArg (fun n => { ps with position := n }) start
  | succ k ih =>
    have inside : k < f.characters.length := by omega
    rw [List.range_succ, List.foldl_append, ih inside, List.foldl_cons, List.foldl_nil,
      PortState.sendCharacter_inside (ps := { ps with position := k, sent := ps.sent ++ f.characters.take k })
        holding (List.getElem?_eq_getElem inside) short, List.take_succ_eq_append_getElem inside,
      ← List.append_assoc]

theorem Frame.characters_length_pos (f : Frame) : 0 < f.characters.length := by
  simp [Frame.characters]

/-- As many characters as the frame has send the whole of it, and empty the holding frame. -/
theorem PortState.sendCharacter_whole (holding : ps.holding = some f) (start : ps.position = 0) :
    (List.range f.characters.length).foldl (fun q _ => q.sendCharacter) ps =
      { ps with holding := none, position := 0, sent := ps.sent ++ f.characters } := by
  obtain ⟨k, length⟩ : ∃ k, f.characters.length = k + 1 := ⟨f.characters.length - 1, by
    have := f.characters_length_pos
    omega⟩
  have inside : k < f.characters.length := by omega
  have whole : f.characters.take k ++ [f.characters[k]] = f.characters := by
    rw [← List.take_succ_eq_append_getElem inside, List.take_of_length_le (by omega)]
  rw [length, List.range_succ, List.foldl_append, PortState.sendCharacter_many holding start k inside, List.foldl_cons,
    List.foldl_nil, 
    PortState.sendCharacter_last (ps := { ps with position := k, sent := ps.sent ++ f.characters.take k })
      holding (List.getElem?_eq_getElem inside) length.symm,
    List.append_assoc, whole]

end

/-- Settles O57: the grant by the source it chooses, the item by its source, the characters by what is left of the frame. -/
theorem egressGrantsOneItem : Obligations.EgressGrantsOneItem := by
  unfold Obligations.EgressGrantsOneItem
  refine ⟨fun s => ?_, ⟨⟨rfl, rfl⟩, fun p s => ⟨exec_egressGrant_stays, fun f holding => exec_endSent holding, ?_⟩, ?_⟩,
    fun ps => ⟨PortState.sendCharacter_fill, fun f holding => ⟨fun ch => PortState.sendCharacter_inside holding,
      fun ch => PortState.sendCharacter_last holding, PortState.sendCharacter_whole holding⟩⟩⟩
  · simp [State.ready]
  · intro before x after empty running sources ready chosen
    have source : x ∈ sourcesOf p := by
      rw [sources]
      exact List.mem_append_right _ List.mem_cons_self
    refine exec_egressGrant_chosen source ready empty running ?_
    rcases chosen with ⟨aged, younger⟩ | ⟨young, higher⟩
    · exact State.granted_aged sources ready aged younger
    · exact State.granted_highest sources ready young higher
  · intro s form
    refine ⟨?_, ?_, ?_, ?_, ?_, ?_⟩
    all_goals
      intro item rest queue
      simp only [State.takeFrom, State.dropRecord, queue]
      rfl

end Sys2Proof.Machine
end

section
/-! PROOFS. Taps turned away (R75 to R78, R82, R83): what takes no tap, the form check, the tap refused in MAINTENANCE, and
the fate of a verdict offered. -/

namespace Sys2Proof.Machine

variable {s : State}

/-! ### The form check (R77) -/

theorem Tap.wellFormed_iff (t : Tap) : t.wellFormed = true ↔
    1 ≤ t.station ∧ t.station ≤ 64 ∧ 1 ≤ t.gate ∧ t.gate ≤ 64 ∧ t.direction ≤ 1 ∧ t.time ≤ 863999 ∧ 1 ≤ t.day ∧
      t.day ≤ 65535 ∧ t.gateDecided ≤ 1 := by
  simp only [Tap.wellFormed, Bool.and_eq_true, decide_eq_true_eq, Config.lastDecisecond, and_assoc]

/-! ### The tap taken (R75, R78) -/

/-- A unit that waits on records, and one that is free with no tap to take or the stall mark set, take no tap. -/
theorem exec_tapTake_stays (steps : Option Nat)
    (h : (s.unit = .idle ∧ (s.taps = [] ∨ s.stall = true)) ∨ ∃ rs, s.unit = .appending rs) :
    exec (.tapTake steps) s = .next s := by
  rcases h with ⟨unit, empty | stalled⟩ | ⟨rs, unit⟩
  · simp only [exec, execTapTake, unit, empty]
  · cases taps : s.taps with
    | nil => simp only [exec, execTapTake, unit, taps]
    | cons e rest => simp only [exec, execTapTake, unit, taps, stalled, if_true]
  · simp only [exec, execTapTake, unit]

section
variable {e : TapEntry} {rest : List TapEntry} (steps : Option Nat)

theorem exec_tapTake_takes (unit : s.unit = .idle) (running : s.stall = false) (taps : s.taps = e :: rest) :
    exec (.tapTake steps) s = .next ((s.tapTaken rest).takeTap e steps) := by
  simp only [exec, execTapTake, unit, taps, running]
  rfl

/-- A tap that is not well formed is discarded, counted and written to the fault record. -/
theorem State.takeTap_malformed (malformed : e.tap.wellFormed = false) : s.takeTap e steps =
    { s with counters := { s.counters with malformedTaps := raised s.counters.malformedTaps } }.writeFault
      .malformedTap e.tap.station :=
  if_pos malformed

/-- A well-formed tap in MAINTENANCE is counted refused, and offered NOT_IN_SERVICE when it is live. -/
theorem State.takeTap_maintenance (formed : e.tap.wellFormed = true) (mode : s.mode = .maintenance)
    (unit : s.unit = .idle) : s.takeTap e steps =
      { s with counters := { s.counters with tapsRefused := raised s.counters.tapsRefused } }.verdictOffered e
        (plainOutcome .notInService .none []) := by
  have refused : s.takeTap e steps =
      { s with counters := { s.counters with tapsRefused := raised s.counters.tapsRefused } }.finishTap e
        (plainOutcome .notInService .none []) := by
    unfold State.takeTap
    rw [if_neg (by rw [formed]; nofun), mode]
  rw [refused, State.finishTap_none _ _ rfl]
  obtain ⟨queue, stale, offered⟩ := State.verdictOffered_eq
    { s with counters := { s.counters with tapsRefused := raised s.counters.tapsRefused } } e
    (plainOutcome .notInService .none [])
  rw [offered, ← unit]

end

/-! ### A verdict offered (R82) -/

section
variable {stamp : Nat} (v : Verdict)

theorem State.offerVerdict_joins (formed : stamp ≤ s.clock.time)
    (fresh : s.clock.time - stamp ≤ s.settings.timing.verdictLife) (room : s.verdicts.length < 32) :
    s.offerVerdict stamp v = { s with verdicts := s.verdicts ++ [v] } := by
  refine if_neg ?_
  simp only [Config.verdictQueueCapacity]
  omega

theorem State.offerVerdict_stale (stale : s.clock.time < stamp ∨ s.settings.timing.verdictLife < s.clock.time - stamp ∨
    32 ≤ s.verdicts.length) : s.offerVerdict stamp v =
      { s with counters := { s.counters with staleVerdicts := raised s.counters.staleVerdicts } } :=
  if_pos stale

end

/-- Settles O35: the unit's state, the form check and the mode in the order in which a tap meets them, and the verdict. -/
theorem tapsTurnedAwayEarly : Obligations.TapsTurnedAwayEarly := by
  unfold Obligations.TapsTurnedAwayEarly
  refine ⟨fun steps s => exec_tapTake_stays steps, ?_,
    fun s stamp v => ⟨State.offerVerdict_joins v, State.offerVerdict_stale v⟩⟩
  intro steps s e rest unit running taps formed taken
  have formed_iff : e.tap.wellFormed = true ↔ formed := e.tap.wellFormed_iff
  rw [exec_tapTake_takes steps unit running taps]
  refine ⟨formed_iff, fun malformed => ?_, fun wellFormed mode => ?_⟩
  · rw [State.takeTap_malformed steps (Bool.eq_false_iff.2 fun k => malformed (formed_iff.1 k))]
    rfl
  · exact congrArg _ (State.takeTap_maintenance (s := s.tapTaken rest) steps (formed_iff.2 wellFormed) mode unit)

end Sys2Proof.Machine
end

section
/-! PROOFS. Tap-ins that are refused (R83, R84, R86, R99): the live tap-in of a card on the deny list, and the tap-in in
the passback position. -/

namespace Sys2Proof.Machine

variable {s : State}

/-! ### The tap as taken (R79, R80) -/

section
variable (s) (e : TapEntry)

theorem State.checkedTap_token : (s.checkedTap e).token = e.tap.token := by
  rw [State.checkedTap_eq]
  rfl

theorem State.checkedTap_station : (s.checkedTap e).station = e.tap.station := by
  rw [State.checkedTap_eq]
  rfl

theorem State.checkedTap_cls : (s.checkedTap e).cls = (classLookup s.tariff.liveBank e.tap.cls).cls := by
  rw [State.checkedTap_eq]
  rfl

theorem State.checkedTap_denied : (s.checkedTap e).denied = s.deny.contains e.tap.token := by
  rw [State.checkedTap_eq]
  rfl

theorem State.checkedTap_offline : (s.checkedTap e).offline = (e.tap.gateDecided == 1) := by
  rw [State.checkedTap_eq]
  rfl

end

/-- The time of a tap of the current day: the service time beyond the future tolerance, else its own (R79). -/
theorem State.checkedTap_time {e : TapEntry} (today : e.tap.day = s.today) : (s.checkedTap e).time =
    if s.clock.time + s.settings.timing.futureTolerance * 10 < e.tap.time then s.clock.time else e.tap.time := by
  have clamps : s.clampsTap e.tap =
      decide (s.clock.time + s.settings.timing.futureTolerance * 10 < e.tap.time) := by
    simp only [State.clampsTap, today, Nat.lt_irrefl, false_or, true_and]
  rw [State.checkedTap_eq, clamps]
  simp only [State.tapContext, decide_eq_true_eq]

/-! ### The refusal (R84, R86, R99) -/

/-- The handling of a tap that makes no step ends at once, however many it is given. -/
theorem State.handle_done {h : Handling} (done : h.steps = []) (steps : Option Nat) :
    s.handle h steps = s.finishTap h.entry h.outcome := by
  have run : ∀ n, runCard n h s = (h, s) := fun n => by
    cases n with
    | zero => rfl
    | succ n => simp only [runCard, done]
  unfold State.handle
  rw [run]
  exact if_pos done

/-- A live tap-in of a card on the deny list enters HANDLING refused. -/
theorem State.beginHandling_denied {e : TapEntry} (tapIn : e.tap.direction = 0) (live : e.tap.gateDecided = 0)
    (listed : e.tap.token ∈ s.deny) : s.beginHandling e =
      ⟨e, s.checkedTap e, [], plainOutcome .refuse .denied [s.tapRecord (s.checkedTap e) .refusal]⟩ := by
  have notOut : e.tap.direction ≠ 1 := by rw [tapIn]; decide
  refine if_pos ⟨notOut, ?_, ?_⟩
  · rw [State.checkedTap_denied]
    exact List.contains_iff_mem.2 listed
  · rw [State.checkedTap_offline, live]
    rfl

/-- A tap-in refused in the passback position of the journey at the head of its card's chain. -/
theorem State.Takes.passback {e : TapEntry} {rest : List TapEntry} {n : Nat} {c : Core} (takes : s.Takes e rest)
    (tapIn : e.tap.direction = 0) (day : s.today ≤ e.tap.day) (admitted : e.tap.token ∈ s.deny → e.tap.gateDecided = 1)
    (head : s.bucketHead (bucketOf e.tap.token) = some n) (held : s.slot n = some (.allocated (.core c) true))
    (own : c.token = e.tap.token) (today : c.day = s.today) (opened : c.state = .opened)
    (again : e.tap.station = c.entryStation ∧ (s.checkedTap e).time - c.entryTime ≤ s.passbackWindow) :
    Machine.exec (.tapTake none) s = .next ((s.tapTaken rest).finishTap e
      (plainOutcome .refuse .alreadyInside [s.tapRecord (s.checkedTap e) .refusal])) := by
  have found : (s.tapTaken rest).lookup e.tap.token = (some ⟨none, n, .core c⟩, s.tapTaken rest) :=
    State.lookup_found (before := []) head (Nat.zero_le _) (by simp) held own
  rw [← s.checkedTap_station e] at again
  let h : Handling := ⟨e, s.checkedTap e, [], plainOutcome .allow .none []⟩
  exact (takes.tapIn tapIn day admitted found ((State.decideTapIn_today (s := s.tapTaken rest) h today).trans
    (State.decideTapInCore_passback (s := s.tapTaken rest) h (.known none) opened again))).trans
    (congrArg _ (finishCard_nil e _ _))

/-- A tap that ends with one record of its own, for which there is room, changes no journey and no account. -/
theorem State.finishTap_ownRecord {e : TapEntry} {rest : List TapEntry} {o : TapOutcome} {r : JourneyRecord}
    (one : o.records = [r]) (room : s.records.length < 256) : ∃ t,
      (s.tapTaken rest).finishTap e o = t ∧ t.table = s.table ∧ t.cap = s.cap ∧ t.taps = rest ∧ t.unit = .idle ∧
        t.records = s.records ++ [r] ∧ t.verdicts = (s.verdictOffered e o).verdicts := by
  have queued := State.verdictOffered_verdicts (s := s) (t := s.tapTaken rest) rfl rfl rfl e o
  obtain ⟨queue, stale, offered⟩ := (s.tapTaken rest).verdictOffered_eq e o
  rw [State.finishTap_one (s := s.tapTaken rest) one room]
  rw [offered] at queued ⊢
  exact ⟨_, rfl, rfl, rfl, rfl, rfl, rfl, queued⟩

/-- Settles O42: a refused tap-in ends with its refusal alone, whichever of the two refuses it. -/
theorem refusedTapInsChangeNoJourney : Obligations.RefusedTapInsChangeNoJourney := by
  unfold Obligations.RefusedTapInsChangeNoJourney
  intro s e rest takes tapIn room x refused
  have refuses : ∀ steps reason, exec (.tapTake steps) s =
      .next ((s.tapTaken rest).finishTap e (plainOutcome .refuse reason [s.tapRecord x .refusal])) →
      refused steps reason := fun steps reason run => by
    obtain ⟨t, finished, table, cap, taps, unit, records, verdicts⟩ :=
      State.finishTap_ownRecord (e := e) (rest := rest)
        (o := plainOutcome .refuse reason [s.tapRecord x .refusal]) rfl room
    have offline : x.flags.offlineEntry = (e.tap.gateDecided == 1) := by
      show (s.checkedTap e).flags.offlineEntry = _
      rw [State.checkedTap_eq]
      simp [State.tapContext, tapIn]
    refine ⟨t, _, run.trans (congrArg _ finished), table, cap, taps, unit, records, rfl, s.checkedTap_token e, rfl,
      s.checkedTap_cls e, ?_, rfl, rfl, rfl, rfl, ?_, verdicts⟩
    · exact congrArg (fun station => [(⟨some ⟨station, x.time⟩, none, none⟩ : RecordLeg)]) (s.checkedTap_station e)
    · simp [State.tapRecord, Flags.union, State.doubtFlag, offline]
  refine ⟨fun today => ⟨?_, State.checkedTap_time today⟩, fun live listed steps => ?_,
    fun n c admitted day head held own today opened station window => ?_⟩
  · obtain ⟨-, -, -, ofDay, -⟩ := State.checkedTap_today today.ge
    exact ofDay
  · refine refuses steps .denied ?_
    rw [takes.exec, State.beginHandling_denied (s := s.tapTaken rest) tapIn live listed]
    exact congrArg _ (State.handle_done rfl steps)
  · exact refuses none .alreadyInside
      (takes.passback tapIn day admitted head held own today opened ⟨station.symm, window⟩)

end Sys2Proof.Machine
end

section
/-! PROOFS. Taps of an earlier day (R79, R111 to R115): the tap-in settled at once, and the tap-out by what its lookup
finds. -/

namespace Sys2Proof.Machine

variable {s : State}

/-! ### The tap as taken (R79, R111) -/

section
variable {e : TapEntry} (day : e.tap.day < s.today)
include day

/-- A tap of an earlier day keeps its day and time. -/
theorem State.checkedTap_earlier : s.checkedTap e = s.tapContext e e.tap.day e.tap.time false := if_pos day

/-- The request that settles a tap-out of an earlier day by itself (R113). -/
theorem State.checkedTap_earlier_unmatched : (s.checkedTap e).unmatched =
    ⟨e.tap.token, (s.checkedTap e).cls, e.tap.day, (s.checkedTap e).flags, .unmatched e.tap.station e.tap.time⟩ := by
  rw [State.checkedTap_earlier day]
  rfl

/-- The step that ends the OPEN journey of the tap-out's own day (R94, R96, R114). -/
theorem State.checkedTap_earlier_ending (out : e.tap.direction = 1) (p : Predecessor) (n : Nat) (c : Core) :
    (s.checkedTap e).ending p n c = .closeJourney n c
      (if c.extensions = [] ∧ e.tap.station = c.entryStation then .sameStation (max e.tap.time c.entryTime)
        else .final e.tap.station (max e.tap.time c.entryTime))
      { offlineExit := e.tap.gateDecided == 1, timeClamped := decide (e.tap.time < c.entryTime)
        denied := s.deny.contains e.tap.token } true p := by
  have flags : (s.checkedTap e).exitFlags c =
      { offlineExit := e.tap.gateDecided == 1, timeClamped := decide (e.tap.time < c.entryTime)
        denied := s.deny.contains e.tap.token } := by
    rw [State.checkedTap_earlier day]
    simp [TapContext.exitFlags, TapContext.exitClamped, State.tapContext, out]
  unfold TapContext.ending
  rw [flags, State.checkedTap_earlier day]
  rfl

end

/-! ### The steps that end it (R112, R113) -/

section
variable (e : TapEntry) (x : TapContext) (o : TapOutcome)

/-- A reckoning that no account is charged for adds its record alone (R13). -/
theorem finishCard_reckon {q : SettlementRequest} (uncapped : (s.reckon q).dailyCap = none) :
    finishCard (cardToEnd ⟨e, x, [.reckon q false], o⟩ s) =
      s.finishTap e { o with records := o.records ++ [(s.reckon q).record] } := by
  have settled : s.settle q = (⟨(s.reckon q).record, none⟩, s) := by
    unfold State.settle State.chargeRecord
    rw [uncapped]
  rw [cardToEnd_reckon, settled]
  exact finishCard_nil e x _

/-- A journey closed by the tap's own exit gives it its charge (R81). -/
theorem finishCard_closeOwn (v : VerdictKind) (r : Reason) (n : Nat) (c : Core) (how : Closing) (flags : Flags)
    (p : Predecessor) {q : Settled × State} (settles : s.settleCore n c how flags p = q) :
    finishCard (cardToEnd ⟨e, x, [.closeJourney n c how flags true p], plainOutcome v r []⟩ s) =
      q.2.finishTap e ⟨v, r, some q.1.record.charged, q.1.capRemaining, [q.1.record]⟩ := by
  rw [cardToEnd_closeJourney, settles]
  exact finishCard_nil e x _

end

/-! ### What a tap-out of an earlier day goes on to (R113, R114) -/

section
variable (h : Handling) {p : Option Nat} {n : Nat} {c : Core}

theorem State.decideEarlierTapOut_today (today : c.day = s.today) :
    s.decideEarlierTapOut h (some ⟨p, n, .core c⟩) =
      (h.answer .allow .noEntryFound).push [.reckon h.context.unmatched false] :=
  if_pos today

theorem State.decideEarlierTapOut_ends (other : c.day ≠ s.today) (own : c.day = h.context.day ∧ c.state = .opened) :
    s.decideEarlierTapOut h (some ⟨p, n, .core c⟩) =
      (h.answer .allow .none).push [h.context.ending (.known p) n c] :=
  (if_neg other).trans (if_pos own)

theorem State.decideEarlierTapOut_settles (other : c.day ≠ s.today)
    (notOwn : ¬(c.day = h.context.day ∧ c.state = .opened)) :
    s.decideEarlierTapOut h (some ⟨p, n, .core c⟩) = (h.answer .allow .noEntryFound).push
      [.closeJourney n c c.dayClosing {} false (.known p), .reckon h.context.unmatched false] :=
  (if_neg other).trans (if_neg notOwn)

end

namespace State.Takes

variable {e : TapEntry} {rest : List TapEntry} (takes : s.Takes e rest) (day : e.tap.day < s.today)
include takes day

/-- A tap-in of an earlier day that is not refused is settled INCOMPLETE at once (R112). -/
theorem earlierTapIn (tapIn : e.tap.direction = 0) (admitted : e.tap.token ∈ s.deny → e.tap.gateDecided = 1) :
    Machine.exec (.tapTake none) s = .next ((s.tapTaken rest).finishTap e
      ⟨.allowNote, .untracked, none, none, [((s.tapTaken rest).reckon (s.checkedTap e).incomplete).record]⟩) := by
  rw [takes.exec, State.beginHandling_earlier (s := s.tapTaken rest) tapIn day admitted, handle_none]
  exact congrArg _ (finishCard_reckon e _ _ rfl)

/-- A tap-out of an earlier day goes on to what its lookup calls for. -/
theorem earlierTapOut (out : e.tap.direction = 1) {l : State} {found : Option Found}
    (lookup : (s.tapTaken rest).lookup e.tap.token = (found, l)) {h : Handling}
    (goesOn : l.decideEarlierTapOut ⟨e, s.checkedTap e, [], plainOutcome .allow .none []⟩ found = h) :
    Machine.exec (.tapTake none) s = .next (finishCard (cardToEnd h l)) := by
  have earlier : (s.checkedTap e).earlier = true := by
    rw [State.checkedTap_earlier day]
    exact decide_eq_true day
  rw [takes.tapTake (.inl out), lookup, ← goesOn]
  simp only [State.afterLookup, if_pos out, if_pos earlier]
  rfl

end State.Takes

/-- Settles O41: the tap-in by its one reckoning, the tap-out by what its lookup returns. -/
theorem earlierDayTaps : Obligations.EarlierDayTaps := by
  unfold Obligations.EarlierDayTaps
  intro s e rest takes day x u found l priced gives unmatched
  have taken : x = s.tapContext e e.tap.day e.tap.time false := State.checkedTap_earlier day
  have today : l.today = s.today := (State.lookup_frame (s.tapTaken rest) e.tap.token).today
  have ofDay : x.day = e.tap.day := by rw [taken]; rfl
  let h : Handling := ⟨e, x, [], plainOutcome .allow .none []⟩
  refine ⟨ofDay, by rw [taken]; rfl, by rw [taken]; rfl, fun tapIn admitted => ?_, fun out => ?_⟩
  · refine ⟨_, takes.earlierTapIn day tapIn admitted, ?_⟩
    rw [State.checkedTap_incomplete day]
    exact ⟨rfl, rfl, rfl, rfl, rfl, s.checkedTap_cls e, rfl, rfl, rfl⟩
  · have runs : ∀ r g, found.1 = r → l.decideEarlierTapOut h r = g →
        exec (.tapTake none) s = .next (finishCard (cardToEnd g l)) := fun r g returned goesOn =>
      takes.earlierTapOut day out (Prod.ext returned rfl) goesOn
    have isUnmatched : ∀ u rs, exec (.tapTake none) s = .next (finishCard (cardToEnd
        ⟨e, x, [.reckon x.unmatched false], ⟨.allow, .noEntryFound, none, none, rs⟩⟩ u)) → unmatched u rs :=
      fun u rs run => by
        show gives u ⟨.allow, .noEntryFound, none, none, rs ++ [(u.reckon _).record]⟩
        rw [← State.checkedTap_earlier_unmatched day]
        exact run.trans (congrArg _ (finishCard_reckon e x _ rfl))
    have settles : ∀ n c how p, exec (.tapTake none) s = .next (finishCard (cardToEnd
        ⟨e, x, [.closeJourney n c how {} false p, .reckon x.unmatched false], ⟨.allow, .noEntryFound, none, none, []⟩⟩ l)) →
        unmatched (l.settleCore n c how {} p).2 [(l.settleCore n c how {} p).1.record] := fun n c how p run =>
      isUnmatched _ _ (exec_goesOn run (cardToEnd_dayClose e x _ _ n c how p))
    refine ⟨fun nothing => isUnmatched _ _ (runs _ _ nothing rfl),
      fun p n o orphan => isUnmatched _ _ (runs _ _ orphan rfl), fun p n c core => ⟨fun ofToday => ?_, fun ownDay opened => ?_, fun other notOwn how closing => ?_⟩⟩
    · exact isUnmatched _ _ (runs _ _ core (l.decideEarlierTapOut_today h (ofToday.trans today.symm)))
    · intro exit how r
      have run := runs _ _ core (l.decideEarlierTapOut_ends h (fun k => day.ne (ownDay.symm.trans (k.trans today)))
        ⟨ownDay.trans ofDay.symm, opened⟩)
      have ending := State.checkedTap_earlier_ending day out (.known p) n c
      rw [show h.context.ending (.known p) n c = _ from ending] at run
      exact run.trans (congrArg _ (finishCard_closeOwn e x _ _ n c how _ (.known p) rfl))
    · obtain rfl : how = c.dayClosing := closing
      exact settles _ _ _ _ (runs _ _ core (l.decideEarlierTapOut_settles h (fun k => other (k.trans today))
        fun ⟨k, opened⟩ => notOwn.elim (fun day => day (k.trans ofDay)) fun state => state opened))

end Sys2Proof.Machine
end

section
/-! PROOFS. A tap-in that opens a journey (R59, R61, R79, R80, R90, R91, R140): the tap as taken, what an allocation asks of
the Sweep Unit, and the journey opened for a card whose chain is empty. -/

namespace Sys2Proof.Machine

variable {s : State}

/-! ### The tap as taken (R79, R80) -/

/-- A tap of the current day, or of a later one, is taken as of the current day. -/
theorem State.checkedTap_current {e : TapEntry} (day : s.today ≤ e.tap.day) : s.checkedTap e =
    s.tapContext e s.today (if s.takenLate e.tap then s.clock.time else e.tap.time) (s.takenLate e.tap) := by
  have clamps : s.clampsTap e.tap = s.takenLate e.tap := by
    unfold State.clampsTap State.takenLate
    rcases day.eq_or_lt with same | later
    · simp [same]
    · simp [later]
  rw [State.checkedTap_eq, clamps]
  rcases day.eq_or_lt with same | later
  · rw [if_neg same.not_lt, same]
  · rw [if_pos later]

/-- The flags with which a tap-in of the current day that is not refused is taken: one that is on the deny list is
offline (R83). -/
theorem State.checkedTap_in_flags {e : TapEntry} (day : s.today ≤ e.tap.day) (tapIn : e.tap.direction = 0)
    (admitted : e.tap.token ∈ s.deny → e.tap.gateDecided = 1) : (s.checkedTap e).flags =
      { offlineEntry := e.tap.gateDecided == 1, timeClamped := s.takenLate e.tap, clockDoubt := s.clock.doubt
        denied := s.deny.contains e.tap.token
        classSubstituted := (classLookup s.tariff.liveBank e.tap.cls).substituted } := by
  rw [State.checkedTap_current day]
  simpa [State.tapContext, tapIn] using admitted

/-! ### Shortage declared (R59, R140) -/

/-- Shortage is declared when the free count is at or below the shortage level with the mark clear. -/
def State.DeclaresShortage (s : State) : Prop :=
  s.table.shortage = false ∧ s.table.counts.free ≤ s.settings.journey.shortageLevel

/-- A sequence started leaves the shortage mark and the notices. -/
theorem State.startSequence_keeps (s : State) :
    s.startSequence.table.shortage = s.table.shortage ∧ s.startSequence.notices = s.notices := by
  unfold State.startSequence
  dsimp only
  split
  · split <;> exact ⟨rfl, rfl⟩
  · exact ⟨rfl, rfl⟩

/-- In SERVICE a sequence starts when none runs, with a forced pass at once when no walk is in flight (R140). -/
theorem State.startSequence_sweep (service : s.mode = .service) :
    (s.sweep.forcedAge ≠ none → s.startSequence.sweep = s.sweep) ∧
    (s.sweep.forcedAge = none → s.startSequence.sweep.forcedAge = some s.firstForcedAge ∧
      (s.sweep.walk = none →
        s.startSequence.sweep.walk = some (.forced 0 true) ∧ s.startSequence.sweep.pendingExpiry = false) ∧
      (s.sweep.walk ≠ none → s.startSequence.sweep.walk = s.sweep.walk ∧
        s.startSequence.sweep.pendingExpiry = s.sweep.pendingExpiry)) := by
  unfold State.startSequence
  refine ⟨fun running => ?_, fun noSequence => ?_⟩
  · rw [if_neg fun k => running k.2]
  · rw [if_pos ⟨service, noSequence⟩]
    dsimp only
    by_cases walk : s.sweep.walk = none
    · rw [if_pos walk]
      exact ⟨rfl, fun _ => ⟨rfl, rfl⟩, fun k => absurd walk k⟩
    · rw [if_neg walk]
      exact ⟨rfl, fun k => absurd k walk, fun _ => ⟨rfl, rfl⟩⟩

/-- Where no shortage is to be declared nothing is asked of the Sweep Unit. -/
theorem State.judgeShortage_spares (notDue : ¬s.DeclaresShortage) : s.judgeShortage.table.shortage = s.table.shortage ∧
    s.judgeShortage.notices = s.notices ∧ s.judgeShortage.sweep = s.sweep := by
  rw [show s.judgeShortage = s from if_neg notDue]
  exact ⟨rfl, rfl, rfl⟩

/-- A declaration sets the mark, raises its notice, and starts a sequence where none runs. -/
theorem State.judgeShortage_declares (due : s.DeclaresShortage) (service : s.mode = .service) :
    s.judgeShortage.table.shortage = true ∧
    s.judgeShortage.notices = raiseIn s.notices (.shortage s.table.counts.free) s.clock.time ∧
    (s.sweep.forcedAge ≠ none → s.judgeShortage.sweep = s.sweep) ∧
    (s.sweep.forcedAge = none → s.judgeShortage.sweep.forcedAge = some s.firstForcedAge ∧
      (s.sweep.walk = none →
        s.judgeShortage.sweep.walk = some (.forced 0 true) ∧ s.judgeShortage.sweep.pendingExpiry = false) ∧
      (s.sweep.walk ≠ none → s.judgeShortage.sweep.walk = s.sweep.walk ∧
        s.judgeShortage.sweep.pendingExpiry = s.sweep.pendingExpiry)) := by
  let marked := { s with table := { s.table with shortage := true } }.raise (.shortage s.table.counts.free)
  rw [show s.judgeShortage = marked.startSequence from if_pos due]
  obtain ⟨shortage, notices⟩ := marked.startSequence_keeps
  exact ⟨shortage, notices, State.startSequence_sweep (s := marked) service⟩

/-! ### The journey opened (R55, R90) -/

/-- The state with a record written into slot `n` and the free list left at `f`, before shortage is judged (R55). -/
def State.filled (s : State) (n : Nat) (f : FreeList) (c : Content) : State :=
  { s with table := { s.table with
      free := f
      slots := sparsePut s.table.slots n (.allocated c true)
      counts := s.table.counts.move .free c.kind } }

/-- A record linked at the head of an empty chain is written into the slot at the head of the free list. -/
theorem State.allocateLinked_empty {n : Nat} {f : FreeList} {token : Token} (take : s.table.free.take = some (n, f))
    (empty : s.bucketHead (bucketOf token) = none) (c : Content) : s.allocateLinked token c =
      (some n, (s.filled n f (c.withNext none)).judgeShortage.setBucketHead (bucketOf token) (some n)) := by
  have allocated : s.allocate (c.withNext none) = (some n, (s.filled n f (c.withNext none)).judgeShortage) := by
    unfold State.allocate
    rw [take]
    rfl
  unfold State.allocateLinked
  dsimp only
  rw [empty, allocated]

theorem State.bucketHead_set_self (s : State) (b n : Nat) : (s.setBucketHead b (some n)).bucketHead b = some n :=
  sparseGet_put_self _ _ _

theorem State.bucketHead_set_other (s : State) (n : Nat) {b c : Nat} (other : c ≠ b) :
    (s.setBucketHead b (some n)).bucketHead c = s.bucketHead c :=
  sparseGet_put_other _ _ _ _ other

/-! ### The end of the tap-in (R75, R82) -/

section
variable {t : State} (h : JourneyFrame s t)
include h

theorem JourneyFrame.mode : t.mode = s.mode := by rw [h]

theorem JourneyFrame.deny : t.deny = s.deny := by rw [h]

theorem JourneyFrame.taps : t.taps = s.taps := by rw [h]

theorem JourneyFrame.records : t.records = s.records := by rw [h]

theorem JourneyFrame.verdicts : t.verdicts = s.verdicts := by rw [h]

end

/-- The counters after an offer made once a tap more has been taken (R75, R168). -/
theorem State.verdictOffered_counters {t : State} {taken : Nat} (clock : t.clock = s.clock)
    (settings : t.settings = s.settings) (verdicts : t.verdicts = s.verdicts)
    (counters : t.counters = { s.counters with tapsTaken := taken }) (e : TapEntry) (o : TapOutcome) :
    (t.verdictOffered e o).counters = { (s.verdictOffered e o).counters with tapsTaken := taken } := by
  unfold State.verdictOffered
  split
  · obtain ⟨queue, stale, offered⟩ := s.offerVerdict_eq e.stamp (o.toVerdict e.tap)
    obtain ⟨-, same⟩ := s.offerVerdict_congr t e.stamp (o.toVerdict e.tap) clock settings verdicts (by rw [counters])
    rw [same, offered, counters]
  · exact counters

section
variable {e : TapEntry} {rest : List TapEntry} (takes : s.Takes e rest) (tapIn : e.tap.direction = 0)
  (day : s.today ≤ e.tap.day) (admitted : e.tap.token ∈ s.deny → e.tap.gateDecided = 1)
  (empty : s.bucketHead (bucketOf e.tap.token) = none)
include takes tapIn day admitted empty

/-- A tap-in whose card's chain is empty goes on to open a journey (R85). -/
theorem State.Takes.opensFirst : Machine.exec (.tapTake none) s = .next (finishCard (cardToEnd
    ⟨e, s.checkedTap e, [.openCore], plainOutcome .allow .none []⟩ (s.tapTaken rest))) := by
  have nothing : (s.tapTaken rest).lookup e.tap.token = (none, s.tapTaken rest) :=
    State.lookup_end (before := []) empty (Nat.zero_le _) (by simp)
  exact takes.tapIn tapIn day admitted nothing rfl

/-- With a slot to be had the journey is opened in it, and there is no record (R90). -/
theorem State.Takes.opened {n : Nat} {f : FreeList} (take : s.table.free.take = some (n, f)) :
    Machine.exec (.tapTake none) s = .next (((((s.tapTaken rest).filled n f
      (.core (s.checkedTap e).core)).judgeShortage.setBucketHead (bucketOf e.tap.token) (some n)).verdictOffered e
        (plainOutcome .allow .none [])).withUnit .idle) := by
  have allocated := State.allocateLinked_empty (s := s.tapTaken rest) take empty (.core (s.checkedTap e).core)
  have own := s.checkedTap_token e
  rw [← own] at allocated
  refine (takes.opensFirst tapIn day admitted empty).trans (congrArg _ ((finishCard_openCore e _ _ allocated).trans ?_))
  rw [State.finishTap_none _ _ rfl, own]
  rfl

/-- With no slot to be had the tap-in is untracked, and its record is ENTRY_UNTRACKED (R61, R91). -/
theorem State.Takes.untracked (noSlot : s.table.free.take = none) :
    Machine.exec (.tapTake none) s = .next ((s.tapTaken rest).finishTap e
      (plainOutcome .allowNote .untracked [s.tapRecord (s.checkedTap e) .entryUntracked])) :=
  (takes.opensFirst tapIn day admitted empty).trans (congrArg _ (finishCard_openCore_noSlot e _ _ noSlot))

end

/-- Settles O37: with a slot to be had, by what the allocation writes, what it declares, and what the offer leaves; with
none, by the one record of the tap. -/
theorem tapInOpensAJourney : Obligations.TapInOpensAJourney := by
  unfold Obligations.TapInOpensAJourney
  intro s e rest takes tapIn day admitted empty clamped time found flags offered declares
  have takenTime : (s.checkedTap e).time = time := by
    rw [State.checkedTap_current day]
    rfl
  have takenFlags : (s.checkedTap e).flags = flags := State.checkedTap_in_flags day tapIn admitted
  have core := State.checkedTap_core day
  rw [s.checkedTap_cls e, takenTime, takenFlags] at core
  refine ⟨fun n f take => ?_, fun noSlot room => ?_⟩
  · let v := (s.tapTaken rest).filled n f (.core (s.checkedTap e).core)
    let o := plainOutcome .allow .none []
    let head := bucketOf e.tap.token
    have run : exec (.tapTake none) s =
        .next (((v.judgeShortage.setBucketHead head (some n)).verdictOffered e o).withUnit .idle) :=
      takes.opened tapIn day admitted empty take
    obtain ⟨slots, heads, free, counts, order, -, cap, counters⟩ := v.judgeShortage_keeps
    have frame : JourneyFrame v v.judgeShortage := judgeShortage_frame v
    have spares := v.judgeShortage_spares
    have declared := fun due => v.judgeShortage_declares due takes.mode
    generalize v.judgeShortage = u at *
    have queued := State.verdictOffered_verdicts (s := s) (t := u.setBucketHead head (some n)) frame.clock frame.settings
      frame.verdicts e o
    have counted := State.verdictOffered_counters (s := s) (t := u.setBucketHead head (some n)) frame.clock frame.settings
      frame.verdicts counters e o
    obtain ⟨queue, stale, offers⟩ := (u.setBucketHead head (some n)).verdictOffered_eq e o
    rw [offers] at run queued counted
    refine ⟨_, run, ?_, fun m other => State.slot_put_other (s := s) slots other, u.bucketHead_set_self head n,
      fun b other => ?_, free, counts, order, cap, frame.records, frame.taps, rfl, frame.tariff, frame.deny,
      frame.clock, frame.settings, frame.mode, queued, counted, spares, declared⟩
    · rw [← core]
      exact s.slot_put_self slots
    · refine (u.bucketHead_set_other n other).trans ?_
      rw [State.bucketHead, heads]
      rfl
  · have run := takes.untracked tapIn day admitted empty noSlot
    have record : s.tapRecord (s.checkedTap e) .entryUntracked = ⟨.entryUntracked, e.tap.token, found.cls, s.today,
        [⟨some ⟨e.tap.station, time⟩, none, none⟩], none, 0, 0, none, flags⟩ := by
      have doubt : flags.union s.doubtFlag = flags := by simp [flags, Flags.union, State.doubtFlag]
      obtain ⟨-, -, -, ofDay, -⟩ := State.checkedTap_today day
      simp only [State.tapRecord, s.checkedTap_token e, s.checkedTap_cls e, s.checkedTap_station e, ofDay, takenTime,
        takenFlags, doubt]
      rfl
    rw [record] at run
    obtain ⟨t, finished, table, cap, taps, unit, records, verdicts⟩ :=
      State.finishTap_ownRecord (e := e) (rest := rest) (o := plainOutcome .allowNote .untracked _) rfl room
    exact ⟨t, run.trans (congrArg _ finished), table, cap, taps, unit, verdicts, records⟩

end Sys2Proof.Machine
end

section
/-! PROOFS. The sweep timer, the end of a walk and what follows it (R136, R137, R139, R141). -/

namespace Sys2Proof.Machine

/-! ### What follows a walk (R137) -/

/-- The state with the Sweep Unit gone on to another walk or to none, with a forced age and pending expiry clear. -/
def State.goOn (s : State) (w : Option Walk) (f : Option Nat) : State :=
  { s with sweep := { s.sweep with walk := w, forcedAge := f, pendingExpiry := false } }

/-- The table of R137, read with a forced age. -/
def State.followed (s : State) (f : Option Nat) : State :=
  if s.mode = .maintenance then s.goOn none none
  else if s.table.shortage = true ∧ f ≠ none then s.goOn (some (.forced 0 true)) f
  else if s.table.shortage = true ∧ s.sweep.pendingExpiry = true then
    s.goOn (some (.forced 0 true)) (some (s.settings.journey.maxDuration * 600 / 2))
  else if s.sweep.pendingExpiry = true then s.goOn (some (.age 0)) none
  else s.goOn none none

section
variable {s : State}

/-- With pending expiry clear, no walk follows and there is nothing more to clear. -/
theorem State.noWalk_eq_goOn (h : s.sweep.pendingExpiry = false) : s.noWalk = s.goOn none none := by
  unfold State.noWalk State.goOn
  rw [← h]

/-- What the model lets follow a walk is what the table of R137 gives for the forced age as it stands. -/
theorem State.afterWalk_eq_followed (s : State) : s.afterWalk = s.followed s.sweep.forcedAge := by
  unfold State.afterWalk State.followed
  split
  next maintenance =>
    rw [if_pos maintenance]
    rfl
  next service =>
    have notMaintenance : s.mode ≠ .maintenance := by rw [service]; decide
    rw [if_neg notMaintenance]
    split_ifs with running starts expired
    · rfl
    · rfl
    · rfl
    · exact State.noWalk_eq_goOn (Bool.eq_false_of_not_eq_true expired)

/-! ### The end of a walk (R68, R72, R139, R141, R146) -/

/-- The forced age after a forced pass of the running sequence, shortage still declared (R141). -/
def loweredForcedAge (f : Option Nat) : Option Nat := f.bind fun a => if a = 6000 then none else some (max (a / 2) 6000)

theorem State.endWalk_age (s : State) (n : Nat) : s.endWalk (.age n) = s.followed s.sweep.forcedAge :=
  s.afterWalk_eq_followed

theorem State.endWalk_forced (s : State) (n : Nat) (forcing : Bool) : s.endWalk (.forced n forcing) = s.followed
    (if forcing = true ∧ s.table.shortage = true then loweredForcedAge s.sweep.forcedAge else s.sweep.forcedAge) := by
  simp only [State.endWalk, Bool.and_eq_true]
  split_ifs with lowers
  · exact State.afterWalk_eq_followed _
  · exact State.afterWalk_eq_followed _

theorem State.endWalk_day (s : State) (n : Nat) : s.endWalk (.day n) =
    ({ s with dayOp := s.dayOp.map DayOperation.walked } : State).followed s.sweep.forcedAge :=
  State.afterWalk_eq_followed _

theorem State.endWalk_audit (s : State) (a : AuditStep) : s.endWalk (.audit a) =
    ({ s with
      table := { s.table with marks := [] }
      auditOp := s.auditOp.map (AuditOperation.walked s.table.counts.quarantined) } : State).followed
        s.sweep.forcedAge :=
  State.afterWalk_eq_followed _

/-- An audit has nothing left to examine at its last step alone (R72). -/
theorem Walk.finished_audit (a : AuditStep) : (Walk.audit a).finished = true ↔ a = .ending := by
  cases a <;> simp [Walk.finished]

/-- While a record of it waits no walk ends (R139; log 20). -/
theorem State.endIfFinished_waits (waits : s.sweep.waiting ≠ []) : s.endIfFinished = s := by
  unfold State.endIfFinished
  split
  · exact if_neg fun ends => waits (List.isEmpty_iff.1 (Bool.and_eq_true_iff.1 ends).2)
  · rfl

/-! ### The last slot, found FREE (R138, R139) -/

section
variable (free : s.tableFree = true) (waiting : s.sweep.waiting = []) (last : s.slot 12287 = none)
include free waiting last

/-- An age pass that finds its last slot FREE ends. -/
theorem agePass_ends (walk : s.sweep.walk = some (.age 12287)) :
    exec .agePassExamination s = .next (s.followed s.sweep.forcedAge) := by
  rw [agePass_kept (by decide) free walk waiting (State.PassedOver.examineByAge (.inl last) _),
    State.endIfFinished_ends (s := s.withWalk (.age 12288)) rfl rfl waiting, State.endWalk_age]
  rfl

/-- A day-change walk that finds its last slot FREE ends. -/
theorem dayWalk_ends (walk : s.sweep.walk = some (.day 12287)) : exec .dayChangeWalkExamination s =
    .next (({ s with dayOp := s.dayOp.map DayOperation.walked } : State).followed s.sweep.forcedAge) := by
  rw [dayWalk_kept (by decide) free walk waiting (State.PassedOver.examineByDay (.inl last)),
    State.endIfFinished_ends (s := s.withWalk (.day 12288)) rfl rfl waiting, State.endWalk_day]
  rfl

/-- A forced pass that finds its last slot FREE ends. -/
theorem forcedPass_ends {forcing : Bool} (walk : s.sweep.walk = some (.forced 12287 forcing)) :
    exec .forcedPassExamination s = .next (s.followed
      (if forcing = true ∧ s.table.shortage = true then loweredForcedAge s.sweep.forcedAge else s.sweep.forcedAge)) := by
  rw [forcedPass_kept (by decide) free walk waiting (State.PassedOver.examineByAge (.inl last) _),
    State.endIfFinished_ends (s := s.withWalk (.forced 12288 forcing)) rfl rfl waiting, State.endWalk_forced]
  rfl

end

/-! ### SWEEP_TIMER_EXPIRY (R136) -/

section
variable (due : s.sweep.timer = some 0)
include due

/-- The timer runs out while a walk is in flight. -/
theorem sweepTimerExpiry_pends {w : Walk} (walk : s.sweep.walk = some w) : exec .sweepTimerExpiry s =
    .next { s with sweep := { s.sweep with timer := some s.sweepPeriod, pendingExpiry := true } } := by
  refine (if_pos due).trans ?_
  rw [walk]

/-- The timer runs out with no walk in flight: shortage tells which pass starts. -/
theorem sweepTimerExpiry_starts (idle : s.sweep.walk = none) : exec .sweepTimerExpiry s =
    if s.table.shortage = true then
      .next { s with sweep := { s.sweep with
        timer := some s.sweepPeriod, forcedAge := some s.firstForcedAge, walk := some (.forced 0 true)
        pendingExpiry := false } }
    else .next { s with sweep := { s.sweep with
      timer := some s.sweepPeriod, walk := some (.age 0), pendingExpiry := false } } := by
  refine (if_pos due).trans ?_
  rw [idle]
  rfl

end

end

/-- Settles O45: the timer by the walk in flight and shortage, the end of each kind of walk by the table of R137, and the
last slot by the walk that it ends. -/
theorem passesStartByTheirTable : Obligations.PassesStartByTheirTable := by
  unfold Obligations.PassesStartByTheirTable
  intro s half after lowered
  refine ⟨fun notDue => if_neg notDue, fun due => ⟨fun inFlight => ?_, fun idle enough => ?_, fun idle short => ?_⟩,
    fun w walk finished waiting => State.endIfFinished_ends walk finished waiting, fun w walk stays => ?_,
    fun n f a => ⟨decide_eq_true_iff, decide_eq_true_iff, decide_eq_true_iff, Walk.finished_audit a, s.endWalk_age n,
      s.endWalk_forced n f, s.endWalk_day n, s.endWalk_audit a⟩,
    fun free waiting last => ⟨agePass_ends free waiting last, dayWalk_ends free waiting last,
      fun a age short walk => ?_⟩⟩
  · obtain ⟨w, walk⟩ := Option.ne_none_iff_exists'.1 inFlight
    exact sweepTimerExpiry_pends due walk
  · exact (sweepTimerExpiry_starts due idle).trans (if_neg (by rw [enough]; decide))
  · exact (sweepTimerExpiry_starts due idle).trans (if_pos short)
  · rcases stays with unfinished | waits
    · exact State.endIfFinished_goesOn fun v flight => Option.some.inj (walk.symm.trans flight) ▸ unfinished
    · exact State.endIfFinished_waits waits
  · rw [forcedPass_ends free waiting last walk, if_pos ⟨rfl, short⟩, age]
    rfl

end Sys2Proof.Machine
end

section
/-! PROOFS. The service day: a beacon judged by the clock (R132), the part stopped (R147, R176), the day opened (R143, R144),
and the responses that end an operation or wait (R72, R146, R163, R164). -/

namespace Sys2Proof.Machine

variable {s : State}

/-! ### BEACON (R132) -/

section
variable {c : Clock} {day time today : Nat}

theorem Clock.judgeBeacon_unset (h : c.day = none) : c.judgeBeacon day time = .ignored := by
  unfold Clock.judgeBeacon
  rw [h]

/-- The lines of R132 for a clock that is set, in their order. -/
theorem Clock.judgeBeacon_set (h : c.day = some today) : c.judgeBeacon day time =
    if day = 0 ∨ 863999 < time then .disputed
    else if day ≠ today then .disputed
    else if c.time < time then .advances
    else if c.time - time ≤ 20 then .confirms
    else .disputed := by
  unfold Clock.judgeBeacon
  rw [h]

end

section
variable {day time : Nat}

theorem exec_beacon_ignored (h : s.clock.judgeBeacon day time = .ignored) : exec (.beacon day time) s = .next s := by
  simp only [exec, execBeacon, State.takeBeacon, h]

theorem exec_beacon_disputed (h : s.clock.judgeBeacon day time = .disputed) :
    exec (.beacon day time) s = .next (s.raise (.clockDispute day time s.today s.clock.time)) := by
  simp only [exec, execBeacon, State.takeBeacon, h]

theorem exec_beacon_advances (h : s.clock.judgeBeacon day time = .advances) :
    exec (.beacon day time) s = .next ({ s with clock := { s.clock with time := time } } : State).acceptBeacon := by
  simp only [exec, execBeacon, State.takeBeacon, h]

theorem exec_beacon_confirms (h : s.clock.judgeBeacon day time = .confirms) :
    exec (.beacon day time) s = .next s.acceptBeacon := by
  simp only [exec, execBeacon, State.takeBeacon, h]

end

/-- Settles O53: the beacon by the line of the table that the clock judges it by. -/
theorem beaconIsJudgedByItsTable : Obligations.BeaconIsJudgedByItsTable := by
  unfold Obligations.BeaconIsJudgedByItsTable
  intro day time s accepted
  refine ⟨fun unset => exec_beacon_ignored (Clock.judgeBeacon_unset unset), fun today set => ?_⟩
  intro disputed
  have judged := Clock.judgeBeacon_set (day := day) (time := time) set
  have disputes (h : s.clock.judgeBeacon day time = .disputed) : disputed := by
    have now : s.today = today := by simp [State.today, set]
    refine (exec_beacon_disputed h).trans ?_
    rw [now]
    rfl
  refine ⟨fun bad => disputes (judged.trans (if_pos bad)), fun other => disputes ?_, fun named within same => ?_⟩
  · rw [judged, if_pos other, ite_self]
  · rw [if_neg (by omega), if_neg (not_not.2 same)] at judged
    refine ⟨fun later => exec_beacon_advances (judged.trans (if_pos later)), fun notLater near => ?_, fun far => ?_⟩
    · rw [if_neg (by omega), if_pos (by omega)] at judged
      exact exec_beacon_confirms judged
    · rw [if_neg (by omega), if_neg (by omega)] at judged
      exact disputes judged

/-! ### A pass ended (R139, R144, R147) -/

/-- The Sweep Unit with an age or forced pass ended and the records that it has formed kept; any other walk runs on. -/
def SweepUnit.passEnded (u : SweepUnit) : SweepUnit :=
  if u.walk.any Walk.isPass then { u with walk := none, kept := u.kept ++ u.waiting, waiting := [] } else u

theorem State.endPass_eq (s : State) : s.endPass = { s with sweep := s.sweep.passEnded } := by
  unfold State.endPass SweepUnit.passEnded
  rcases s.sweep.walk with _ | w
  · rfl
  · cases w <;> rfl

theorem SweepUnit.passEnded_pass {u : SweepUnit} {w : Walk} (walk : u.walk = some w) (pass : w.isPass = true) :
    u.passEnded = { u with walk := none, kept := u.kept ++ u.waiting, waiting := [] } :=
  if_pos (by rw [walk]; exact pass)

theorem SweepUnit.passEnded_noPass {u : SweepUnit} (h : ∀ w, u.walk = some w → w.isPass = false) : u.passEnded = u :=
  if_neg (by simpa [Option.any_eq_true] using h)

/-- A pass ended touches the walk and its records alone. -/
theorem SweepUnit.passEnded_frame (u : SweepUnit) : ∃ walk kept waiting,
    u.passEnded = { u with walk := walk, kept := kept, waiting := waiting } := by
  unfold SweepUnit.passEnded
  split
  · exact ⟨_, _, _, rfl⟩
  · exact ⟨_, _, _, rfl⟩

/-! ### SERVICE_STOP (R147, R176) -/

theorem exec_serviceStop (src : Nat) (h : s.hand = none) : exec (.serviceStop src) s = .next (s.serviceStop src) :=
  congrArg _ (State.whenFree_of_none h _)

/-- A stop in SERVICE: the pass ended, the timers stopped. -/
theorem exec_serviceStop_service (src : Nat) (h : s.hand = none) (service : s.mode = .service) :
    exec (.serviceStop src) s = .next (({ s with
      mode := .maintenance
      watchdog := none
      sweep := { s.sweep.passEnded with timer := none, pendingExpiry := false, forcedAge := none } } : State).respond
        ⟨src, 0x21, .done, .serviceStop .service⟩) := by
  rw [exec_serviceStop src h, State.serviceStop, service]
  dsimp only
  rw [State.stopped, State.endPass_eq]

/-- Settles O24: by the mode, and in SERVICE by whether the walk in flight is a pass. -/
theorem serviceStopEndsPasses : Obligations.ServiceStopEndsPasses := by
  unfold Obligations.ServiceStopEndsPasses
  intro src s free
  refine ⟨fun maintenance => ?_, fun service => ?_⟩
  · rw [exec_serviceStop src free, State.serviceStop, maintenance]
  · rw [exec_serviceStop_service src free service]
    refine ⟨fun w n f walk kind => ?_, fun kind => ?_⟩
    · have pass : w.isPass = true := by rcases kind with rfl | rfl <;> rfl
      rw [SweepUnit.passEnded_pass walk pass]
    · rw [SweepUnit.passEnded_noPass fun w walk => ?_]
      rcases kind with idle | ⟨n, day⟩
      · rw [idle] at walk
        cases walk
      · obtain rfl := Option.some.inj (day.symm.trans walk)
        rfl

/-! ### DAY_CHANGE (R41, R128, R143, R144) -/

theorem exec_dayChange (src day dayType : Nat) (h : s.hand = none) :
    exec (.dayChange src day dayType) s = .next (s.dayChange src day dayType) :=
  congrArg _ (State.whenFree_of_none h _)

theorem State.dayChange_refused {src day dayType : Nat} {r : Result} (h : s.judgeDay day dayType = .inl r) :
    s.dayChange src day dayType = s.respond ⟨src, 0x22, r, .dayChange none⟩ := by
  rw [State.dayChange, h]

theorem State.dayChange_accepted {src day dayType : Nat} {y : DayType} (h : s.judgeDay day dayType = .inr y) :
    s.dayChange src day dayType = s.openDay src day y := by
  rw [State.dayChange, h]

/-- A day number or a day type out of range is refused whatever else holds (R143). -/
theorem State.judgeDay_outOfRange {day dayType : Nat} (h : day = 0 ∨ 65535 < day ∨ 2 < dayType) :
    s.judgeDay day dayType = .inl .badArgument := by
  unfold State.judgeDay
  split
  · rfl
  next y named =>
    have small : dayType ≤ 2 := by
      unfold dayTypeOf at named
      split_ifs at named <;> omega
    exact if_pos (by omega)

/-- The bytes that name a day type (R160). -/
theorem dayTypeOf_of_mem {dayType : Nat} {y : DayType}
    (h : (dayType, y) ∈ [(0, DayType.workday), (1, DayType.saturday), (2, DayType.sundayHoliday)]) :
    dayTypeOf dayType = some y := by
  simp only [List.mem_cons, Prod.mk.injEq, List.not_mem_nil, or_false] at h
  rcases h with ⟨rfl, rfl⟩ | ⟨rfl, rfl⟩ | ⟨rfl, rfl⟩ <;> rfl

/-- With the arguments in range, an operation in progress is judged before the current day (R143). -/
theorem State.judgeDay_inRange {day dayType : Nat} {y : DayType} (least : 1 ≤ day) (most : day ≤ 65535)
    (named : dayTypeOf dayType = some y) : s.judgeDay day dayType =
      if s.walkBusy then .inl .busy else if s.clock.day = some day then .inl .badArgument else .inr y := by
  unfold State.judgeDay
  rw [named]
  exact if_neg (by omega)

theorem State.walkBusy_iff (s : State) : s.walkBusy = true ↔ s.dayOp ≠ none ∨ s.auditOp ≠ none := by
  simp only [State.walkBusy, Bool.or_eq_true, Option.isSome_iff_ne_none]

theorem TariffStore.dayChange_unpended {t : TariffStore} (h : t.pendingSwap = false) : t.dayChange = t :=
  if_neg (by rw [h]; decide)

theorem TariffStore.dayChange_pended {t : TariffStore} (h : t.pendingSwap = true) : t.dayChange = t.swapRoles :=
  if_pos h

/-- The accounts are dropped when the day number goes back (R128). -/
theorem CapTable.afterDayChange_eq (c : CapTable) (old : Option Nat) (new : Nat)
    [Decidable (∃ d, old = some d ∧ new < d)] :
    c.afterDayChange old new = if ∃ d, old = some d ∧ new < d then ⟨[], [], 0⟩ else c := by
  cases old with
  | none => simp [CapTable.afterDayChange]
  | some d => simp [CapTable.afterDayChange, CapTable.empty]

/-- The effects of an accepted DAY_CHANGE, field by field (R144). -/
theorem State.openDay_eq (s : State) (src day : Nat) (y : DayType) : s.openDay src day y = { s with
    tariff := s.tariff.dayChange
    cap := s.cap.afterDayChange s.clock.day day
    clock := ⟨some day, y, 0, true⟩
    watchdog := none
    sweep := { s.sweep.passEnded with walk := some (.day 0), pendingExpiry := true, dayCounts := ⟨0, 0, 0, 0⟩ }
    dayOp := some ⟨src, day, y, s.tariff.pendingSwap, s.tariff.dayChange.live, false, none⟩ } := by
  rw [State.openDay, State.endPass_eq]

/-- Settles O25: the refusals in the order of R143, and the effects of R144 by what each part makes of them. -/
theorem dayChangeOpensTheDay : Obligations.DayChangeOpensTheDay := by
  unfold Obligations.DayChangeOpensTheDay
  intro src day dayType s free refused
  have refuses {r : Result} (h : s.judgeDay day dayType = .inl r) : refused r :=
    (exec_dayChange src day dayType free).trans (congrArg _ (State.dayChange_refused h))
  refine ⟨fun outOfRange => refuses (State.judgeDay_outOfRange outOfRange), fun least most y named => ?_⟩
  have judged := s.judgeDay_inRange least most (dayTypeOf_of_mem named)
  have idle (noDay : s.dayOp = none) (noAudit : s.auditOp = none) : ¬s.walkBusy = true := by
    simp [s.walkBusy_iff, noDay, noAudit]
  refine ⟨fun busy => refuses (judged.trans (if_pos (s.walkBusy_iff.2 busy))), fun noDay noAudit same => refuses ?_,
    fun noDay noAudit other => ?_⟩
  · rw [judged, if_neg (idle noDay noAudit), if_pos same]
  · rw [if_neg (idle noDay noAudit), if_neg other] at judged
    obtain ⟨walk, kept, waiting, frame⟩ := s.sweep.passEnded_frame
    refine ⟨{ s.sweep.passEnded with walk := some (.day 0), pendingExpiry := true, dayCounts := ⟨0, 0, 0, 0⟩ },
      s.tariff.dayChange, ?_, TariffStore.dayChange_unpended, fun pended => ?_, rfl, rfl, rfl, by rw [frame],
      by rw [frame], by rw [frame], fun ⟨n, f, pass⟩ => ?_, fun noPass => ?_⟩
    · rw [exec_dayChange src day dayType free, State.dayChange_accepted judged, State.openDay_eq,
        CapTable.afterDayChange_eq]
    · rw [TariffStore.dayChange_pended pended]
      exact ⟨rfl, rfl, rfl, s.tariff.swapRoles_staging, rfl, rfl, rfl, rfl⟩
    · rcases pass with age | forced
      · rw [SweepUnit.passEnded_pass age rfl]
        exact ⟨rfl, rfl⟩
      · rw [SweepUnit.passEnded_pass forced rfl]
        exact ⟨rfl, rfl⟩
    · have stays : s.sweep.passEnded = s.sweep := SweepUnit.passEnded_noPass fun w walk => by
        cases w with
        | age n => exact absurd walk (noPass n true).1
        | forced n f => exact absurd walk (noPass n f).2
        | day n => rfl
        | audit a => rfl
      rw [stays]
      exact ⟨rfl, rfl⟩

/-! ### Completions and waiting responses (R72, R146, R163, R164) -/

theorem State.responseRoom_of (room : s.responses.length < 4) : s.responseRoom = true := decide_eq_true room

theorem State.responseRoom_full (full : 4 ≤ s.responses.length) : ¬s.responseRoom = true := by
  simpa [State.responseRoom] using full

/-- A day change whose walk has ended forms its response, which is queued or held (R146, R164). -/
theorem exec_dayChangeCompletion {d : DayOperation} (op : s.dayOp = some d) (ended : d.ended = true)
    (unformed : d.response = none) : exec .dayChangeCompletion s =
      if s.responseRoom then .next { s with responses := s.responses ++ [s.dayResponse d], dayOp := none }
      else .next { s with dayOp := some { d with response := some (s.dayResponse d) } } := by
  simp only [exec, execDayChangeCompletion, op]
  exact if_pos ⟨ended, unformed⟩

/-- An audit whose walk has ended forms its response, which is queued or held (R72, R164). -/
theorem exec_poolAuditCompletion {src quarantined : Nat} (op : s.auditOp = some ⟨src, some quarantined, none⟩) :
    exec .poolAuditCompletion s =
      if s.responseRoom then
        .next { s with responses := s.responses ++ [s.auditResponse src quarantined], auditOp := none }
      else .next { s with auditOp := some ⟨src, some quarantined, some (s.auditResponse src quarantined)⟩ } := by
  simp only [exec, execPoolAuditCompletion, op]

/-- With room the response that a waiter holds joins the queue, and the waiter is finished (R163). -/
theorem exec_responseQueueJoin_room {w : Waiter} {r : Response} (room : s.responses.length < 4)
    (waits : s.waitingResponse w = some r) :
    exec (.responseQueueJoin w) s = .next { s.finishWaiter w with responses := s.responses ++ [r] } := by
  simp only [exec, execResponseQueueJoin, waits]
  exact if_pos (State.responseRoom_of room)

/-- With the queue full no response joins it (R163). -/
theorem exec_responseQueueJoin_full (full : 4 ≤ s.responses.length) (w : Waiter) :
    exec (.responseQueueJoin w) s = .next s := by
  simp only [exec, execResponseQueueJoin]
  split
  · exact if_neg (State.responseRoom_full full)
  · rfl

/-- Settles O26: each completion by the room in the response queue, and each waiting response by what holds it. -/
theorem completionsAnswerOrWait : Obligations.CompletionsAnswerOrWait := by
  unfold Obligations.CompletionsAnswerOrWait
  refine ⟨fun src day y swapped live s op => ?_, fun src quarantined s op => ?_,
    fun r s => ⟨fun room => ⟨fun hand => exec_responseQueueJoin_room room hand, fun c copy formed => ?_,
      fun d op formed => ?_, fun a op formed => ?_⟩, exec_responseQueueJoin_full⟩⟩
  · rw [exec_dayChangeCompletion op rfl rfl]
    exact ⟨fun room => if_pos (State.responseRoom_of room), fun full => if_neg (State.responseRoom_full full)⟩
  · rw [exec_poolAuditCompletion op]
    exact ⟨fun room => if_pos (State.responseRoom_of room), fun full => if_neg (State.responseRoom_full full)⟩
  · exact exec_responseQueueJoin_room (w := .tariffCopy) room
      ((congrArg (Option.bind · CopyOperation.response) copy).trans formed)
  · exact exec_responseQueueJoin_room (w := .dayChange) room
      ((congrArg (Option.bind · DayOperation.response) op).trans formed)
  · exact exec_responseQueueJoin_room (w := .poolAudit) room
      ((congrArg (Option.bind · AuditOperation.response) op).trans formed)

end Sys2Proof.Machine
end

section
/-! PROOFS. The arbiter of the Line Port (R158): neither of its two sources is passed over without end. -/

namespace Sys2Proof.Machine

/-- Neither source of the Line Port stands beyond its bound, and after a verdict passed over the down-transit buffer has just
been granted (R158). -/
def PassedOver.Fair (c : PassedOver) : Prop :=
  c.verdict ≤ 1 ∧ c.downTransit ≤ 8 ∧ (c.verdict = 1 → c.downTransit = 0)

variable {s : State}

/-- A grant takes a source that is ready, and of its port. -/
theorem State.granted_source {p : Port} {x : Source} (granted : s.granted p = some x) :
    x ∈ sourcesOf p ∧ s.ready x = true := by
  unfold State.granted at granted
  refine List.mem_filter.1 ?_
  rcases Option.or_eq_some_iff.1 granted with aged | ⟨-, highest⟩
  · exact List.mem_of_find?_eq_some aged
  · exact List.mem_of_mem_head? highest

/-- A grant of the Office Port counts neither source of the Line Port. -/
theorem State.passedAfter_office {x : Source} (granted : s.granted .office = some x) :
    (s.passedAfter .office x).verdict = s.passed.verdict ∧ (s.passedAfter .office x).downTransit = s.passed.downTransit := by
  obtain ⟨source, -⟩ := State.granted_source granted
  have kept : ∀ y, y ∉ sourcesOf .office → (s.passedAfter .office x).count y = s.passed.count y := fun y other => by
    have notGranted : y ≠ x := fun same => other (same ▸ source)
    rw [State.passedAfter_count source, if_neg notGranted, if_neg fun h => other h.1]
  exact ⟨kept .verdict (by decide), kept .downTransit (by decide)⟩

/-- A ready verdict that stands below 8 is granted, unless a frame in the down-transit buffer stands at 8 or more. -/
theorem State.granted_verdict (ready : s.ready .verdict = true)
    (young : s.ready .downTransit = true → s.passed.downTransit < 8) (below : s.passed.verdict < 8) :
    s.granted .line = some .verdict :=
  State.granted_highest (before := []) (after := [.downTransit]) rfl ready
    (fun y source isReady => by
      rcases List.mem_pair.1 source with rfl | rfl
      · exact below
      · exact young isReady)
    fun y none => nomatch none

/-- A frame in the down-transit buffer that stands at 8 or more is granted, unless the verdicts stand there too. -/
theorem State.granted_downTransit (ready : s.ready .downTransit = true) (aged : 8 ≤ s.passed.downTransit)
    (below : s.passed.verdict < 8) : s.granted .line = some .downTransit :=
  State.granted_aged (before := [.verdict]) (after := []) rfl ready aged fun y source _ => by
    rw [List.mem_singleton.1 source]
    exact below

/-- A grant of the Line Port keeps both counts within their bounds: the verdicts are not passed over twice, and the down-transit
buffer not a ninth time. -/
theorem PassedOver.Fair.grant_line (fair : s.passed.Fair) {x : Source} (granted : s.granted .line = some x) :
    (s.passedAfter .line x).Fair := by
  obtain ⟨source, ready⟩ := State.granted_source granted
  obtain ⟨verdict, downTransit, alternate⟩ := fair
  have counts := State.passedAfter_count (s := s) source
  rcases List.mem_pair.1 source with rfl | rfl
  · have counted : (s.passedAfter .line .verdict).verdict = 0 := counts .verdict
    have passed : (s.passedAfter .line .verdict).downTransit =
        if s.ready .downTransit = true then s.passed.downTransit + 1 else s.passed.downTransit := by
      simpa [sourcesOf, PassedOver.count] using counts .downTransit
    have short : s.ready .downTransit = true → s.passed.downTransit < 8 := fun waits => by
      refine Nat.lt_of_not_le fun aged => ?_
      have other := State.granted_downTransit waits aged (by omega)
      rw [granted] at other
      cases other
    refine ⟨by omega, ?_, by omega⟩
    rw [passed]
    split
    next waits => exact short waits
    next => exact downTransit
  · have counted : (s.passedAfter .line .downTransit).downTransit = 0 := counts .downTransit
    have passed : (s.passedAfter .line .downTransit).verdict =
        if s.ready .verdict = true then s.passed.verdict + 1 else s.passed.verdict := by
      simpa [sourcesOf, PassedOver.count] using counts .verdict
    have first : s.ready .verdict = true → s.passed.verdict = 0 := fun waits => by
      by_contra stands
      have other := State.granted_verdict waits (by omega) (by omega)
      rw [granted] at other
      cases other
    refine ⟨?_, by omega, fun _ => counted⟩
    rw [passed]
    split
    next waits => rw [first waits]
    next => exact verdict

/-- A grant of either port keeps the bounds. -/
theorem PassedOver.Fair.grant (fair : s.passed.Fair) {p : Port} {x : Source} (granted : s.granted p = some x) :
    (s.passedAfter p x).Fair := by
  cases p with
  | line => exact fair.grant_line granted
  | office =>
    obtain ⟨verdict, downTransit⟩ := State.passedAfter_office granted
    unfold PassedOver.Fair
    rw [verdict, downTransit]
    exact fair

/-- Only a grant counts the sources passed over, and a reset clears the counts. -/
theorem stepClosed_fair : StepClosed fun s => s.passed.Fair where
  background h f := by rw [f]; exact h
  raise s d h := h
  count s c _ h := h
  appendRecord s r _ h := h
  queueVerdict s v _ h := h
  queueResponse s r _ h := h
  queueTap s e _ h := h
  dropTap s e rest _ h := h
  pushTransit s p f _ h := by cases p <;> exact h
  setPort s p ps _ h := by rw [State.setPort_passed]; exact h
  grant s p x f t granted _ h := h.grant granted
  reset := ⟨Nat.zero_le _, Nat.zero_le _, fun _ => rfl⟩
  warmReset s _ := ⟨Nat.zero_le _, Nat.zero_le _, fun _ => rfl⟩
  maintain s h := h
  serve s _ h := h
  editDeny s d _ h := h
  seek s table index h := h
  write s count entries _ h := h
  check s _ h := h
  commitFails s h := h
  commit s _ _ h := h
  dayChange s h := h
  startCopy s c h := h
  copyEntry s c _ _ h := h
  checkCopy s c _ _ h := h
  holdCopy s c r _ h := h
  endCopy s h := h

/-- Settles O10: every step is made of updates that leave the counts as they were, resets, and grants, which keep the bounds. -/
theorem lineArbiterStarvesNoSource : Obligations.LineArbiterStarvesNoSource := by
  unfold Obligations.LineArbiterStarvesNoSource
  exact fun s t fair run => stepClosed_fair.step fair run

end Sys2Proof.Machine
end

section
/-! PROOFS. Requests of bad form (R160, R162): a payload whose kind or length fits no request is answered, and changes nothing. -/

namespace Sys2Proof.Machine

variable {s : State}

/-! ### Arguments whose length does not fit (R160) -/

section
variable {k : Nat} {a : List Byte}

theorem readArguments_unknown (unknown : k ∉ [0x01, 0x02, 0x10, 0x11, 0x12, 0x13, 0x14, 0x15, 0x18, 0x19, 0x20, 0x21, 0x22,
    0x30, 0x31, 0x40, 0x41]) : readArguments k a = none := by
  simp only [List.mem_cons, List.not_mem_nil, or_false, not_or] at unknown
  simp [readArguments, unknown]

/-- The arguments of twelve of the requests have one length each (R160). -/
theorem readArguments_misfit {length : Nat}
    (fixed : (k, length) ∈ [(0x02, 1), (0x10, 3), (0x13, 0), (0x14, 0), (0x15, 0), (0x20, 0), (0x21, 0), (0x22, 3), (0x30, 7),
      (0x31, 0), (0x40, 1), (0x41, 1)]) (misfit : a.length ≠ length) : readArguments k a = none := by
  simp only [List.mem_cons, List.not_mem_nil, or_false, Prod.mk.injEq] at fixed
  rcases fixed with ⟨rfl, rfl⟩ | ⟨rfl, rfl⟩ | ⟨rfl, rfl⟩ | ⟨rfl, rfl⟩ | ⟨rfl, rfl⟩ | ⟨rfl, rfl⟩ | ⟨rfl, rfl⟩ | ⟨rfl, rfl⟩ |
    ⟨rfl, rfl⟩ | ⟨rfl, rfl⟩ | ⟨rfl, rfl⟩ | ⟨rfl, rfl⟩
  all_goals exact if_neg misfit

/-- The four requests that begin with a group or a count have no empty arguments. -/
theorem readArguments_empty (counted : k ∈ [0x01, 0x11, 0x18, 0x19]) : readArguments k [] = none := by
  simp only [List.mem_cons, List.not_mem_nil, or_false] at counted
  rcases counted with rfl | rfl | rfl | rfl <;> rfl

theorem readArguments_tableRead_misfit (one : a.length ≠ 1) (two : a.length ≠ 2) : readArguments 0x12 a = none :=
  (if_neg one).trans (if_neg two)

end

/-- The values of a group are as long as the group asks (R160). -/
theorem readSettingValues_misfit {group : Byte} {values : List Byte} {length : Nat}
    (fixed : (group.toNat, length) ∈ [(1, 2), (2, 6), (3, 8)]) (misfit : values.length ≠ length) :
    readSettingValues (group :: values) = none := by
  simp only [List.mem_cons, List.not_mem_nil, or_false, Prod.mk.injEq] at fixed
  rcases fixed with ⟨named, rfl⟩ | ⟨named, rfl⟩ | ⟨named, rfl⟩ <;> simp [readSettingValues, named, misfit]

/-- A count of 1 to 8 tokens asks for seven bytes each (R160). -/
theorem readTokenList_misfit {count : Byte} {tokens : List Byte} (least : 1 ≤ count.toNat) (most : count.toNat ≤ 8)
    (misfit : tokens.length ≠ 7 * count.toNat) : readTokenList (count :: tokens) = none := by
  have counts : ¬(count.toNat = 0 ∨ count.toNat > 8) := by omega
  exact (if_neg counts).trans (if_neg misfit)

/-- The tables but the deny list, each with the size of its entries (R160). -/
theorem entrySize_of_table {table size : Nat} (h : (table, size) ∈ [(1, 5), (2, 4), (3, 5), (4, 6), (5, 9)]) :
    table ≠ 8 ∧ entrySize table = size := by
  simp only [List.mem_cons, List.not_mem_nil, or_false, Prod.mk.injEq] at h
  rcases h with ⟨rfl, rfl⟩ | ⟨rfl, rfl⟩ | ⟨rfl, rfl⟩ | ⟨rfl, rfl⟩ | ⟨rfl, rfl⟩ <;> exact ⟨by decide, rfl⟩

/-- A count of 1 to 8 entries asks for the size of an entry of the cursor's table each (R160). -/
theorem State.writeFormed_misfit {count size : Nat} {entries : List Byte} (least : 1 ≤ count) (most : count ≤ 8)
    (table : (s.tariff.cursorTable, size) ∈ [(1, 5), (2, 4), (3, 5), (4, 6), (5, 9)])
    (misfit : entries.length ≠ count * size) : s.writeFormed count entries = false := by
  obtain ⟨notTokens, sized⟩ := entrySize_of_table table
  simp [State.writeFormed, Nat.ne_of_gt least, most, notTokens, sized, misfit]

/-! ### The answer (R162) -/

/-- With no request in hand a payload that fails the form check is answered with its kind (R162). -/
theorem exec_malformedRequest {src k : Nat} {payload : List Byte} (hand : s.hand = none)
    (malformed : s.malformedKind payload = some k) :
    exec (.malformedRequest src payload) s = .next (s.respond ⟨src, k, .badArgument, .malformed⟩) := by
  show Host.Outcome.next (s.whenFree _) = _
  rw [State.whenFree_of_none hand, malformed]
  rfl

/-- A payload of whose arguments no request can be made fails the form check. -/
theorem State.malformedKind_of_none {kind : Byte} {a : List Byte} (unread : readArguments kind.toNat a = none) :
    s.malformedKind (kind :: a) = some kind.toNat := by
  simp only [State.malformedKind, readRequest, unread, Option.getD_none]

/-- A TABLE_WRITE fails the form check when its entries do not fit its count and the cursor's table. -/
theorem State.malformedKind_tableWrite {kind count : Byte} {entries : List Byte} (write : kind.toNat = 0x11)
    (unformed : s.writeFormed count.toNat entries = false) :
    s.malformedKind (kind :: count :: entries) = some kind.toNat := by
  have read : readArguments 0x11 (count :: entries) = some (.tableWrite (field (count :: entries) 0 1) entries) := rfl
  have counted : field (count :: entries) 0 1 = count.toNat := by simp [field, beNat]
  rw [counted] at read
  simp only [State.malformedKind, readRequest, write, read, Option.getD_some, unformed]
  rfl

/-- Settles O30: each way in which a payload is of bad form leaves its arguments unread, but for a TABLE_WRITE, which is judged
with the cursor's table. -/
theorem malformedRequestIsAnswered : Obligations.MalformedRequestIsAnswered := by
  unfold Obligations.MalformedRequestIsAnswered
  refine fun src s hand => ⟨exec_malformedRequest hand rfl, fun kind a bad => exec_malformedRequest hand ?_⟩
  rcases bad with unknown | ⟨length, fixed, misfit⟩ | ⟨counted, rfl⟩ | ⟨tableRead, one, two⟩ |
    ⟨group, values, length, setting, rfl, fixed, misfit⟩ | ⟨count, tokens, deny, rfl, least, most, misfit⟩ |
    ⟨count, entries, size, write, rfl, least, most, table, misfit⟩
  · exact State.malformedKind_of_none (readArguments_unknown unknown)
  · exact State.malformedKind_of_none (readArguments_misfit fixed misfit)
  · exact State.malformedKind_of_none (readArguments_empty counted)
  · refine State.malformedKind_of_none ?_
    rw [tableRead]
    exact readArguments_tableRead_misfit one two
  · refine State.malformedKind_of_none ?_
    rw [setting]
    exact congrArg (Option.map _) (readSettingValues_misfit fixed misfit)
  · have unread := readTokenList_misfit least most misfit
    refine State.malformedKind_of_none ?_
    rcases deny with add | remove
    · rw [add]
      exact congrArg (Option.map _) unread
    · rw [remove]
      exact congrArg (Option.map _) unread
  · exact State.malformedKind_tableWrite write (State.writeFormed_misfit least most table misfit)

end Sys2Proof.Machine
end

section
/-! PROOFS. Pause episodes (R157), and a notice raised in the set of notices (R172). -/

namespace Sys2Proof.Machine

variable {s : State} {p : Port}

/-! ### Pause episodes (R157) -/

theorem exec_pause_clear (clear : (s.port p).partnerPaused = false) : exec (.pause p) s = .next (s.setPort p
    { s.port p with partnerPaused := true, pauseTimer := some (s.settings.link.pauseLimit * 10) }) :=
  if_neg (Bool.eq_false_iff.1 clear)

theorem exec_pause_set (set : (s.port p).partnerPaused = true) : exec (.pause p) s = .next s := if_pos set

theorem exec_resume_clear (clear : (s.port p).partnerPaused = false) : exec (.resume p) s = .next s :=
  if_neg (Bool.eq_false_iff.1 clear)

theorem exec_resume_set (set : (s.port p).partnerPaused = true) :
    exec (.resume p) s = .next (s.setPort p { s.port p with partnerPaused := false, pauseTimer := none }) := if_pos set

theorem exec_pauseLimitExpiry_due (due : (s.port p).pauseTimer = some 0) :
    exec (.pauseLimitExpiry p) s = .next { s.setPort p { s.port p with pauseTimer := none } with
      notices := raiseIn s.notices (.partnerStalled p) s.clock.time } :=
  (if_pos due).trans (by cases p <;> rfl)

theorem exec_pauseLimitExpiry_not_due (running : (s.port p).pauseTimer ≠ some 0) :
    exec (.pauseLimitExpiry p) s = .next s := if_neg running

/-! ### The set of notices (R172) -/

section
variable {ns : List Notice} {d : NoticeDetail} {time : Nat}

/-- A notice of a kind that has no entry joins the set. -/
theorem raiseIn_joins (new : ∀ n ∈ ns, n.detail.kind ≠ d.kind) : raiseIn ns d time = ns ++ [⟨d, 1, time⟩] := by
  unfold raiseIn
  rw [List.find?_eq_none.2 fun n listed => by simpa using new n listed]

/-- A notice of a kind that has one entry renews it at the tail. -/
theorem raiseIn_renews {before after : List Notice} {n : Notice} (same : n.detail.kind = d.kind)
    (earlier : ∀ m ∈ before, m.detail.kind ≠ d.kind) (later : ∀ m ∈ after, m.detail.kind ≠ d.kind)
    (range : n.count ≤ 65535) :
    raiseIn (before ++ n :: after) d time = before ++ after ++ [⟨d, min (n.count + 1) 65535, time⟩] := by
  have found : (before ++ n :: after).find? (fun m => m.detail.kind = d.kind) = some n := by
    rw [List.find?_append, List.find?_eq_none.2 fun m listed => by simpa using earlier m listed, Option.none_or]
    exact List.find?_cons_of_pos (decide_eq_true same)
  have others : (before ++ n :: after).filter (fun m => m.detail.kind ≠ d.kind) = before ++ after := by
    rw [List.filter_append, List.filter_cons_of_neg (by simp [same]), List.filter_eq_self.2, List.filter_eq_self.2]
    · simpa using later
    · simpa using earlier
  have count : (if n.count < Config.noticeCountMax then n.count + 1 else n.count) = min (n.count + 1) 65535 := by
    have most : Config.noticeCountMax = 65535 := rfl
    split <;> omega
  unfold raiseIn
  rw [found]
  dsimp only
  rw [others, count]

end

/-- With one entry of each kind, no other entry is of the kind of a given one. -/
theorem kind_ne_of_nodup {before after : List Notice} {n : Notice}
    (nodup : ((before ++ n :: after).map fun n => n.detail.kind).Nodup) :
    (∀ m ∈ before, m.detail.kind ≠ n.detail.kind) ∧ ∀ m ∈ after, m.detail.kind ≠ n.detail.kind := by
  have apart := List.pairwise_map.1 nodup
  obtain ⟨-, tail, across⟩ := List.pairwise_append.1 apart
  exact ⟨fun m listed => across m listed n List.mem_cons_self, fun m listed => ((List.pairwise_cons.1 tail).1 m listed).symm⟩

/-- Settles O55: the three commands by the mark and the timer, a raising by whether its kind has an entry. -/
theorem pauseEpisodeRunsOnce : Obligations.PauseEpisodeRunsOnce := by
  unfold Obligations.PauseEpisodeRunsOnce
  refine ⟨fun p s => ⟨fun clear => ⟨exec_pause_clear clear, exec_resume_clear clear⟩,
    fun set => ⟨exec_pause_set set, exec_resume_set set⟩, exec_pauseLimitExpiry_due, exec_pauseLimitExpiry_not_due⟩,
    fun ns d time => ⟨raiseIn_joins, ?_⟩⟩
  rintro before n after rfl nodup same range
  obtain ⟨earlier, later⟩ := kind_ne_of_nodup nodup
  rw [same] at earlier later
  exact raiseIn_renews same earlier later range

end Sys2Proof.Machine
end

section
/-! PROOFS. The check of a frame (R151): the remainder of header and payload over x^16 + x^12 + x^5 + 1, and what a frame is
judged to be at its END. -/

namespace Sys2Proof.Machine

open Polynomial

/-! ### Bits as a polynomial -/

/-- The polynomial whose coefficients are the low bits of `v` (R151). -/
noncomputable def bitPoly (bits v : Nat) : Polynomial (ZMod 2) :=
  ((List.range bits).map fun i => if v.testBit i then X ^ i else 0).sum

theorem bitPoly_succ (n v : Nat) : bitPoly (n + 1) v = bitPoly n v + if v.testBit n then X ^ n else 0 := by
  simp [bitPoly, List.range_succ]

/-- The polynomial rests on no bit above those it takes. -/
theorem bitPoly_congr {n u v : Nat} (same : ∀ i < n, u.testBit i = v.testBit i) : bitPoly n u = bitPoly n v := by
  induction n with
  | zero => rfl
  | succ n ih => rw [bitPoly_succ, bitPoly_succ, ih fun i below => same i (by omega), same n (Nat.lt_succ_self n)]

/-- Exclusive or adds coefficients that are 0 or 1. -/
theorem bitPoly_xor (n u v : Nat) : bitPoly n (u ^^^ v) = bitPoly n u + bitPoly n v := by
  induction n with
  | zero => simp [bitPoly]
  | succ n ih =>
    rw [bitPoly_succ, bitPoly_succ, bitPoly_succ, ih, Nat.testBit_xor]
    cases u.testBit n <;> cases v.testBit n
    · simp
    · simp [add_assoc]
    · simp [add_right_comm]
    · simp [add_add_add_comm _ (X ^ n), CharTwo.add_self_eq_zero]

/-- A shift by one bit multiplies by x. -/
theorem bitPoly_double (n v : Nat) : bitPoly (n + 1) (2 * v) = bitPoly n v * X := by
  induction n with
  | zero => simp [bitPoly]
  | succ n ih =>
    rw [bitPoly_succ, ih, bitPoly_succ n v, add_mul, show (2 * v).testBit (n + 1) = v.testBit n by
      simp [Nat.testBit_succ]]
    split <;> simp [pow_succ]

/-! ### The division (R151) -/

/-- What the check divides by (R151). -/
noncomputable def checkDivisor : Polynomial (ZMod 2) := X ^ 16 + X ^ 12 + X ^ 5 + 1

/-- A polynomial modulo what the check divides by. -/
noncomputable abbrev residue : Polynomial (ZMod 2) →+* AdjoinRoot checkDivisor := AdjoinRoot.mk checkDivisor

/-- The remainder held in a 16-bit register, as a residue. -/
noncomputable def registerResidue (r : BitVec 16) : AdjoinRoot checkDivisor := residue (bitPoly 16 r.toNat)

theorem residue_pow_sixteen : residue (X ^ 16) = residue (bitPoly 16 0x1021) := by
  have bits : bitPoly 16 0x1021 = X ^ 12 + X ^ 5 + 1 := by
    simp [bitPoly, List.range_succ, Nat.testBit, Nat.shiftRight_eq_div_pow]
    ring
  rw [bits]
  refine AdjoinRoot.mk_eq_mk.2 ⟨1, ?_⟩
  rw [CharTwo.sub_eq_add, mul_one, checkDivisor]
  ring

/-- The shifted register is the old one times x, less the bit that fell off its end. -/
theorem registerResidue_shift (r : BitVec 16) : registerResidue (r <<< 1) =
    registerResidue r * residue X + if r.msb then residue (X ^ 16) else 0 := by
  have shifted : bitPoly 16 (r <<< 1).toNat = bitPoly 15 r.toNat * X := by
    rw [← bitPoly_double]
    refine bitPoly_congr fun i below => ?_
    rw [BitVec.toNat_shiftLeft, Nat.testBit_mod_two_pow, Nat.shiftLeft_eq]
    simp [below, Nat.mul_comm]
  have top : r.msb = r.toNat.testBit 15 := rfl
  rw [registerResidue, registerResidue, shifted, bitPoly_succ 15, top]
  split
  next =>
    rw [← map_mul, ← map_add, add_mul, ← pow_succ, add_assoc, CharTwo.add_self_eq_zero, add_zero]
  next => rw [add_zero, add_zero, map_mul]

theorem registerResidue_xor (r q : BitVec 16) : registerResidue (r ^^^ q) = registerResidue r + registerResidue q := by
  rw [registerResidue, BitVec.toNat_xor, bitPoly_xor, map_add]
  rfl

theorem residue_add_self (f : Polynomial (ZMod 2)) : residue f + residue f = 0 := by
  rw [← map_add, CharTwo.add_self_eq_zero, map_zero]

/-- One step of the division takes the next bit of data in, at x^16. -/
theorem registerResidue_crcBit (r : BitVec 16) (bit : Bool) : registerResidue (crcBit r bit) =
    registerResidue r * residue X + if bit then residue (X ^ 16) else 0 := by
  have divisor : registerResidue 0x1021 = residue (X ^ 16) := residue_pow_sixteen.symm
  unfold crcBit
  cases top : r.msb <;> cases bit
  · show registerResidue (r <<< 1) = _
    rw [registerResidue_shift, top]
  · show registerResidue (r <<< 1 ^^^ 0x1021) = _
    rw [registerResidue_xor, registerResidue_shift, top, divisor, if_neg Bool.false_ne_true, add_zero, if_pos rfl]
  · show registerResidue (r <<< 1 ^^^ 0x1021) = _
    rw [registerResidue_xor, registerResidue_shift, top, divisor, if_pos rfl, add_assoc, residue_add_self,
      if_neg Bool.false_ne_true]
  · show registerResidue (r <<< 1) = _
    rw [registerResidue_shift, top]

/-- The low bits of a byte, taken in from the highest on. -/
theorem registerResidue_bits (v n : Nat) : ∀ r : BitVec 16,
    registerResidue ((List.range n).foldr (fun i acc => crcBit acc (v.testBit i)) r) =
      registerResidue r * residue (X ^ n) + residue (bitPoly n v) * residue (X ^ 16) := by
  induction n with
  | zero => simp [bitPoly]
  | succ n ih =>
    intro r
    rw [List.range_succ, List.foldr_append, List.foldr_cons, List.foldr_nil, ih, registerResidue_crcBit, bitPoly_succ]
    split <;> simp only [map_add, map_pow, map_zero] <;> ring

theorem registerResidue_crcByte (r : BitVec 16) (b : Byte) : registerResidue (crcByte r b) =
    registerResidue r * residue (X ^ 8) + residue (bitPoly 8 b.toNat) * residue (X ^ 16) :=
  registerResidue_bits b.toNat 8 r

/-- The bytes of a frame, divided as they come, leave the residue of the polynomial they spell. -/
theorem residue_foldl_bytes (bytes : List Byte) : ∀ (f : Polynomial (ZMod 2)) (r : BitVec 16), residue f = registerResidue r →
    residue (bytes.foldl (fun g b => g * X ^ 8 + bitPoly 8 b.toNat * X ^ 16) f) = registerResidue (bytes.foldl crcByte r) := by
  induction bytes with
  | nil => exact fun f r same => same
  | cons b rest ih =>
    intro f r same
    rw [List.foldl_cons, List.foldl_cons]
    refine ih _ _ ?_
    rw [registerResidue_crcByte, ← same, map_add, map_mul, map_mul]

/-- The check is the remainder of header and payload (R151). -/
theorem frameCheck_remainder (bytes : List Byte) : ∃ quotient : Polynomial (ZMod 2),
    bytes.foldl (fun g b => g * X ^ 8 + bitPoly 8 b.toNat * X ^ 16) (bitPoly 16 0xFFFF) =
      quotient * checkDivisor + bitPoly 16 (frameCheck bytes).toNat := by
  obtain ⟨quotient, split⟩ := AdjoinRoot.mk_eq_mk.1 (residue_foldl_bytes bytes (bitPoly 16 0xFFFF) 0xFFFF rfl)
  exact ⟨quotient, by rw [mul_comm, ← split]; exact (sub_add_cancel _ _).symm⟩

/-! ### The outcome of a frame at its END (R151) -/

/-- A frame of the length its header gives is judged by its last two bytes. -/
theorem judgeFrame_whole {body : List Byte} (high low : Byte) (length : body.length = 4 + (body.getD 3 0).toNat)
    (fits : (body.getD 3 0).toNat ≤ 240) : judgeFrame (body ++ [high, low]) (body.length + 2) =
      if 256 * high.toNat + low.toNat = (frameCheck body).toNat then .good else .badCheck := by
  have header : (body ++ [high, low]).getD 3 0 = body.getD 3 0 := List.getD_append _ _ _ _ (by omega)
  have check : field (body ++ [high, low]) body.length 2 = 256 * high.toNat + low.toNat := by
    simp [field, beNat, Nat.mul_comm]
  unfold judgeFrame
  rw [header]
  dsimp only
  rw [← length, List.take_left, check, if_neg (by show ¬246 < _; omega), if_neg (by show ¬(_ ∧ 240 < _); omega),
    if_neg (by omega), if_neg (by omega)]
  simp only [ne_eq, ite_not, eq_comm]

theorem judgeFrame_overlong {bytes : List Byte} {n : Nat}
    (long : 246 < n ∨ (4 ≤ n ∧ (240 < (bytes.getD 3 0).toNat ∨ (bytes.getD 3 0).toNat + 6 < n))) :
    judgeFrame bytes n = .overlong := by
  unfold judgeFrame
  rcases long with stored | ⟨header, long⟩
  · exact if_pos stored
  by_cases stored : 246 < n
  · exact if_pos stored
  refine (if_neg stored).trans ?_
  by_cases payload : 240 < (bytes.getD 3 0).toNat
  · exact if_pos ⟨header, payload⟩
  · exact (if_neg fun h => payload h.2).trans (if_pos ⟨header, by omega⟩)

theorem judgeFrame_short {bytes : List Byte} {n : Nat}
    (short : n < 4 ∨ (n ≤ 246 ∧ (bytes.getD 3 0).toNat ≤ 240 ∧ n ≤ (bytes.getD 3 0).toNat + 6 ∧
      (n < 6 ∨ n < (bytes.getD 3 0).toNat + 6))) : judgeFrame bytes n = .badCheck := by
  unfold judgeFrame
  dsimp only
  rw [if_neg (by show ¬246 < _; omega), if_neg (by show ¬(_ ∧ 240 < _); omega), if_neg (by omega), if_pos (by omega)]

end Sys2Proof.Machine
end

section
/-! PROOFS. Reception at a port (R149, R151, R152, R156): a START by the places held, and the other characters by the receive
state they find. -/

namespace Sys2Proof.Machine

/-! ### A port set -/

theorem State.setPort_port (s : State) (p : Port) : s.setPort p (s.port p) = s := by
  cases p <;> rfl

theorem State.setPort_setPort (s : State) (p : Port) (a b : PortState) : (s.setPort p a).setPort p b = s.setPort p b := by
  cases p <;> rfl

/-! ### A frame that ends and another that begins (R149, R152, R156) -/

section
variable {ps : PortState} {bytes : List Byte} {n : Nat}

theorem PortState.cutShort_outside {synced : Bool} (outside : ps.rx = .outside synced) : ps.cutShort = ps := by
  unfold PortState.cutShort
  rw [outside]

theorem PortState.cutShort_inside (inside : ps.rx = .inside bytes n) : ps.cutShort = ps.complete ⟨bytes, .aborted⟩ := by
  unfold PortState.cutShort
  rw [inside]

theorem PortState.cutShort_unstored (unstored : ps.rx = .unstored) : ps.cutShort = { ps with rx := .outside true } := by
  unfold PortState.cutShort
  rw [unstored]

/-- A frame that ends keeps its place, and calls for no flow mark. -/
theorem PortState.complete_keeps (inside : ps.rx = .inside bytes n) (f : StoredFrame) :
    (ps.complete f).places = ps.places ∧
      (ps.complete f).queue.length + (ps.complete f).held.length = ps.places ∧
      (ps.complete f).pauseSent = ps.pauseSent ∧ (ps.complete f).sent = ps.sent := by
  rw [PortState.places_inside inside]
  unfold PortState.complete
  split
  · exact ⟨by simp [PortState.places]; omega, by simp; omega, rfl, rfl⟩
  · exact ⟨by simp [PortState.places]; omega, by simp; omega, rfl, rfl⟩

/-- Cutting a frame short keeps the places held, all of them those of the two queues then, and calls for no flow mark. -/
theorem PortState.cutShort_keeps (ps : PortState) :
    ps.cutShort.places = ps.places ∧ ps.cutShort.queue.length + ps.cutShort.held.length = ps.places ∧
      ps.cutShort.pauseSent = ps.pauseSent ∧ ps.cutShort.sent = ps.sent := by
  cases receiving : ps.rx with
  | outside synced =>
    rw [PortState.cutShort_outside receiving]
    exact ⟨rfl, by simp [PortState.places, receiving], rfl, rfl⟩
  | inside bytes n =>
    rw [PortState.cutShort_inside receiving]
    exact PortState.complete_keeps receiving _
  | unstored =>
    rw [PortState.cutShort_unstored receiving]
    exact ⟨by simp [PortState.places, receiving], by simp [PortState.places, receiving], rfl, rfl⟩

end

section
variable {s : State} {p : Port}

/-- A START by the places held once the frame before it is cut short (R149, R152, R156). -/
theorem exec_frameStart (s : State) (p : Port) : exec (.frameStart p) s = .next
    (if (s.port p).places < 64 then s.setPort p ({ (s.port p).cutShort with rx := .inside [] 0 } : PortState).markRise
      else { s.setPort p { (s.port p).cutShort with rx := .unstored } with counters := s.counters.badFrame p }) := by
  obtain ⟨places, -⟩ := (s.port p).cutShort_keeps
  show Host.Outcome.next ((s.setPort p (s.port p).cutShort).beginFrame p) = _
  unfold State.beginFrame
  simp only [State.port_setPort_self, State.setPort_setPort, State.setPort_counters, places]

/-- A START with a place free for its frame, no flow mark being due. -/
theorem exec_frameStart_place (room : (s.port p).places < 64) (quiet : (s.port p).places ≠ 47 ∨ (s.port p).pauseSent = true) :
    exec (.frameStart p) s = .next (s.setPort p { (s.port p).cutShort with rx := .inside [] 0 }) := by
  obtain ⟨-, places, mark, -⟩ := (s.port p).cutShort_keeps
  have notDue : ¬(PortState.places { (s.port p).cutShort with rx := .inside [] 0 } = Config.pauseLevel ∧
      (s.port p).cutShort.pauseSent = false) := by
    rintro ⟨full, clear⟩
    have taken : (s.port p).cutShort.queue.length + (s.port p).cutShort.held.length + 1 = 48 := full
    rw [mark] at clear
    rcases quiet with other | sent
    · omega
    · rw [sent] at clear
      cases clear
  rw [exec_frameStart, if_pos room, PortState.markRise, if_neg notDue]

/-- A START whose frame takes the 48th place sends PAUSE. -/
theorem exec_frameStart_pause (level : (s.port p).places = 47) (clear : (s.port p).pauseSent = false) :
    exec (.frameStart p) s = .next (s.setPort p { (s.port p).cutShort with
      rx := .inside [] 0, pauseSent := true, sent := (s.port p).sent ++ [0x110] }) := by
  obtain ⟨-, places, mark, sent⟩ := (s.port p).cutShort_keeps
  have due : PortState.places { (s.port p).cutShort with rx := .inside [] 0 } = Config.pauseLevel ∧
      (s.port p).cutShort.pauseSent = false :=
    ⟨congrArg (· + 1) (places.trans level), mark.trans clear⟩
  rw [exec_frameStart, if_pos (by omega), PortState.markRise, if_pos due, sent]
  rfl

/-- A START with all 64 places held is counted, and its frame not stored. -/
theorem exec_frameStart_full (full : 64 ≤ (s.port p).places) : exec (.frameStart p) s = .next
    { s.setPort p { (s.port p).cutShort with rx := .unstored } with counters := s.counters.badFrame p } := by
  rw [exec_frameStart, if_neg (Nat.not_lt.2 full)]

/-! ### Outside a frame (R149) -/

section
variable {synced : Bool} (outside : (s.port p).rx = .outside synced)
include outside

theorem exec_dataByte_outside (b : Byte) :
    exec (.dataByte p b) s = .next (if synced then { s with counters := s.counters.lineError p } else s) := by
  show execDataByte p b s = _
  unfold execDataByte
  rw [outside]
  rfl

theorem exec_frameEnd_outside :
    exec (.frameEnd p) s = .next (if synced then { s with counters := s.counters.lineError p } else s) := by
  show execFrameEnd p s = _
  unfold execFrameEnd
  rw [outside]
  rfl

theorem exec_abort_outside : exec (.abort p) s = .next { s with counters := s.counters.lineError p } := by
  show execAbort p s = _
  unfold execAbort
  rw [outside]
  rfl

end

/-! ### Inside a stored frame (R149, R151) -/

section
variable {bytes : List Byte} {n : Nat} (inside : (s.port p).rx = .inside bytes n)
include inside

theorem exec_dataByte_inside (b : Byte) : exec (.dataByte p b) s = .next
    (s.setPort p { s.port p with rx := .inside (if n < 246 then bytes ++ [b] else bytes) (n + 1) }) := by
  show execDataByte p b s = _
  unfold execDataByte
  rw [inside]

theorem exec_frameEnd_inside :
    exec (.frameEnd p) s = .next (s.setPort p ((s.port p).complete ⟨bytes, judgeFrame bytes n⟩)) := by
  show execFrameEnd p s = _
  unfold execFrameEnd
  rw [inside]

theorem exec_abort_inside : exec (.abort p) s = .next (s.setPort p ((s.port p).complete ⟨bytes, .aborted⟩)) := by
  show execAbort p s = _
  unfold execAbort
  rw [inside, PortState.cutShort_inside inside]

end

/-! ### Inside a frame that has no place (R149, R152) -/

section
variable (unstored : (s.port p).rx = .unstored)
include unstored

theorem exec_dataByte_unstored (b : Byte) : exec (.dataByte p b) s = .next s := by
  show execDataByte p b s = _
  unfold execDataByte
  rw [unstored]

theorem exec_frameEnd_unstored : exec (.frameEnd p) s = .next (s.setPort p { s.port p with rx := .outside true }) := by
  show execFrameEnd p s = _
  unfold execFrameEnd
  rw [unstored]

theorem exec_abort_unstored : exec (.abort p) s = .next (s.setPort p { s.port p with rx := .outside true }) := by
  show execAbort p s = _
  unfold execAbort
  rw [unstored, PortState.cutShort_unstored unstored]

end

/-! ### Characters out of place (R149) -/

/-- A control character that no table names is out of place in every receive state. -/
theorem exec_lineError_unnamed {ch : Character} (control : 256 ≤ ch.toNat)
    (unnamed : ch ∉ ([0x100, 0x101, 0x102, 0x110, 0x111, 0x11F] : List Character)) :
    exec (.lineError p ch) s = .next { s with counters := s.counters.lineError p } := by
  have marker : ch.msb = true := by
    rw [BitVec.msb_eq_decide]
    exact decide_eq_true control
  simp only [List.mem_cons, List.not_mem_nil, or_false, not_or] at unnamed
  obtain ⟨fill, start, isEnd, pause, resume, abort⟩ := unnamed
  have other : (s.port p).rx.outOfPlace ch = true := by
    have notByte : ¬(ch.msb = false ∨ ch = endCharacter) := by
      rw [marker]
      exact fun byte => byte.elim nofun isEnd
    refine (if_neg notByte).trans ((if_neg abort).trans ?_)
    rw [beq_false_of_ne (b := fillCharacter) fill, beq_false_of_ne (b := startCharacter) start,
      beq_false_of_ne (b := pauseCharacter) pause, beq_false_of_ne (b := resumeCharacter) resume]
    rfl
  exact congrArg _ (if_pos other)

/-- FILL, START and the flow marks are in place in every receive state. -/
theorem exec_lineError_named {ch : Character} (named : ch ∈ ([0x100, 0x101, 0x110, 0x111] : List Character)) :
    exec (.lineError p ch) s = .next s := by
  have inPlace : (s.port p).rx.outOfPlace ch = false := by
    simp only [List.mem_cons, List.not_mem_nil, or_false] at named
    rcases named with rfl | rfl | rfl | rfl <;> rfl
  exact congrArg _ (if_neg (Bool.eq_false_iff.1 inPlace))

end

/-- Settles O54: the check by its division, START by the places held, each other character by the receive state it finds. -/
theorem receptionFollowsItsTable : Obligations.ReceptionFollowsItsTable := by
  unfold Obligations.ReceptionFollowsItsTable
  refine ⟨⟨frameCheck_remainder, fun body high low => judgeFrame_whole high low⟩, fun ps => rfl, fun p s => ?_,
    fun bytes n => ⟨judgeFrame_overlong, judgeFrame_short⟩⟩
  refine ⟨fun synced outside => ?_, fun bytes n inside => ?_, fun unstored => ?_,
    fun ch => ⟨exec_lineError_unnamed, exec_lineError_named⟩⟩
  · have kept := PortState.cutShort_outside outside
    refine ⟨fun room quiet => ?_, fun level clear => ?_, fun full => ?_, exec_dataByte_outside outside,
      exec_frameEnd_outside outside, exec_abort_outside outside⟩
    · rw [exec_frameStart_place room quiet, kept]
    · rw [exec_frameStart_pause level clear, kept]
    · rw [exec_frameStart_full full, kept]
  · have cut := PortState.cutShort_inside inside
    refine ⟨exec_dataByte_inside inside, exec_frameEnd_inside inside, exec_abort_inside inside, fun room quiet => ?_,
      fun level clear => ?_, fun full => ?_⟩
    · rw [exec_frameStart_place room quiet, cut]
      rfl
    · rw [exec_frameStart_pause level clear, cut]
      rfl
    · rw [exec_frameStart_full full, cut]
      rfl
  · have cut := PortState.cutShort_unstored unstored
    refine ⟨fun room quiet => ?_, fun level clear => ?_, fun full => ?_, exec_dataByte_unstored unstored,
      exec_frameEnd_unstored unstored, exec_abort_unstored unstored⟩
    · rw [exec_frameStart_place room quiet, cut]
    · rw [exec_frameStart_pause level clear, cut]
    · have same : ({ s.port p with rx := .unstored } : PortState) = s.port p := by rw [← unstored]
      rw [exec_frameStart_full full, cut]
      dsimp only
      rw [same, State.setPort_port]

end Sys2Proof.Machine
end

section
/-! PROOFS. Payloads read (R160): taps, beacons, requests and table entries, field by field, every number high byte first. -/

namespace Sys2Proof.Machine

/-! ### Numbers (R160) -/

theorem field_eq_foldl (p : List Byte) (i n : Nat) :
    field p i n = ((p.drop i).take n).foldl (fun a b => 256 * a + b.toNat) 0 := by
  unfold field beNat
  simp only [Nat.mul_comm]

theorem field_head (b : Byte) (p : List Byte) : field (b :: p) 0 1 = b.toNat := by
  simp [field, beNat]

/-! ### Runs of entries and tokens (R160) -/

theorem readEntries_eq_map {α : Type} (size : Nat) (f : List Byte → α) (n : Nat) : ∀ p : List Byte,
    readEntries size f n p = (List.range n).map fun i => f ((p.drop (size * i)).take size) := by
  induction n with
  | zero => exact fun p => rfl
  | succ n ih =>
    intro p
    rw [readEntries, ih, List.range_succ_eq_map, List.map_cons, List.map_map]
    simp only [Nat.mul_zero, List.drop_zero, List.drop_drop, Function.comp_def, Nat.mul_succ, Nat.add_comm]

theorem readTokens_eq_map (n : Nat) (p : List Byte) :
    readTokens n p = (List.range n).map fun i => BitVec.ofNat 56 (field p (7 * i) 7) := by
  show _ = (List.range n).map fun i => tokenOf ((p.drop (7 * i)).take 7)
  rw [← readEntries_eq_map]
  induction n generalizing p with
  | zero => rfl
  | succ n ih => rw [readTokens, readEntries, ih]

/-! ### Requests (R160) -/

theorem readRequest_of_arguments {k : Byte} {a : List Byte} {q : Request} (read : readArguments k.toNat a = some q) :
    readRequest (k :: a) = q := by
  rw [readRequest, read, Option.getD_some]

variable {p : List Byte}

theorem readRequest_link (length : p.length = 2) :
    readRequest (0x01 :: 1 :: p) = .settingWrite (.link (field p 0 1) (field p 1 1)) := by
  simp [readRequest, readArguments, readSettingValues, length]

theorem readRequest_timing (length : p.length = 6) :
    readRequest (0x01 :: 2 :: p) = .settingWrite (.timing (field p 0 2) (field p 2 1) (field p 3 1) (field p 4 2)) := by
  simp [readRequest, readArguments, readSettingValues, length]

theorem readRequest_journey (length : p.length = 8) : readRequest (0x01 :: 3 :: p) =
    .settingWrite (.journey (field p 0 2) (field p 2 2) (field p 4 1) (field p 5 1) (field p 6 2)) := by
  simp [readRequest, readArguments, readSettingValues, length]

theorem readRequest_otherGroup {g : Byte} (link : g ≠ 1) (timing : g ≠ 2) (journey : g ≠ 3) :
    readRequest (0x01 :: g :: p) = .settingWrite (.other g.toNat) := by
  have numbers : g.toNat ≠ 1 ∧ g.toNat ≠ 2 ∧ g.toNat ≠ 3 :=
    ⟨fun h => link (BitVec.eq_of_toNat_eq h), fun h => timing (BitVec.eq_of_toNat_eq h),
      fun h => journey (BitVec.eq_of_toNat_eq h)⟩
  simp [readRequest, readArguments, readSettingValues, numbers]

theorem readTokenList_counted {c : Byte} (nonzero : c ≠ 0) (most : c.toNat ≤ 8) (length : p.length = 7 * c.toNat) :
    readTokenList (c :: p) = some (c.toNat, readTokens c.toNat p) := by
  have counted : ¬(c.toNat = 0 ∨ c.toNat > 8) := by
    rintro (zero | above)
    · exact nonzero (BitVec.eq_of_toNat_eq zero)
    · omega
  exact (if_neg counted).trans (if_pos length)

theorem readTokenList_uncounted {c : Byte} (bad : c = 0 ∨ 8 < c.toNat) :
    readTokenList (c :: p) = some (c.toNat, []) := by
  refine if_pos (bad.imp_left fun zero => ?_)
  rw [zero]
  rfl

/-- DENY_ADD and DENY_REMOVE read the same arguments. -/
theorem readRequest_deny {a : List Byte} {n : Nat} {tokens : List Token} (read : readTokenList a = some (n, tokens)) :
    readRequest (0x18 :: a) = .denyAdd n tokens ∧ readRequest (0x19 :: a) = .denyRemove n tokens :=
  ⟨readRequest_of_arguments (congrArg (Option.map _) read), readRequest_of_arguments (congrArg (Option.map _) read)⟩

theorem readRequest_tableWrite (c : Byte) : readRequest (0x11 :: c :: p) = .tableWrite c.toNat p := by
  simp [readRequest, readArguments, field_head]

theorem readRequest_tableRead_bank (length : p.length = 2) :
    readRequest (0x12 :: p) = .tableRead (field p 0 1) (some (field p 1 1)) :=
  readRequest_of_arguments ((if_neg (c := p.length = 1) (by omega)).trans (if_pos length))

theorem readRequest_journeyQuery (length : p.length = 7) :
    readRequest (0x30 :: p) = .journeyQuery (BitVec.ofNat 56 (field p 0 7)) := by
  have whole : field p 0 7 = beNat p := by rw [field, List.drop_zero, List.take_of_length_le length.le]
  rw [whole]
  exact readRequest_of_arguments (if_pos length)


end Sys2Proof.Machine
end
section
/-! PROOFS. Payloads written (R160): verdicts, journey records, notices and responses as runs of fields, each a width in bytes and
a number, high byte first. -/

namespace Sys2Proof.Machine

/-! ### Fields (R160) -/

/-- The bytes of a run of fields, each its width and its number. -/
def spelled (fields : List (Nat × Nat)) : List Byte :=
  fields.flatMap fun x => (List.range x.1).map fun i => BitVec.ofNat 8 (x.2 / 256 ^ (x.1 - 1 - i))

theorem beBytes_eq_map (w : Nat) : ∀ n : Nat,
    beBytes w n = (List.range w).map fun i => BitVec.ofNat 8 (n / 256 ^ (w - 1 - i)) := by
  induction w with
  | zero => exact fun n => rfl
  | succ w ih =>
    intro n
    rw [beBytes, ih, List.range_succ, List.map_append, List.map_singleton, Nat.add_sub_cancel, Nat.sub_self, pow_zero,
      Nat.div_one]
    refine congrArg (· ++ _) (List.map_congr_left fun i listed => ?_)
    have below := List.mem_range.1 listed
    rw [Nat.div_div_eq_div_mul, ← pow_succ', show w - 1 - i + 1 = w - i by omega]

/-- A number in bytes is a run of one field. -/
theorem beBytes_eq_spelled (w n : Nat) : beBytes w n = spelled [(w, n)] := by
  rw [beBytes_eq_map, spelled, List.flatMap_singleton]

theorem spelled_append (a b : List (Nat × Nat)) : spelled (a ++ b) = spelled a ++ spelled b := List.flatMap_append

theorem boolByte_eq_spelled (b : Bool) : [boolByte b] = spelled [(1, flagBit b 1)] := by
  cases b <;> rfl

theorem beBytes_length (w n : Nat) : (beBytes w n).length = w := by
  rw [beBytes_eq_map, List.length_map, List.length_range]

theorem spelled_zero (w : Nat) : spelled [(w, 0)] = List.replicate w 0 := by
  simp [spelled, List.map_const']

/-! ### Verdicts and journey records (R160) -/

theorem Verdict.payload_eq (v : Verdict) : v.payload = spelled [(7, v.token.toNat), (1, v.gate), (1, v.kind.code),
    (1, v.reason.code), (1, flagBit v.charged.isSome 1 + flagBit v.capRemaining.isSome 2), (2, v.charged.getD 0),
    (2, v.capRemaining.getD 0)] := by
  simp only [Verdict.payload, beBytes_eq_spelled, ← spelled_append]
  rfl

/-- A leg in 12 bytes (R160). -/
theorem legBytes_eq (mark : Nat) (l : RecordLeg) : legBytes mark l = spelled
    [(1, flagBit l.entry.isSome 1 + flagBit l.exit.isSome 2 + flagBit l.metres.isSome 4 + mark),
      (1, (l.entry.map (·.station)).getD 0), (3, (l.entry.map (·.time)).getD 0), (1, (l.exit.map (·.station)).getD 0),
      (3, (l.exit.map (·.time)).getD 0), (3, l.metres.getD 0)] := by
  simp only [legBytes, beBytes_eq_spelled, ← spelled_append]
  rfl

theorem JourneyRecord.payload_eq (r : JourneyRecord) : r.payload =
    spelled [(1, r.kind.code), (7, r.token.toNat), (1, r.cls), (2, r.day),
      (1, flagBit r.basis.isSome 1 + flagBit r.capSpent.isSome 2), (1, r.legs.length)] ++ r.legs.flatMap (legBytes 0) ++
    spelled [(2, (r.basis.map (·.distance)).getD 0), (4, (r.basis.map (·.distanceFare)).getD 0),
      (2, (r.basis.map (·.percent)).getD 0), (2, r.classFare), (2, r.charged), (2, r.capSpent.getD 0), (2, r.flags.code)] := by
  simp only [JourneyRecord.payload, beBytes_eq_spelled, List.append_assoc, ← spelled_append]
  rfl

/-! ### Notices (R160, R172) -/

/-- A run of fields of ten bytes at most, filled up to ten with zeros. -/
theorem filled_eq_spelled {fields : List Byte} {a : List (Nat × Nat)} {w : Nat} (run : fields = spelled a)
    (width : fields.length + w = 10) : (fields ++ List.replicate 10 0).take 10 = spelled (a ++ [(w, 0)]) := by
  rw [spelled_append, spelled_zero, ← run, List.take_append, List.take_of_length_le (by omega), List.take_replicate,
    show min (10 - fields.length) 10 = w by omega]

/-- The detail of a notice in its ten bytes (R172). -/
theorem NoticeDetail.filled_eq (d : NoticeDetail) : (d.fields ++ List.replicate 10 0).take 10 = spelled (match d with
    | .shortage c => [(2, c), (8, 0)]
    | .shortageCleared c => [(2, c), (8, 0)]
    | .clockDoubt .endOfDay u => [(1, 1), (3, u), (6, 0)]
    | .clockDoubt .beaconLate u => [(1, 2), (3, u), (6, 0)]
    | .clockDispute d u c v => [(2, d), (3, u), (2, c), (3, v)]
    | .partnerStalled .line => [(1, 1), (9, 0)]
    | .partnerStalled .office => [(1, 2), (9, 0)]
    | .slotQuarantined m => [(2, m), (8, 0)]) := by
  cases d with
  | shortage c => exact filled_eq_spelled (a := [(2, c)]) (beBytes_eq_spelled 2 c) rfl
  | shortageCleared c => exact filled_eq_spelled (a := [(2, c)]) (beBytes_eq_spelled 2 c) rfl
  | clockDoubt cause u =>
    have times : ∀ k, beBytes 1 k ++ beBytes 3 u = spelled [(1, k), (3, u)] := fun k => by
      rw [beBytes_eq_spelled, beBytes_eq_spelled, ← spelled_append]
      rfl
    cases cause with
    | endOfDay => exact filled_eq_spelled (w := 6) (times 1) rfl
    | beaconLate => exact filled_eq_spelled (w := 6) (times 2) rfl
  | clockDispute d u c v =>
    have run : (NoticeDetail.clockDispute d u c v).fields = spelled [(2, d), (3, u), (2, c), (3, v)] := by
      simp only [NoticeDetail.fields, beBytes_eq_spelled, ← spelled_append]
      rfl
    exact filled_eq_spelled (w := 0) run rfl
  | partnerStalled p => cases p <;> rfl
  | slotQuarantined m => exact filled_eq_spelled (a := [(2, m)]) (beBytes_eq_spelled 2 m) rfl

theorem Notice.payload_eq (n : Notice) : n.payload =
    spelled [(1, n.detail.kind.code), (2, n.count), (3, n.time)] ++ (n.detail.fields ++ List.replicate 10 0).take 10 := by
  simp only [Notice.payload, beBytes_eq_spelled, ← spelled_append]
  rfl

/-! ### Responses (R160) -/

theorem ReadEntry.bytes_eq (e : ReadEntry) : e.bytes = match e with
    | .station e => spelled [(1, flagBit e.inUse 1), (3, e.chainage), (1, flagBit e.breakPermitted 1)]
    | .fareBand e => spelled [(2, e.upperLimit), (2, e.rate)]
    | .timeBand e => spelled [(1, flagBit e.inUse 1), (2, e.startMinute), (2, e.percent)]
    | .cls e => spelled [(1, flagBit e.inUse 1), (1, e.payable), (1, e.step), (3, e.dailyCap)]
    | .constants e => spelled [(3, e.boardingCharge), (2, e.fareCeiling), (2, e.sameStationFee), (1, e.minimumDistance),
        (1, e.sameStationGrace)]
    | .token u => spelled [(7, u.toNat)] := by
  cases e <;> simp only [ReadEntry.bytes, beBytes_eq_spelled, boolByte_eq_spelled, ← spelled_append] <;> rfl

theorem settingBytes_eq (v : SettingValues) : settingBytes v = match v with
    | .link a b => spelled [(1, a), (1, b)]
    | .timing a b c d => spelled [(2, a), (1, b), (1, c), (2, d)]
    | .journey a b c d e => spelled [(2, a), (2, b), (1, c), (1, d), (2, e)]
    | .other _ => [] := by
  cases v <;> simp only [settingBytes, beBytes_eq_spelled, ← spelled_append] <;> rfl

theorem failureBytes_eq (f : Option CheckFailure) : failureBytes f = match f with
    | none => spelled [(3, 0)]
    | some x => spelled [(1, x.table), (1, x.index), (1, x.check)] := by
  cases f with
  | none => exact beBytes_eq_spelled 3 0
  | some x =>
    simp only [failureBytes, beBytes_eq_spelled, ← spelled_append]
    rfl

theorem TariffReport.bytes_eq (r : TariffReport) : r.bytes =
    spelled [(1, r.cursorTable), (2, r.cursorIndex), (2, r.length),
      (1, flagBit r.valid 1 + flagBit r.pendingSwap 2 + flagBit r.withdrawn 4), (1, r.live.code), (1, r.count)] ++
      failureBytes r.failure ++ r.entries.flatMap ReadEntry.bytes := by
  simp only [TariffReport.bytes, beBytes_eq_spelled, ← spelled_append]
  rfl

/-- Numbers of one width, one after another. -/
theorem flatten_beBytes (w : Nat) (ns : List Nat) : (ns.map (beBytes w)).flatten = spelled (ns.map fun n => (w, n)) := by
  rw [spelled, List.flatMap_map, funext (beBytes_eq_map w)]
  rfl

theorem faultBytes_eq (f : Option FaultEntry) : faultBytes f = match f with
    | none => spelled [(6, 0)]
    | some f => spelled [(1, match f.code with
        | .slotCheck => 1
        | .malformedTap => 2), (2, f.number), (3, f.time)] := by
  cases f with
  | none => exact beBytes_eq_spelled 6 0
  | some f =>
    obtain ⟨code, number, time⟩ := f
    cases code <;> simp only [faultBytes, beBytes_eq_spelled, ← spelled_append] <;> rfl

theorem StatusReport.bytes_eq (x : StatusReport) : x.bytes =
    spelled [(1, x.mode.code), (2, x.clock.day.getD 0), (1, x.clock.dayType.code), (3, x.clock.time),
      (1, flagBit x.clock.doubt 1), (2, x.counts.free), (2, x.counts.cores + x.counts.extensions + x.counts.orphans),
      (2, x.counts.quarantined), (2, x.counts.cores), (2, x.counts.orphans), (1, flagBit x.pendingSwap 1),
      (1, flagBit x.written.link 1 + flagBit x.written.timing 2 + flagBit x.written.journey 4)] ++
      spelled (x.counters.values.map fun n => (4, n)) ++ faultBytes x.fault := by
  simp only [StatusReport.bytes, Counters.bytes, flatten_beBytes, beBytes_eq_spelled, boolByte_eq_spelled, ← spelled_append]
  rfl

/-- A completed leg of a query answer, its damage in bit 3 of its leg presence (R171). -/
theorem queryLegBytes_eq (l : QueryLeg) : queryLegBytes l = match l with
    | some e => legBytes 0 ⟨some ⟨e.entryStation, e.entryTime⟩, some ⟨e.exitStation, e.exitTime⟩, some e.metres⟩
    | none => legBytes 8 ⟨none, none, none⟩ := by
  cases l <;> rfl

theorem JourneyPart.bytes_core (slot : Nat) (c : Core) (legs : List QueryLeg) : (JourneyPart.core slot c legs).bytes =
    spelled [(1, 1), (2, slot), (1, c.cls), (2, c.day), (1, c.dayType.code),
      (1, match c.state with
        | .opened => 1
        | .broken _ => 2), (1, c.entryStation), (3, c.entryTime), (3, c.firstEntryTime), (1, c.entryGate),
      (3, match c.state with
        | .opened => 0
        | .broken out => out), (1, legs.length)] ++ legs.flatMap queryLegBytes ++ spelled [(2, c.flags.code)] := by
  cases state : c.state <;> simp only [JourneyPart.bytes, state, beBytes_eq_spelled, ← spelled_append] <;> rfl

theorem JourneyPart.bytes_orphan (slot : Nat) (o : Orphan) (onOrder : Bool) : (JourneyPart.orphan slot o onOrder).bytes =
    spelled [(1, 2), (2, slot), (1, o.cls), (2, o.day), (1, o.exitStation), (1, o.exitGate), (3, o.exitTime),
      (3, o.arrival), (1, flagBit onOrder 1), (2, o.flags.code)] := by
  simp only [JourneyPart.bytes, beBytes_eq_spelled, boolByte_eq_spelled, ← spelled_append]
  rfl

theorem accountBytes_eq (a : Option AccountPart) : accountBytes a = match a with
    | none => spelled [(6, 0)]
    | some a => spelled [(1, 1), (2, a.cap), (2, a.spent), (1, a.journeys)] := by
  cases a with
  | none => exact beBytes_eq_spelled 6 0
  | some x =>
    simp only [accountBytes, beBytes_eq_spelled, ← spelled_append]
    rfl

theorem dayReportBytes_eq (r : Option DayReport) : dayReportBytes r = match r with
    | none => spelled [(13, 0)]
    | some x => spelled [(2, x.day), (1, x.dayType.code), (1, flagBit x.swapped 1), (1, x.live.code),
        (2, x.counts.incomplete), (2, x.counts.complete), (2, x.counts.unmatched), (2, x.counts.damaged)] := by
  cases r with
  | none => exact beBytes_eq_spelled 13 0
  | some x =>
    simp only [dayReportBytes, beBytes_eq_spelled, boolByte_eq_spelled, ← spelled_append]
    rfl

theorem auditReportBytes_eq (r : Option AuditReport) : auditReportBytes r = match r with
    | none => spelled [(12, 0)]
    | some x => spelled [(2, x.counts.recovered), (2, x.counts.damaged), (2, x.counts.loneReleased),
        (2, x.counts.restored), (2, x.stillQuarantined), (2, x.counts.rebuildSettled)] := by
  cases r with
  | none => exact beBytes_eq_spelled 12 0
  | some x =>
    simp only [auditReportBytes, beBytes_eq_spelled, ← spelled_append]
    rfl

/-- The data of a response by its kind, its fields together where they stand together (R160). -/
theorem ResponseData.bytes_eq (d : ResponseData) : d.bytes = match d with
    | .malformed => []
    | .setting g w n held => spelled [(1, g), (1, flagBit w 1), (1, n)] ++ settingBytes held
    | .tariff x => x.bytes
    | .deny n m => spelled [(1, n), (2, m)]
    | .serviceStart x => spelled [(1, x.item.code)] ++ failureBytes x.failure ++
        spelled [(2, x.day), (1, x.dayType.code), (1, x.live.code)]
    | .serviceStop m => spelled [(1, m.code)]
    | .dayChange r => dayReportBytes r
    | .query p a => p.bytes ++ accountBytes a
    | .poolAudit r => auditReportBytes r
    | .status x => x.bytes
    | .engineReset k j o => spelled [(1, k), (2, j), (2, o)] := by
  cases d <;> simp only [ResponseData.bytes, beBytes_eq_spelled, boolByte_eq_spelled, List.append_assoc, ← spelled_append] <;>
    rfl

theorem Response.payload_eq (r : Response) : r.payload = spelled [(1, r.kind), (1, r.result.code)] ++ r.data.bytes := by
  simp only [Response.payload, beBytes_eq_spelled, ← spelled_append]
  rfl

end Sys2Proof.Machine
end

section
/-! PROOFS. A frame sent and received (R150, R151, R152, R155), and the statement on frames and payloads. -/

namespace Sys2Proof.Machine

/-! ### A frame received (R151, R155) -/

/-- The data bytes of a frame: header, payload and check, the high byte of the check first (R150, R151). -/
def Frame.dataBytes (f : Frame) : List Byte := f.body ++ beBytes 2 (frameCheck f.body).toNat

section
variable {f : Frame} (fits : f.payload.length ≤ 240)
include fits

theorem Frame.header_length : (BitVec.ofNat 8 f.payload.length).toNat = f.payload.length := by
  rw [BitVec.toNat_ofNat]
  omega

theorem Frame.frame_stored : (⟨f.dataBytes, .good⟩ : StoredFrame).frame = f := by
  have length : (⟨f.dataBytes, .good⟩ : StoredFrame).payloadLength = f.payload.length := Frame.header_length fits
  have payload : (⟨f.dataBytes, .good⟩ : StoredFrame).payload = f.payload := by
    rw [StoredFrame.payload, length]
    exact List.take_left
  show Frame.mk f.destination f.source f.cls (⟨f.dataBytes, .good⟩ : StoredFrame).payload = f
  rw [payload]

/-- The data bytes of a frame sent are judged GOOD (R151). -/
theorem Frame.judge_dataBytes : judgeFrame f.dataBytes f.dataBytes.length = .good := by
  have length := Frame.header_length fits
  have spells : f.dataBytes = f.body ++
      [BitVec.ofNat 8 ((frameCheck f.body).toNat / 256), BitVec.ofNat 8 (frameCheck f.body).toNat] := rfl
  have check : 256 * (BitVec.ofNat 8 ((frameCheck f.body).toNat / 256)).toNat +
      (BitVec.ofNat 8 (frameCheck f.body).toNat).toNat = (frameCheck f.body).toNat := by
    have below := (frameCheck f.body).isLt
    rw [BitVec.toNat_ofNat, BitVec.toNat_ofNat]
    omega
  have body : f.body.length = 4 + (f.body.getD 3 0).toNat := by
    show f.payload.length + 1 + 1 + 1 + 1 = 4 + (BitVec.ofNat 8 f.payload.length).toNat
    omega
  rw [spells, List.length_append]
  exact (judgeFrame_whole _ _ body (length.le.trans fits)).trans (if_pos check)

theorem Frame.dataBytes_length : f.dataBytes.length ≤ 246 := by
  rw [Frame.dataBytes, List.length_append, beBytes_length]
  show f.payload.length + 1 + 1 + 1 + 1 + 2 ≤ 246
  omega

end

section
variable {s : State} {p : Port}

/-- A START outside a frame, with a place free, begins a stored frame behind those that wait (R149, R152). -/
theorem exec_frameStart_begins {synced : Bool} (outside : (s.port p).rx = .outside synced) (room : (s.port p).places < 64) :
    ∃ ps, exec (.frameStart p) s = .next (s.setPort p ps) ∧ ps.rx = .inside [] 0 ∧ ps.queue = (s.port p).queue ∧
      ps.held = (s.port p).held := by
  rw [exec_frameStart, if_pos room, PortState.cutShort_outside outside]
  refine ⟨_, rfl, ?_⟩
  unfold PortState.markRise
  split <;> exact ⟨rfl, rfl, rfl⟩

/-- The next data byte, taken if the port has come so far. -/
def takeDataByte (p : Port) (o : Host.Outcome State Fault Refusal) (b : Byte) : Host.Outcome State Fault Refusal :=
  match o with
  | .next s => exec (.dataByte p b) s
  | o => o

/-- Data bytes taken one by one join the frame in hand, up to 246 (R151). -/
theorem foldl_takeDataByte (bytes : List Byte) : ∀ (ps : PortState) (taken : List Byte) (n : Nat),
    ps.rx = .inside taken n → n + bytes.length ≤ 246 →
    bytes.foldl (takeDataByte p) (.next (s.setPort p ps)) =
      .next (s.setPort p { ps with rx := .inside (taken ++ bytes) (n + bytes.length) }) := by
  induction bytes with
  | nil =>
    intro ps taken n inside _
    rw [List.append_nil, List.length_nil, Nat.add_zero, ← inside]
    rfl
  | cons b rest ih =>
    intro ps taken n inside most
    rw [List.length_cons] at most
    have step : takeDataByte p (.next (s.setPort p ps)) b =
        .next (s.setPort p { ps with rx := .inside (taken ++ [b]) (n + 1) }) := by
      rw [takeDataByte, exec_dataByte_inside ((congrArg _ (State.port_setPort_self s p ps)).trans inside),
        State.port_setPort_self, State.setPort_setPort, if_pos (by omega)]
    rw [List.foldl_cons, step, ih _ (taken ++ [b]) (n + 1) rfl (by omega), List.append_assoc, List.length_cons,
      Nat.add_right_comm, Nat.add_assoc]
    rfl

/-- With a place free and nothing held, the data bytes of a frame after a START, and then END, put the frame into the status
queue as GOOD, and count nothing (R151, R152). -/
theorem receives_dataBytes {f : Frame} (fits : f.payload.length ≤ 240) {synced : Bool}
    (outside : (s.port p).rx = .outside synced) (places : (s.port p).places < 64) (room : (s.port p).queue.length < 16)
    (noneHeld : (s.port p).held = []) :
    ∃ t u, f.dataBytes.foldl (takeDataByte p) (exec (.frameStart p) s) = .next t ∧
      exec (.frameEnd p) t = .next u ∧ (u.port p).queue = (s.port p).queue ++ [⟨f.dataBytes, .good⟩] ∧
      (u.port p).rx = .outside true ∧ u.counters = s.counters := by
  obtain ⟨ps, start, begun, queue, held⟩ := exec_frameStart_begins outside places
  have taken := foldl_takeDataByte (s := s) (p := p) f.dataBytes ps [] 0 begun (by
    rw [Nat.zero_add]
    exact Frame.dataBytes_length fits)
  rw [List.nil_append, Nat.zero_add, ← start] at taken
  have ended := exec_frameEnd_inside (s := s.setPort p { ps with rx := .inside f.dataBytes f.dataBytes.length }) (p := p)
    (congrArg _ (State.port_setPort_self s p _))
  rw [State.port_setPort_self, State.setPort_setPort, Frame.judge_dataBytes fits] at ended
  have joins : ({ ps with rx := .inside f.dataBytes f.dataBytes.length } : PortState).complete ⟨f.dataBytes, .good⟩ =
      { ps with rx := .outside true, queue := ps.queue ++ [⟨f.dataBytes, .good⟩] } :=
    if_pos ⟨by rw [queue]; exact room, held.trans noneHeld⟩
  rw [joins] at ended
  refine ⟨_, _, taken, ended, ?_, ?_, State.setPort_counters _ _ _⟩
  · rw [State.port_setPort_self, ← queue]
  · rw [State.port_setPort_self]

end

/-- Settles O58: payloads read field by field, payloads written as runs of fields, and a frame received byte by byte. -/
theorem frameSentIsFrameReceived : Obligations.FrameSentIsFrameReceived := by
  unfold Obligations.FrameSentIsFrameReceived
  refine ⟨fun p => ?_, ?_, fun f p s fits outside places room noneHeld => ?_⟩
  · intro num
    have numbers : num = field p := funext fun i => funext fun n => (field_eq_foldl p i n).symm
    rw [numbers]
    refine ⟨rfl, rfl, rfl, rfl, rfl, rfl, rfl, fun α size n f => readEntries_eq_map size f n p, readRequest_link,
      readRequest_timing, readRequest_journey, fun g => readRequest_otherGroup,
      fun length => readRequest_of_arguments (if_pos length), fun length => readRequest_of_arguments (if_pos length),
      readRequest_tableWrite, fun length => readRequest_of_arguments (if_pos length), readRequest_tableRead_bank,
      fun c nonzero most length => ?_, fun c bad => ⟨[], [], readRequest_deny (readTokenList_uncounted bad)⟩,
      fun length => readRequest_of_arguments (if_pos length), readRequest_journeyQuery,
      fun length => readRequest_of_arguments (if_pos length), fun length => readRequest_of_arguments (if_pos length),
      rfl, rfl, rfl, rfl, rfl, rfl⟩
    have tokens := readTokenList_counted nonzero most length
    rw [readTokens_eq_map] at tokens
    exact readRequest_deny tokens
  · intro bytes bit flags leg dayType bank mode failure entry settings part account counters fault
    have legs : leg = legBytes := funext fun mark => funext fun l => (legBytes_eq mark l).symm
    refine ⟨Verdict.payload_eq, fun r => ?_, fun n => ?_, fun r => ?_⟩
    · rw [legs]
      exact r.payload_eq
    · have written := n.payload_eq
      rw [NoticeDetail.filled_eq, ← spelled_append] at written
      obtain ⟨detail, count, time⟩ := n
      cases detail with
      | shortage c => exact written
      | shortageCleared c => exact written
      | clockDoubt cause u => cases cause <;> exact written
      | clockDispute d u c v => exact written
      | partnerStalled p => cases p <;> exact written
      | slotQuarantined m => exact written
    · have failures : failure = failureBytes := funext fun f => by rw [failureBytes_eq]; cases f <;> rfl
      have entries : entry = ReadEntry.bytes := funext fun e => by rw [ReadEntry.bytes_eq]; cases e <;> rfl
      have values : settings = settingBytes := funext fun v => by rw [settingBytes_eq]; cases v <;> rfl
      have accounts : account = accountBytes := funext fun a => by rw [accountBytes_eq]; cases a <;> rfl
      have faults : fault = faultBytes := funext fun f => by rw [faultBytes_eq]; cases f <;> rfl
      have parts : part = JourneyPart.bytes := funext fun j => by
        cases j with
        | none => exact (beBytes_eq_spelled 1 0).symm
        | core slot c held =>
          rw [JourneyPart.bytes_core]
          refine congrArg₂ (· ++ ·) (congrArg₂ (· ++ ·) rfl (congrArg (held.flatMap ·) (funext fun l => ?_))) rfl
          rw [queryLegBytes_eq]
          cases l <;> exact (legBytes_eq _ _).symm
        | orphan slot o onOrder => exact (JourneyPart.bytes_orphan slot o onOrder).symm
      rw [Response.payload_eq, failures, entries, values, accounts, faults, parts]
      refine congrArg₂ (· ++ ·) rfl ?_
      rw [ResponseData.bytes_eq]
      cases r.data with
      | malformed => rfl
      | setting g w n held => rfl
      | tariff x => exact x.bytes_eq
      | deny n m => rfl
      | serviceStart x => rfl
      | serviceStop m => rfl
      | dayChange x => cases x <;> exact dayReportBytes_eq _
      | query j a => rfl
      | poolAudit x => cases x <;> exact auditReportBytes_eq _
      | status x => exact x.bytes_eq
      | engineReset k j o => rfl
  · obtain ⟨synced, outside⟩ := outside
    exact ⟨f.dataBytes, rfl, Frame.frame_stored fits, receives_dataBytes fits outside places room noneHeld⟩

end Sys2Proof.Machine
end

section
/-! PROOFS. What taking a request or a beacon leaves of the ports and the transit buffers (R155, R161), and where a frame is routed
(R154). -/

namespace Sys2Proof.Machine

/-! ### Requests leave the links as they were (R162) -/

/-- The ports and the transit buffers. -/
def State.links (s : State) : PortState × PortState × List Frame × List Frame :=
  (s.line, s.office, s.upTransit, s.downTransit)

theorem State.port_of_links {s t : State} (same : t.links = s.links) (p : Port) :
    t.port p = s.port p ∧ t.transit p = s.transit p := by
  obtain ⟨line, office, up, down⟩ : t.line = s.line ∧ t.office = s.office ∧ t.upTransit = s.upTransit ∧
      t.downTransit = s.downTransit := by simpa [State.links] using same
  cases p with
  | line => exact ⟨line, up⟩
  | office => exact ⟨office, down⟩

theorem State.links_respond (s : State) (r : Response) : (s.respond r).links = s.links := by
  unfold State.respond
  split <;> rfl

theorem State.links_endPass (s : State) : s.endPass.links = s.links := by
  unfold State.endPass
  split <;> rfl

theorem JourneyFrame.links {s t : State} (frame : JourneyFrame s t) : t.links = s.links := by
  rw [frame]
  rfl

section
variable (s : State) (src : Nat)

theorem State.links_settingWrite (v : SettingValues) : (s.settingWrite src v).links = s.links := by
  unfold State.settingWrite
  split_ifs <;> exact State.links_respond _ _

theorem State.links_tableSeek (table index : Nat) : (s.tableSeek src table index).links = s.links := by
  unfold State.tableSeek
  split_ifs <;> exact State.links_respond _ _

theorem State.links_tableWrite (count : Nat) (entries : List Byte) : (s.tableWrite src count entries).links = s.links := by
  unfold State.tableWrite
  split_ifs <;> exact State.links_respond _ _

theorem State.links_tableRead (count : Nat) (bank : Option Nat) : (s.tableRead src count bank).links = s.links := by
  unfold State.tableRead
  split
  · exact State.links_respond _ _
  · split_ifs <;> exact State.links_respond _ _

theorem State.links_tariffCheck : (s.tariffCheck src).links = s.links := by
  unfold State.tariffCheck
  split
  · exact State.links_respond _ _
  · split <;> exact State.links_respond _ _

theorem State.links_tariffCommit : (s.tariffCommit src).links = s.links := by
  unfold State.tariffCommit
  split
  · exact State.links_respond _ _
  · split <;> exact State.links_respond _ _

theorem State.links_tariffCopy : (s.tariffCopy src).links = s.links := by
  unfold State.tariffCopy
  split
  · exact State.links_respond _ _
  · rfl

theorem State.links_denyEdit {kind count : Nat} {tokens : List Token} {act : State → State}
    (edit : (act s).links = s.links) : (s.denyEdit src kind count tokens act).links = s.links := by
  unfold State.denyEdit
  split_ifs
  · exact State.links_respond _ _
  · exact State.links_respond _ _
  · exact edit

theorem State.links_serviceStart : (s.serviceStart src).links = s.links := by
  unfold State.serviceStart
  split <;> exact State.links_respond _ _

theorem State.links_serviceStop : (s.serviceStop src).links = s.links := by
  unfold State.serviceStop
  split
  · exact State.links_respond _ _
  · exact (State.links_respond _ _).trans s.links_endPass

theorem State.links_dayChange (day dayType : Nat) : (s.dayChange src day dayType).links = s.links := by
  unfold State.dayChange
  split
  · exact State.links_respond _ _
  · exact State.links_endPass _

theorem State.links_poolAudit : (s.poolAudit src).links = s.links := by
  unfold State.poolAudit
  split_ifs
  · exact State.links_respond _ _
  · exact State.links_respond _ _
  · rfl

theorem State.links_journeyQuery (token : Token) : (s.journeyQuery src token).links = s.links :=
  (State.links_respond _ _).trans ((journeyFrame_closed s).queryJourney token (.refl s)).links

/-- ENGINE_RESET with a kind that names no reset is answered, and leaves the links as they were. -/
theorem State.links_engineReset {kind : Nat} (warm : kind ≠ 1) (full : kind ≠ 2) : (s.engineReset src kind).links = s.links := by
  unfold State.engineReset
  rw [if_neg warm, if_neg full]
  exact State.links_respond _ _

end

/-- A request that resets the part (R164, R177). -/
def Request.Resets (q : Request) : Prop := ∃ k, q = .engineReset k ∧ (k = 1 ∨ k = 2)

/-- Every request but one that resets the part leaves the ports and the transit buffers as they were. -/
theorem State.links_takeRequest (s : State) (src : Nat) {q : Request} (keeps : ¬q.Resets) :
    (s.takeRequest src q).links = s.links := by
  cases q with
  | settingWrite v => exact s.links_settingWrite src v
  | settingRead g => exact s.links_respond _
  | tableSeek t i => exact s.links_tableSeek src t i
  | tableWrite n es => exact s.links_tableWrite src n es
  | tableRead n b => exact s.links_tableRead src n b
  | tariffCheck => exact s.links_tariffCheck src
  | tariffCommit => exact s.links_tariffCommit src
  | tariffCopy => exact s.links_tariffCopy src
  | denyAdd n ts => exact s.links_denyEdit src (State.links_respond _ _)
  | denyRemove n ts => exact s.links_denyEdit src (State.links_respond _ _)
  | serviceStart => exact s.links_serviceStart src
  | serviceStop => exact s.links_serviceStop src
  | dayChange d t => exact s.links_dayChange src d t
  | journeyQuery t => exact s.links_journeyQuery src t
  | poolAudit => exact s.links_poolAudit src
  | statusRead c => exact State.links_respond _ _
  | engineReset k => exact s.links_engineReset src (fun warm => keeps ⟨k, rfl, .inl warm⟩) fun full => keeps ⟨k, rfl, .inr full⟩
  | malformed k => exact s.links_respond _

/-- A request that resets the part leaves no routing at a port (R161). -/
theorem State.routed_takeRequest_reset (s : State) (src : Nat) {q : Request} (resets : q.Resets) (p : Port) :
    ((s.takeRequest src q).port p).routed = none := by
  obtain ⟨k, rfl, rfl | rfl⟩ := resets <;> cases p <;> rfl

theorem State.links_takeBeacon (s : State) (day time : Nat) : (s.takeBeacon day time).links = s.links := by
  unfold State.takeBeacon
  split <;> rfl

/-! ### Where a frame is routed (R154) -/

section
variable (p : Port) (cls : Byte)

theorem route_another : route p cls .another = ([.transit], false) := by
  unfold route
  split <;> rfl

theorem route_sent (a : cls ∈ ([0x22, 0x31, 0x42, 0x43] : List Byte)) :
    route p cls .engine = ([], true) ∧ route p cls .broadcast = ([.transit], false) := by
  simp only [List.mem_cons, List.not_mem_nil, or_false] at a
  rcases a with rfl | rfl | rfl | rfl <;> cases p <;> exact ⟨rfl, rfl⟩

theorem route_unnamed (unnamed : cls ∉ ([0x21, 0x22, 0x31, 0x41, 0x42, 0x43, 0x44] : List Byte)) (a : Addressee) :
    route p cls a = ([.transit], false) := by
  simp only [List.mem_cons, List.not_mem_nil, or_false, not_or] at unnamed
  obtain ⟨tap, verdict, journey, request, response, notice, beacon⟩ := unnamed
  have other : namedClass cls = false := by
    unfold namedClass sentClass
    rw [beq_false_of_ne (b := classTap) tap, beq_false_of_ne (b := classVerdict) verdict,
      beq_false_of_ne (b := classJourney) journey, beq_false_of_ne (b := classRequest) request,
      beq_false_of_ne (b := classResponse) response, beq_false_of_ne (b := classNotice) notice,
      beq_false_of_ne (b := classBeacon) beacon]
    rfl
  unfold route
  rw [other]
  rfl

end

/-- A frame is routed to a block or to none, and behind the block to transit or not. -/
theorem route_eq (p : Port) (cls : Byte) (a : Addressee) : ∃ (block : Option Destination) (tail : List Destination),
    (route p cls a).1 = block.toList ++ tail ∧ (tail = [] ∨ tail = [.transit]) ∧ ∀ b, block = some b → b ≠ .transit := by
  have blocks : ∀ b, blockFor p cls = some b → b ≠ .transit := by
    unfold blockFor
    cases p <;> dsimp only <;> split_ifs <;> rintro b ⟨⟩ <;> exact nofun
  unfold route
  split
  · cases a with
    | engine => exact ⟨blockFor p cls, [], (List.append_nil _).symm, .inl rfl, blocks⟩
    | broadcast => exact ⟨blockFor p cls, [.transit], rfl, .inr rfl, blocks⟩
    | another => exact ⟨none, [.transit], rfl, .inr rfl, nofun⟩
  · exact ⟨none, [.transit], rfl, .inr rfl, nofun⟩

end Sys2Proof.Machine
end
section
/-! PROOFS. The Frame Switch (R152, R153, R155, R156): the deliveries a routed frame waits for, each made or not by the room of its
destination, and the frame that leaves with its last. -/

namespace Sys2Proof.Machine

/-! ### A port whose head frame waits for deliveries (R153) -/

/-- The port's head frame is routed, and waits for deliveries. -/
def State.awaiting (s : State) (p : Port) (ds : List Destination) : State :=
  s.setPort p { s.port p with routed := some ds }

section
variable (s : State) (p : Port) (ds es : List Destination)

theorem State.port_awaiting : (s.awaiting p ds).port p = { s.port p with routed := some ds } := State.port_setPort_self _ _ _

theorem State.hasRoom_awaiting (f : StoredFrame) (d : Destination) : (s.awaiting p ds).hasRoom p f d = s.hasRoom p f d :=
  s.hasRoom_setPort p _ f d

/-- A port that waits already does so in its state. -/
theorem State.awaiting_self {s : State} {p : Port} {ds : List Destination} (routed : (s.port p).routed = some ds) :
    s.awaiting p ds = s := by
  have same : ({ s.port p with routed := some ds } : PortState) = s.port p := by rw [← routed]
  rw [State.awaiting, same, State.setPort_port]

end

/-! ### One delivery tried (R155) -/

section
variable {s : State} {p : Port} {f : StoredFrame} {d : Destination} {ds : List Destination}

theorem State.tryDelivery_absent (absent : d ∉ (s.port p).routed.getD []) : s.tryDelivery p f d = s := by
  refine if_neg fun waits => absent ?_
  obtain ⟨listed, -⟩ := Bool.and_eq_true_iff.1 waits
  simpa using listed

theorem State.tryDelivery_full (full : ¬s.hasRoom p f d = true) : s.tryDelivery p f d = s :=
  if_neg fun waits => full (Bool.and_eq_true_iff.1 waits).2

/-- A delivery that waits is made when its destination has room. -/
theorem State.tryDelivery_made (listed : d ∈ ds) (room : s.hasRoom p f d = true) :
    (s.awaiting p ds).tryDelivery p f d = (s.awaiting p (ds.erase d)).deliver p f d := by
  have waits : (((s.awaiting p ds).port p).routed.getD []).contains d && (s.awaiting p ds).hasRoom p f d := by
    rw [State.port_awaiting, State.hasRoom_awaiting, room]
    simpa using listed
  rw [State.tryDelivery, if_pos waits, State.makeDelivery, State.port_awaiting, State.awaiting, State.setPort_setPort]
  rfl

/-- A delivery that resets nothing leaves the ports as they were, and one to a block the transit buffers too. -/
theorem State.deliver_keeps (keeps : d = .management → ¬(readRequest f.payload).Resets) :
    (s.deliver p f d).port p = s.port p ∧ (d ≠ .transit → (s.deliver p f d).transit p = s.transit p) := by
  cases d with
  | tapQueue => exact ⟨by cases p <;> rfl, fun _ => by cases p <;> rfl⟩
  | management =>
    obtain ⟨port, transit⟩ := State.port_of_links (s.links_takeRequest f.source (keeps rfl)) p
    exact ⟨port, fun _ => transit⟩
  | clock =>
    obtain ⟨port, transit⟩ := State.port_of_links (s.links_takeBeacon (readBeacon f.payload).1 (readBeacon f.payload).2) p
    exact ⟨port, fun _ => transit⟩
  | transit => exact ⟨by cases p <;> rfl, fun other => absurd rfl other⟩

/-- After a delivery tried, no more deliveries wait than before. -/
theorem State.tryDelivery_routed (s : State) (p : Port) (f : StoredFrame) (d : Destination) :
    ((s.tryDelivery p f d).port p).routed.getD [] ⊆ (s.port p).routed.getD [] := by
  unfold State.tryDelivery
  split
  next =>
    by_cases resets : d = .management ∧ (readRequest f.payload).Resets
    · obtain ⟨rfl, resets⟩ := resets
      rw [State.makeDelivery, State.deliver, State.routed_takeRequest_reset _ _ resets]
      exact List.nil_subset _
    · obtain ⟨port, -⟩ := State.deliver_keeps (s := s.setPort p { s.port p with
        routed := (s.port p).routed.map fun ds => ds.erase d }) (p := p) (f := f) fun management k => resets ⟨management, k⟩
      rw [State.makeDelivery, port, State.port_setPort_self]
      cases (s.port p).routed with
      | none => exact List.nil_subset _
      | some ds => exact List.erase_subset
  next => exact List.Subset.refl _

/-- The four destinations are tried one after another, of which a block and transit count where the frame waits for no other. -/
theorem State.foldl_tryDelivery (block : d ≠ .transit) (waits : ∀ x ∈ (s.port p).routed.getD [], x = d ∨ x = .transit) :
    ([.tapQueue, .management, .clock, .transit] : List Destination).foldl (fun s d => s.tryDelivery p f d) s =
      (s.tryDelivery p f d).tryDelivery p f .transit := by
  have before : ∀ x, x ≠ d → x ≠ .transit → s.tryDelivery p f x = s := fun x other notTransit =>
    State.tryDelivery_absent fun listed => (waits x listed).elim other notTransit
  have after : ∀ x, x ≠ d → x ≠ .transit → (s.tryDelivery p f d).tryDelivery p f x = s.tryDelivery p f d :=
    fun x other notTransit => State.tryDelivery_absent fun listed =>
      (waits x (s.tryDelivery_routed p f d listed)).elim other notTransit
  simp only [List.foldl_cons, List.foldl_nil]
  cases d with
  | tapQueue => rw [after .management nofun nofun, after .clock nofun nofun]
  | management => rw [before .tapQueue nofun nofun, after .clock nofun nofun]
  | clock => rw [before .tapQueue nofun nofun, before .management nofun nofun]
  | transit => exact absurd rfl block

/-- A frame that waits for one delivery has that one tried. -/
theorem State.foldl_tryDelivery_one (s : State) (p : Port) (f : StoredFrame) (d : Destination) :
    ([.tapQueue, .management, .clock, .transit] : List Destination).foldl (fun s d => s.tryDelivery p f d)
      (s.awaiting p [d]) = (s.awaiting p [d]).tryDelivery p f d := by
  have waits : ∀ x ∈ ((s.awaiting p [d]).port p).routed.getD [], x = d := fun x listed => by
    rw [State.port_awaiting] at listed
    exact List.mem_singleton.1 listed
  by_cases transit : d = .transit
  · subst transit
    have clock : (s.awaiting p [.transit]).tryDelivery p f .clock = s.awaiting p [.transit] :=
      State.tryDelivery_absent fun listed => nomatch waits _ listed
    rw [State.foldl_tryDelivery (d := .clock) nofun fun x listed => .inr (waits x listed), clock]
  · rw [State.foldl_tryDelivery transit fun x listed => .inl (waits x listed)]
    exact State.tryDelivery_absent fun listed =>
      transit (waits _ ((s.awaiting p [d]).tryDelivery_routed p f d listed)).symm

/-! ### The frame that leaves (R152, R153, R156) -/

/-- The head frame leaves its port: its place is freed, and the fall to 16 places sends RESUME. -/
theorem PortState.dropHead_eq {ps : PortState} {rest : List StoredFrame} (queue : ps.queue = f :: rest) : ps.dropHead =
    if ps.places = 17 ∧ ps.pauseSent = true then
      { ps with queue := rest, routed := none, pauseSent := false, sent := ps.sent ++ [0x111] }
    else { ps with queue := rest, routed := none } := by
  have places : PortState.places { ps with queue := rest, routed := none } + 1 = ps.places := by
    simp only [PortState.places, queue, List.length_cons]
    omega
  have fall : PortState.places { ps with queue := rest, routed := none } = Config.resumeLevel ↔ ps.places = 17 := by
    show _ = 16 ↔ _
    omega
  unfold PortState.dropHead PortState.markFall
  simp only [queue, List.tail_cons, fall]
  rfl

/-- The frame leaves a port that waits for no delivery more. -/
theorem State.finishRouting_done {u : State} (port : s.port p = (u.awaiting p []).port p) :
    s.finishRouting p = s.setPort p (u.port p).dropHead := by
  rw [State.port_awaiting] at port
  rw [State.finishRouting, port, if_pos rfl]
  rfl

theorem State.finishRouting_waits (waits : (s.port p).routed ≠ some []) : s.finishRouting p = s := if_neg waits

/-! ### The deliveries of a frame just routed (R153, R155) -/

/-- The frame with its deliveries tried, gone when none is left. -/
def State.switched (s : State) (p : Port) (f : StoredFrame) (ds : List Destination) : State :=
  (([.tapQueue, .management, .clock, .transit] : List Destination).foldl (fun s d => s.tryDelivery p f d)
    (s.awaiting p ds)).finishRouting p

theorem State.switched_none (s : State) (p : Port) (f : StoredFrame) :
    s.switched p f [] = s.setPort p (s.port p).dropHead := by
  have nothing : ∀ d, (s.awaiting p []).tryDelivery p f d = s.awaiting p [] := fun d =>
    State.tryDelivery_absent (by rw [State.port_awaiting]; exact List.not_mem_nil)
  simp only [State.switched, List.foldl_cons, List.foldl_nil, nothing]
  rw [State.finishRouting_done (u := s) rfl, State.awaiting, State.setPort_setPort]

section
variable (keeps : d = .management → ¬(readRequest f.payload).Resets)
include keeps

theorem State.switched_one_made (room : s.hasRoom p f d = true) :
    s.switched p f [d] = ((s.awaiting p []).deliver p f d).setPort p (s.port p).dropHead := by
  obtain ⟨port, -⟩ := State.deliver_keeps (s := s.awaiting p []) (p := p) keeps
  rw [State.switched, State.foldl_tryDelivery_one, State.tryDelivery_made List.mem_cons_self room, List.erase_cons_head,
    State.finishRouting_done port]

end

theorem State.switched_one_full (full : ¬s.hasRoom p f d = true) : s.switched p f [d] = s.awaiting p [d] := by
  rw [State.switched, State.foldl_tryDelivery_one, State.tryDelivery_full (by rwa [State.hasRoom_awaiting])]
  exact State.finishRouting_waits (by rw [State.port_awaiting]; exact nofun)

/-- A frame that waits for a block and for transit has the block's delivery tried first. -/
theorem State.foldl_tryDelivery_two (s : State) (p : Port) (f : StoredFrame) (block : d ≠ .transit) :
    ([.tapQueue, .management, .clock, .transit] : List Destination).foldl (fun s d => s.tryDelivery p f d)
      (s.awaiting p [d, .transit]) = ((s.awaiting p [d, .transit]).tryDelivery p f d).tryDelivery p f .transit :=
  State.foldl_tryDelivery block fun x listed => by
    rw [State.port_awaiting] at listed
    exact List.mem_pair.1 listed

/-- The block's delivery made, that to transit is tried by the room transit had before. -/
theorem State.tryDelivery_transit {u : State} {es : List Destination}
    (port : u.port p = { s.port p with routed := some (.transit :: es) }) (room : s.hasRoom p f .transit = true)
    (transit : u.transit p = s.transit p) : u.tryDelivery p f .transit = (u.awaiting p es).pushTransit p f.frame := by
  have routed : (u.port p).routed = some (.transit :: es) := by rw [port]
  have roomThere : u.hasRoom p f .transit = true := by
    rw [State.hasRoom, transit]
    exact room
  have made := State.tryDelivery_made (s := u) (p := p) (ds := .transit :: es) List.mem_cons_self roomThere
  rwa [State.awaiting_self routed, List.erase_cons_head] at made

/-- A frame that joins a transit buffer touches no port. -/
theorem State.pushTransit_setPort (s : State) (p : Port) (g : Frame) (ps : PortState) :
    (s.setPort p ps).pushTransit p g = (s.pushTransit p g).setPort p ps := by
  cases p <;> rfl

theorem State.port_pushTransit (s : State) (p : Port) (g : Frame) : (s.pushTransit p g).port p = s.port p := by
  cases p <;> rfl

section
variable (block : d ≠ .transit)
include block

theorem State.switched_two_full (full : ¬s.hasRoom p f d = true) :
    (s.hasRoom p f .transit = true → s.switched p f [d, .transit] = (s.awaiting p [d]).pushTransit p f.frame) ∧
    (¬s.hasRoom p f .transit = true → s.switched p f [d, .transit] = s.awaiting p [d, .transit]) := by
  have stays : (s.awaiting p [d, .transit]).tryDelivery p f d = s.awaiting p [d, .transit] :=
    State.tryDelivery_full (by rwa [State.hasRoom_awaiting])
  rw [State.switched, State.foldl_tryDelivery_two s p f block, stays]
  refine ⟨fun room => ?_, fun fullToo => ?_⟩
  · have rest : [d, Destination.transit].erase .transit = [d] := by
      cases d <;> rfl
    rw [State.tryDelivery_made (List.mem_cons_of_mem _ List.mem_cons_self) room, rest]
    exact State.finishRouting_waits (by
      show (((s.awaiting p [d]).pushTransit p f.frame).port p).routed ≠ _
      rw [State.port_pushTransit, State.port_awaiting]
      exact nofun)
  · rw [State.tryDelivery_full (by rwa [State.hasRoom_awaiting])]
    exact State.finishRouting_waits (by rw [State.port_awaiting]; exact nofun)

theorem State.switched_two_made (room : s.hasRoom p f d = true)
    (keeps : d = .management → ¬(readRequest f.payload).Resets) :
    (s.hasRoom p f .transit = true → s.switched p f [d, .transit] =
      (((s.awaiting p [.transit]).deliver p f d).pushTransit p f.frame).setPort p (s.port p).dropHead) ∧
    (¬s.hasRoom p f .transit = true → s.switched p f [d, .transit] = (s.awaiting p [.transit]).deliver p f d) := by
  obtain ⟨port, transit⟩ := State.deliver_keeps (s := s.awaiting p [.transit]) (p := p) keeps
  rw [State.port_awaiting] at port
  have sameTransit : ((s.awaiting p [.transit]).deliver p f d).transit p = s.transit p :=
    (transit block).trans (by cases p <;> rfl)
  rw [State.switched, State.foldl_tryDelivery_two s p f block, State.tryDelivery_made List.mem_cons_self room,
    List.erase_cons_head]
  refine ⟨fun roomToo => ?_, fun full => ?_⟩
  · rw [State.tryDelivery_transit port roomToo sameTransit, State.awaiting, State.pushTransit_setPort,
      State.finishRouting_done (u := s), State.setPort_setPort]
    rw [State.port_setPort_self, State.port_awaiting, port]
  · have fullThere : ¬((s.awaiting p [.transit]).deliver p f d).hasRoom p f .transit = true := by
      rw [State.hasRoom, sameTransit]
      exact full
    rw [State.tryDelivery_full fullThere]
    exact State.finishRouting_waits (by rw [port]; exact nofun)

end

/-- A frame whose request resets the part is gone with the port's whole buffer, transit waiting behind it or not (R161). -/
theorem State.switched_resets (resets : (readRequest f.payload).Resets) (room : s.hasRoom p f .management = true) :
    s.switched p f [.management] = (s.awaiting p []).deliver p f .management ∧
    s.switched p f [.management, .transit] = (s.awaiting p [.transit]).deliver p f .management := by
  have gone : ∀ ds, (((s.awaiting p ds).deliver p f .management).port p).routed = none := fun ds =>
    State.routed_takeRequest_reset _ _ resets p
  have ends : ∀ ds, ((s.awaiting p ds).deliver p f .management).finishRouting p = (s.awaiting p ds).deliver p f .management :=
    fun ds => State.finishRouting_waits (by rw [gone]; exact nofun)
  refine ⟨?_, ?_⟩
  · rw [State.switched, State.foldl_tryDelivery_one, State.tryDelivery_made List.mem_cons_self room, List.erase_cons_head, ends]
  · rw [State.switched, State.foldl_tryDelivery_two (d := .management) s p f nofun, State.tryDelivery_made List.mem_cons_self room,
      List.erase_cons_head, State.tryDelivery_absent (by rw [gone]; exact List.not_mem_nil), ends]

end

end Sys2Proof.Machine
end
section
/-! PROOFS. The Frame Switch: what a frame counts as it is routed (R154), requests and beacons from their frames taken as their
commands are (R155), and the statement. -/

namespace Sys2Proof.Machine

variable {s : State} {p : Port} {f : StoredFrame}

/-! ### Deliveries that go ahead (R154) -/

theorem StoredFrame.fits_iff (f : StoredFrame) (d : Destination) :
    f.fits d = true ↔ (d = .tapQueue → f.payloadLength = 17) ∧ (d = .clock → f.payloadLength = 5) := by
  cases d <;> simp [StoredFrame.fits, lengthFor]

/-- The deliveries that go ahead are those of the route, without its block where the payload does not fit. -/
theorem filter_fits {cls : Byte} {a : Addressee} {ds : List Destination}
    (ahead : (ds = (route p cls a).1 ∧ ∀ d ∈ (route p cls a).1, f.fits d = true) ∨
      ∃ d, (route p cls a).1 = d :: ds ∧ ¬f.fits d = true) : (route p cls a).1.filter f.fits = ds := by
  obtain ⟨block, tail, shape, behind, -⟩ := route_eq p cls a
  have tailFits : ∀ d ∈ tail, f.fits d = true := by
    rcases behind with rfl | rfl
    · exact nofun
    · exact fun d listed => by rw [List.mem_singleton.1 listed]; rfl
  rcases ahead with ⟨rfl, all⟩ | ⟨d, routed, unfit⟩
  · exact List.filter_eq_self.2 all
  · rw [routed, List.filter_cons_of_neg unfit]
    rw [shape] at routed
    refine List.filter_eq_self.2 fun x listed => tailFits x ?_
    cases block with
    | none => exact (List.nil_append tail ▸ routed) ▸ List.mem_cons_of_mem d listed
    | some b =>
      obtain ⟨-, rfl⟩ := List.cons.inj routed
      exact listed

/-- No frame is routed to one destination twice. -/
theorem route_nodup (p : Port) (cls : Byte) (a : Addressee) : (route p cls a).1.Nodup := by
  obtain ⟨block, tail, shape, behind, notTransit⟩ := route_eq p cls a
  rw [shape]
  rcases behind with rfl | rfl
  · cases block <;> simp
  · cases block with
    | none => simp
    | some b => simpa using notTransit b rfl

/-- A routed frame counts once when it is misplaced, and once when its block does not take its length. -/
theorem Counters.countRouting_eq (c : Counters) (p : Port) (f : StoredFrame) (cls : Byte) (a : Addressee) :
    c.countRouting p f (route p cls a) =
      (let c := if (route p cls a).2 then c.misplaced p else c
      if Destination.tapQueue ∈ (route p cls a).1 ∧ f.payloadLength ≠ 17 then { c with malformedTaps := raised c.malformedTaps }
      else if Destination.clock ∈ (route p cls a).1 ∧ f.payloadLength ≠ 5 then c.badFrame p else c) := by
  obtain ⟨block, tail, shape, behind, notTransit⟩ := route_eq p cls a
  have tailFits : tail.filter (fun d => !f.fits d) = [] := by
    rcases behind with rfl | rfl <;> rfl
  have noBlock : ∀ b, b ≠ .transit → b ∉ tail := fun b other listed => by
    rcases behind with rfl | rfl
    · cases listed
    · exact other (List.mem_singleton.1 listed)
  unfold Counters.countRouting
  rw [shape, List.filter_append, tailFits, List.append_nil]
  cases block with
  | none => simp [noBlock]
  | some b =>
    cases b with
    | tapQueue => by_cases fits : f.payloadLength = 17 <;> simp [StoredFrame.fits, lengthFor, Counters.countUnfit, noBlock, fits]
    | management => simp [StoredFrame.fits, lengthFor, noBlock]
    | clock => by_cases fits : f.payloadLength = 5 <;> simp [StoredFrame.fits, lengthFor, Counters.countUnfit, noBlock, fits]
    | transit => exact absurd rfl (notTransit _ rfl)

/-! ### The commands (R152, R153, R155) -/

theorem exec_statusEntryJoin {rest : List StoredFrame} (held : (s.port p).held = f :: rest) : exec (.statusEntryJoin p) s =
    if (s.port p).queue.length < 16 then
      .next (s.setPort p { s.port p with queue := (s.port p).queue ++ [f], held := rest })
    else .next s := by
  show execStatusEntryJoin p s = _
  unfold execStatusEntryJoin
  dsimp only
  rw [held]

section
variable {rest : List StoredFrame} (queue : (s.port p).queue = f :: rest)
include queue

theorem exec_switchEntry_routed (routed : (s.port p).routed ≠ none) : exec (.switchEntry p) s = .next s := by
  obtain ⟨ds, waits⟩ := Option.ne_none_iff_exists'.1 routed
  show execSwitchEntry p s = _
  unfold execSwitchEntry
  rw [queue, waits]

theorem exec_switchEntry_bad (unrouted : (s.port p).routed = none) (bad : f.outcome ≠ .good) : exec (.switchEntry p) s =
    .next { s.setPort p (s.port p).dropHead with counters := s.counters.badFrame p } := by
  show execSwitchEntry p s = _
  unfold execSwitchEntry
  rw [queue, unrouted]
  exact if_neg bad

/-- A good frame is counted as its routing counts it, and has its deliveries tried. -/
theorem exec_switchEntry_good (unrouted : (s.port p).routed = none) (good : f.outcome = .good) : exec (.switchEntry p) s =
    .next (State.switched
      { s with counters := s.counters.countRouting p f (route p f.cls (addressee s.settings.link.nodeAddress f.destination)) }
      p f ((route p f.cls (addressee s.settings.link.nodeAddress f.destination)).1.filter f.fits)) := by
  have routed : s.routeHead p f = State.awaiting
      { s with counters := s.counters.countRouting p f (route p f.cls (addressee s.settings.link.nodeAddress f.destination)) }
      p ((route p f.cls (addressee s.settings.link.nodeAddress f.destination)).1.filter f.fits) := by
    cases p <;> rfl
  show execSwitchEntry p s = _
  unfold execSwitchEntry
  rw [queue, unrouted]
  refine (if_pos good).trans ?_
  rw [routed]
  rfl

theorem exec_frameDelivery {ds : List Destination} {d : Destination} (routed : (s.port p).routed = some ds) :
    exec (.frameDelivery p d) s = .next ((s.tryDelivery p f d).finishRouting p) := by
  show execFrameDelivery p d s = _
  unfold execFrameDelivery
  rw [queue, routed]

end

theorem exec_frameDelivery_full {rest : List StoredFrame} {ds : List Destination} {d : Destination}
    (queue : (s.port p).queue = f :: rest) (routed : (s.port p).routed = some ds) (listed : d ∈ ds)
    (full : ¬s.hasRoom p f d = true) : exec (.frameDelivery p d) s = .next s := by
  rw [exec_frameDelivery queue routed, State.tryDelivery_full full, State.finishRouting_waits]
  rw [routed]
  rintro ⟨⟩
  cases listed

theorem exec_frameDelivery_made {rest : List StoredFrame} {ds : List Destination} {d : Destination}
    (queue : (s.port p).queue = f :: rest) (routed : (s.port p).routed = some ds) (listed : d ∈ ds)
    (room : s.hasRoom p f d = true) (keeps : d = .management → ¬(readRequest f.payload).Resets) :
    exec (.frameDelivery p d) s = .next
      (if ds.erase d = [] then ((s.awaiting p (ds.erase d)).deliver p f d).setPort p (s.port p).dropHead
        else (s.awaiting p (ds.erase d)).deliver p f d) := by
  obtain ⟨port, -⟩ := State.deliver_keeps (s := s.awaiting p (ds.erase d)) (p := p) keeps
  have made := State.tryDelivery_made (s := s) (p := p) (f := f) listed room
  rw [State.awaiting_self routed] at made
  rw [exec_frameDelivery queue routed, made]
  split
  next last =>
    rw [last] at port ⊢
    rw [State.finishRouting_done port]
  next more =>
    rw [State.finishRouting_waits]
    rw [port, State.port_awaiting]
    exact fun same => more (Option.some.inj same)

/-! ### The statement -/

theorem State.malformedKind_of_malformed {payload : List Byte} {k : Nat} (read : readRequest payload = .malformed k) :
    s.malformedKind payload = some k := by
  rw [State.malformedKind, read]

/-- A destination has room by what it holds (R62, R155, R163). -/
theorem State.hasRoom_iff (s : State) (p : Port) (f : StoredFrame) (d : Destination) : s.hasRoom p f d = true ↔
    match d with
      | .tapQueue => s.taps.length < 128
      | .management => s.hand = none ∧ (s.tableFree = true ∨ ∀ t, readRequest f.payload ≠ .journeyQuery t)
      | .clock => True
      | .transit => (match p with | .line => s.upTransit.length | .office => s.downTransit.length) < 16 := by
  have query : f.isQuery = false ↔ ∀ t, readRequest f.payload ≠ .journeyQuery t := by
    unfold StoredFrame.isQuery
    cases readRequest f.payload <;> simp
  cases d with
  | tapQueue => exact decide_eq_true_iff
  | management => simp [State.hasRoom, query]
  | clock => exact iff_of_true rfl trivial
  | transit => cases p <;> exact decide_eq_true_iff

/-- Settles O56: the requests and beacons as their commands, the table of routes, and the deliveries by the room of their
destinations. -/
theorem switchTakesTheHeadEntry : Obligations.SwitchTakesTheHeadEntry := by
  unfold Obligations.SwitchTakesTheHeadEntry
  refine ⟨fun src s => ?_, fun p cls a => ?_, fun p s f rest => ?_⟩
  · refine ⟨fun f => ⟨rfl, rfl⟩, fun day time => rfl, fun hand => ?_⟩
    intro takes
    have free : ∀ act : State → State, .next (s.whenFree act) = (.next (act s) : Host.Outcome State Fault Refusal) :=
      fun act => congrArg _ (State.whenFree_of_none hand act)
    exact ⟨fun v => free _, fun g => free _, fun a i => free _, fun n es => free _, fun n b => free _, free _, free _, free _,
      fun n ts => free _, fun n ts => free _, free _, free _, fun d y => free _, fun tableFree token =>
      exec_journeyQuery hand tableFree, free _, fun c => free _, fun k => free _, fun payload k read =>
      exec_malformedRequest hand (State.malformedKind_of_malformed read)⟩
  · refine ⟨?_, ?_, ?_, route_sent p cls, route_another p cls, fun unnamed => route_unnamed p cls unnamed a⟩
    all_goals
      rintro rfl
      exact ⟨rfl, rfl, rfl, rfl⟩
  · intro ps node r left fits room give resets counted waiting
    have rooms : ∀ d, room d ↔ s.hasRoom p f d = true := fun d => (s.hasRoom_iff p f d).symm
    have fitting : ∀ d, fits d ↔ f.fits d = true := fun d => (f.fits_iff d).symm
    have gives : give = fun d u => u.deliver p f d := funext fun d => by cases d <;> rfl
    have leaves : ps.queue = f :: rest → left = ps.dropHead := fun queue => (PortState.dropHead_eq queue).symm
    have counts : counted = { s with counters := s.counters.countRouting p f r } :=
      congrArg (fun c => { s with counters := c }) (s.counters.countRouting_eq p f f.cls _).symm
    have samePort : counted.port p = s.port p := by cases p <;> rfl
    have sameRoom : ∀ d, room d ↔ counted.hasRoom p f d = true := fun d => (rooms d).trans (by cases p <;> cases d <;> rfl)
    have waits : ∀ ds, waiting ds = counted.awaiting p ds := fun ds => by rw [State.awaiting, samePort]
    refine ⟨fun held => ?_, exec_switchEntry_routed, fun queue unrouted => ⟨fun bad => ?_, fun good => ?_⟩,
      fun d ds queue routed listed => ⟨fun full => ?_, fun roomy keeps => ?_⟩⟩
    · rw [exec_statusEntryJoin held]
      exact ⟨fun few => if_pos few, fun full => if_neg (Nat.not_lt.2 full)⟩
    · rw [leaves queue]
      exact exec_switchEntry_bad queue unrouted bad
    · have runs : exec (.switchEntry p) s = .next (counted.switched p f (r.1.filter f.fits)) := by
        rw [counts]
        exact exec_switchEntry_good queue unrouted good
      simp only [gives, waits, leaves queue, sameRoom, fitting, ← samePort, ps]
      clear_value counted
      refine ⟨fun ds ahead => ?_, fun only isReset roomy => ?_, fun both isReset roomy => ?_⟩
      · have filtered := filter_fits ahead
        have nodup : ds.Nodup := filtered ▸ (route_nodup p f.cls _).filter f.fits
        rw [filtered] at runs
        rw [runs]
        refine ⟨fun nothing => ?_, fun d keeps => ⟨fun one roomy => ?_, fun one full => ?_, fun two => ?_⟩⟩
        · rw [nothing, State.switched_none]
        · rw [one, State.switched_one_made keeps roomy]
        · rw [one, State.switched_one_full full]
        · rw [two] at nodup ⊢
          have block : d ≠ .transit := by simpa using nodup
          refine ⟨fun roomy => ?_, fun roomy => ?_, fun full => ?_, fun full => ?_⟩
          · exact fun transit => congrArg _ ((State.switched_two_made block roomy keeps).1 transit)
          · exact fun transit => congrArg _ ((State.switched_two_made block roomy keeps).2 transit)
          · exact fun transit => congrArg _ ((State.switched_two_full block full).1 transit)
          · exact fun transit => congrArg _ ((State.switched_two_full block full).2 transit)
      · have filtered : r.1.filter f.fits = [.management] := by rw [only]; rfl
        rw [runs, filtered, (State.switched_resets isReset roomy).1]
      · have filtered : r.1.filter f.fits = [.management, .transit] := by rw [both]; rfl
        rw [runs, filtered, (State.switched_resets isReset roomy).2]
    · exact exec_frameDelivery_full queue routed listed fun roomy => full ((rooms d).2 roomy)
    · rw [exec_frameDelivery_made queue routed listed ((rooms d).1 roomy) keeps, gives, leaves queue]
      rfl

end Sys2Proof.Machine
end

section
/-! PROOFS. Requests in general: where a response goes and what a request does while another is in hand (R162, R163),
STATUS_READ (R169, R170), and ENGINE_RESET by its kind (R164, R177). -/

namespace Sys2Proof.Machine

variable {s : State} {src : Nat}

/-! ### Responses (R162, R163) -/

/-- A response formed while the response queue has room joins its tail (R163). -/
theorem State.respond_of_room (r : Response) (room : s.responses.length < 4) :
    s.respond r = { s with responses := s.responses ++ [r] } := if_pos (State.responseRoom_of room)

/-- A response formed while the response queue is full is held in hand (R163). -/
theorem State.respond_of_full (r : Response) (full : 4 ≤ s.responses.length) : s.respond r = { s with hand := some r } :=
  if_neg (State.responseRoom_full full)

/-- With a request in hand no other acts (log 3). -/
theorem State.whenFree_of_hand (held : s.hand ≠ none) (act : State → State) : s.whenFree act = s :=
  if_pos (Option.isSome_iff_ne_none.2 held)

/-- Settles O11: the queue by its room; every request command goes through `State.whenFree`. -/
theorem responsesAreQueuedOrHeld : Obligations.ResponsesAreQueuedOrHeld := by
  unfold Obligations.ResponsesAreQueuedOrHeld
  refine ⟨fun s r => State.respond_of_room r, fun s r => State.respond_of_full r, fun s src held => ?_⟩
  have idle (act : State → State) : .next (s.whenFree act) = (.next s : Host.Outcome State Fault Refusal) :=
    congrArg _ (State.whenFree_of_hand held act)
  exact ⟨idle _, idle _, fun _ => idle _, fun _ => idle _, fun _ => idle _, fun _ _ => idle _, fun _ _ => idle _,
    fun _ _ => idle _, idle _, idle _, idle _, fun _ _ => idle _, fun _ _ => idle _, idle _, idle _, fun _ _ => idle _,
    fun _ => idle _, idle _, fun _ => idle _, fun _ => idle _⟩

/-! ### STATUS_READ (R169, R170) -/

theorem exec_statusRead (hand : s.hand = none) (clear : Bool) :
    exec (.statusRead src clear) s = .next (s.statusRead src clear) := congrArg _ (State.whenFree_of_none hand _)

/-- Counters cleared are all 0 (R168). -/
theorem Counters.values_cleared : ∀ n ∈ ({} : Counters).values, n = 0 := fun _ => List.eq_of_mem_replicate (n := 18)

/-- Settles O29: the counters left are the cleared ones or those that stood, as was asked. -/
theorem statusReadReportsThenClears : Obligations.StatusReadReportsThenClears := by
  unfold Obligations.StatusReadReportsThenClears
  intro src clear s hand
  refine ⟨if clear then {} else s.counters, exec_statusRead hand clear, fun asked => ?_, fun kept => ?_⟩
  · rw [if_pos asked]
    exact Counters.values_cleared
  · rw [kept]
    rfl

/-! ### ENGINE_RESET (R164, R177) -/

theorem exec_fullReset (hand : s.hand = none) : exec (.fullReset src) s = .next (s.takeFullReset src) :=
  congrArg _ (State.whenFree_of_none hand _)

theorem exec_warmReset (hand : s.hand = none) : exec (.warmReset src) s = .next (s.takeWarmReset src) :=
  congrArg _ (State.whenFree_of_none hand _)

theorem exec_engineReset (hand : s.hand = none) (kind : Nat) :
    exec (.engineReset src kind) s = .next (s.engineReset src kind) := congrArg _ (State.whenFree_of_none hand _)

@[simp] theorem State.engineReset_warm : s.engineReset src 1 = s.takeWarmReset src := rfl

@[simp] theorem State.engineReset_full : s.engineReset src 2 = s.takeFullReset src := rfl

/-- A reset kind that names neither reset is refused (R164). -/
theorem State.engineReset_unnamed {kind : Nat} (warm : kind ≠ 1) (full : kind ≠ 2) :
    s.engineReset src kind = s.respond ⟨src, 0x41, .badArgument, .engineReset 0 0 0⟩ :=
  (if_neg warm).trans (if_neg full)

/-- Settles O5: each form of the request is the reset it names, and any other kind the refusal. -/
theorem engineResetTakesItsKind : Obligations.EngineResetTakesItsKind := by
  unfold Obligations.EngineResetTakesItsKind
  intro src s hand
  refine ⟨⟨exec_fullReset hand, exec_warmReset hand⟩, ?_, ?_, fun kind warm full => ?_⟩
  · rw [exec_engineReset hand, exec_warmReset hand, State.engineReset_warm]
  · rw [exec_engineReset hand, exec_fullReset hand, State.engineReset_full]
  · rw [exec_engineReset hand, State.engineReset_unnamed warm full]

end Sys2Proof.Machine
end

section
/-! PROOFS. The settings requests (R165 to R167): the first setting out of its range, SETTING_WRITE by its checks, and
SETTING_READ. -/

namespace Sys2Proof.Machine

variable {s : State} {src : Nat}

/-! ### The setting named in a refusal (R166) -/

@[simp] theorem firstOutside_nil (i : Nat) : firstOutside i [] = 0 := rfl

/-- A range checked at place `i` is named there when the value lies below or above it. -/
theorem firstOutside_within (i least most n : Nat) (rest : List Bool) :
    firstOutside i (within least most n :: rest) = if n < least ∨ most < n then i else firstOutside (i + 1) rest := by
  by_cases outside : n < least ∨ most < n
  · have bad : within least most n = false := by
      rw [← Bool.not_eq_true, within_iff]
      omega
    rw [if_pos outside, bad]
    rfl
  · have good : within least most n = true := within_iff.2 (by omega)
    rw [if_neg outside, good]
    rfl

theorem namedSetting_link (n p : Nat) :
    namedSetting (.link n p) = if n < 65 ∨ 126 < n then 1 else if p < 1 ∨ 60 < p then 2 else 0 := by
  simp only [namedSetting, inRanges, firstOutside_within, firstOutside_nil]

theorem namedSetting_timing (w b v f : Nat) :
    namedSetting (.timing w b v f) =
      if w < 10 ∨ 600 < w then 1 else if b < 5 ∨ 120 < b then 2 else if v < 1 ∨ 50 < v then 3
      else if 600 < f then 4 else 0 := by
  simp only [namedSetting, inRanges, firstOutside_within, firstOutside_nil, Nat.not_lt_zero, false_or]

theorem namedSetting_journey (m p b o l : Nat) :
    namedSetting (.journey m p b o l) =
      if m < 30 ∨ 480 < m then 1 else if 600 < p then 2 else if 90 < b then 3 else if o < 1 ∨ 120 < o then 4
      else if l < 16 ∨ 1024 < l then 5 else 0 := by
  simp only [namedSetting, inRanges, firstOutside_within, firstOutside_nil, Nat.not_lt_zero, false_or]

/-! ### SETTING_WRITE (R165, R166) -/

theorem exec_settingWrite (hand : s.hand = none) (v : SettingValues) :
    exec (.settingWrite src v) s = .next (s.settingWrite src v) := congrArg _ (State.whenFree_of_none hand _)

/-- A group byte other than 1 to 3 names no group. -/
theorem namesGroup_eq_false {g : Nat} (link : g ≠ 1) (timing : g ≠ 2) (journey : g ≠ 3) : namesGroup g = false := by
  simp [namesGroup, link, timing, journey]

/-- Values read as those of a group name it. -/
theorem namesGroup_groupOf {v : SettingValues} (named : ∀ g, v ≠ .other g) : namesGroup (groupOf v) = true := by
  cases v with
  | link n p => rfl
  | timing w b v f => rfl
  | journey m p b o l => rfl
  | other g => exact absurd rfl (named g)

section
variable {v : SettingValues}

/-- The first check of R166: a group byte that names no group. -/
theorem exec_settingWrite_unnamed (hand : s.hand = none) (unnamed : namesGroup (groupOf v) = false) :
    exec (.settingWrite src v) s = .next (s.respond (s.settingResponse src 0x01 .badArgument (groupOf v) 0)) := by
  rw [exec_settingWrite hand, State.settingWrite, if_pos unnamed]

variable (hand : s.hand = none) (named : namesGroup (groupOf v) = true)
include hand named

/-- The second check of R166: the mode. -/
theorem exec_settingWrite_service (service : s.mode = .service) :
    exec (.settingWrite src v) s = .next (s.respond (s.settingResponse src 0x01 .badState (groupOf v) 0)) := by
  rw [exec_settingWrite hand, State.settingWrite, if_neg (by simp [named]), if_pos service]

/-- The third check of R166: the first value out of its range, which the response names. -/
theorem exec_settingWrite_outside (maintenance : s.mode = .maintenance) {place : Nat} (first : namedSetting v = place)
    (outside : place ≠ 0) :
    exec (.settingWrite src v) s =
      .next (s.respond (s.settingResponse src 0x01 .badArgument (groupOf v) place)) := by
  rw [exec_settingWrite hand, State.settingWrite, if_neg (by simp [named]), if_neg (by simp [maintenance]), first,
    if_pos outside]

/-- With every check passed the group is written at once, and the response reports it as then held (R165, R166). -/
theorem exec_settingWrite_accepted (maintenance : s.mode = .maintenance) (inRange : namedSetting v = 0) :
    exec (.settingWrite src v) s =
      (let stored := { s with settings := s.settings.write v, written := s.written.write v }
       .next (stored.respond (stored.settingResponse src 0x01 .done (groupOf v) 0))) := by
  rw [exec_settingWrite hand, State.settingWrite, if_neg (by simp [named]), if_neg (by simp [maintenance]),
    if_neg (not_not.2 inRange)]

end

/-- Settles O12: the checks in the order of R166, the ranges of each group by the setting they name first. -/
theorem settingWriteStoresOrRefuses : Obligations.SettingWriteStoresOrRefuses := by
  unfold Obligations.SettingWriteStoresOrRefuses
  refine ⟨fun src s hand maintenance => ?accepted, fun src s hand =>
    ⟨fun g link timing journey => ⟨_, exec_settingWrite_unnamed hand (namesGroup_eq_false link timing journey)⟩,
      fun service v named => ⟨_, exec_settingWrite_service hand (namesGroup_groupOf named) service⟩,
      fun maintenance => ?outside⟩⟩
  case accepted =>
    refine ⟨fun n p _ _ _ _ => exec_settingWrite_accepted hand rfl maintenance ((namedSetting_link n p).trans ?_),
      fun w b v f _ _ _ _ _ _ _ =>
        exec_settingWrite_accepted hand rfl maintenance ((namedSetting_timing w b v f).trans ?_),
      fun m p b o l _ _ _ _ _ _ _ _ =>
        exec_settingWrite_accepted hand rfl maintenance ((namedSetting_journey m p b o l).trans ?_)⟩
    all_goals split_ifs <;> omega
  case outside =>
    refine ⟨fun n p bad =>
        ⟨_, _, exec_settingWrite_outside hand rfl maintenance ((namedSetting_link n p).trans ?_) ?_⟩,
      fun w b v f bad =>
        ⟨_, _, exec_settingWrite_outside hand rfl maintenance ((namedSetting_timing w b v f).trans ?_) ?_⟩,
      fun m p b o l bad =>
        ⟨_, _, exec_settingWrite_outside hand rfl maintenance ((namedSetting_journey m p b o l).trans ?_) ?_⟩⟩
    all_goals split_ifs <;> omega

/-! ### SETTING_READ (R167) -/

theorem exec_settingRead (hand : s.hand = none) (g : Nat) :
    exec (.settingRead src g) s = .next (s.settingRead src g) := congrArg _ (State.whenFree_of_none hand _)

/-- A group byte that names no group is refused (R167). -/
theorem State.settingRead_unnamed {g : Nat} (unnamed : namesGroup g = false) :
    s.settingRead src g = s.respond (s.settingResponse src 0x02 .badArgument g 0) := by
  rw [State.settingRead, unnamed]
  rfl

/-- Settles O13: the three groups as the response reports them, and a byte that names none refused. -/
theorem settingReadReportsTheGroup : Obligations.SettingReadReportsTheGroup := by
  unfold Obligations.SettingReadReportsTheGroup
  exact fun src s hand => ⟨exec_settingRead hand 1, exec_settingRead hand 2, exec_settingRead hand 3,
    fun g link timing journey => ⟨_, (exec_settingRead hand g).trans
      (congrArg _ (State.settingRead_unnamed (namesGroup_eq_false link timing journey)))⟩⟩

end Sys2Proof.Machine
end

section
/-! PROOFS. SERVICE_START (R175): each line of its table as the judgement gives it, and what the command does with a refusal
and with none. -/

namespace Sys2Proof.Machine

variable {s : State} {src : Nat}

theorem exec_serviceStart (hand : s.hand = none) : exec (.serviceStart src) s = .next (s.serviceStart src) :=
  congrArg _ (State.whenFree_of_none hand _)

/-! ### The lines of the table, each met with those above it passed (R175) -/

theorem State.judgeStart_inService (service : s.mode = .service) :
    s.judgeStart src = some (startRefused src .badState .alreadyInService none) := if_pos service

section
variable (maintenance : s.mode = .maintenance)
include maintenance

theorem State.judgeStart_audit (audit : s.auditOp ≠ none) :
    s.judgeStart src = some (startRefused src .busy .none none) := by
  rw [State.judgeStart, if_neg (by simp [maintenance]), if_pos (Option.isSome_iff_ne_none.2 audit)]

variable (idle : s.auditOp = none)
include idle

theorem State.judgeStart_linkClear (link : s.written.link = false) :
    s.judgeStart src = some (startRefused src .badState .linkNotWritten none) := by
  rw [State.judgeStart, if_neg (by simp [maintenance]), if_neg (by simp [idle]), if_pos link]

theorem State.judgeStart_timingClear (link : s.written.link = true) (timing : s.written.timing = false) :
    s.judgeStart src = some (startRefused src .badState .timingNotWritten none) := by
  rw [State.judgeStart, if_neg (by simp [maintenance]), if_neg (by simp [idle]), if_neg (by simp [link]),
    if_pos timing]

theorem State.judgeStart_journeyClear (link : s.written.link = true) (timing : s.written.timing = true)
    (journey : s.written.journey = false) :
    s.judgeStart src = some (startRefused src .badState .journeyNotWritten none) := by
  rw [State.judgeStart, if_neg (by simp [maintenance]), if_neg (by simp [idle]), if_neg (by simp [link]),
    if_neg (by simp [timing]), if_pos journey]

variable (written : s.written = ⟨true, true, true⟩)
include written

theorem State.judgeStart_liveFails {f : CheckFailure} (fails : s.tariff.liveBank.firstFailure = some f) :
    s.judgeStart src = some (startRefused src .badState .liveTariff (some f)) := by
  simp [State.judgeStart, maintenance, idle, written, fails]

/-- With the mode, the audit, the marks and the live bank passed, only the day is left to judge (R175). -/
theorem State.judgeStart_livePasses (passes : s.tariff.liveBank.firstFailure = none) :
    s.judgeStart src = if s.clock.day = none then some (startRefused src .badState .dayUnset none) else none := by
  simp [State.judgeStart, maintenance, idle, written, passes]

end

/-! ### The command (R175) -/

/-- A refusal is the response and changes nothing else (R175). -/
theorem exec_serviceStart_refused (hand : s.hand = none) {r : Response} (refused : s.judgeStart src = some r) :
    exec (.serviceStart src) s = .next (s.respond r) := by
  rw [exec_serviceStart hand, State.serviceStart, refused]

/-- With no line that refuses, the part starts and the response gives the day, its type and the live bank (R147, R175). -/
theorem exec_serviceStart_accepted (hand : s.hand = none) (accepted : s.judgeStart src = none) {day : Nat}
    (set : s.clock.day = some day) :
    exec (.serviceStart src) s =
      .next (s.started.respond
        ⟨src, 0x20, .done, .serviceStart ⟨.none, none, day, s.clock.dayType, s.tariff.live⟩⟩) := by
  rw [exec_serviceStart hand, State.serviceStart, accepted, State.today, set, Option.getD_some]

/-- Settles O23: the lines of R175 in order, each refusal by the line that gives it, the start when none does. -/
theorem serviceStartByItsTable : Obligations.ServiceStartByItsTable := by
  unfold Obligations.ServiceStartByItsTable
  intro src s hand
  have refused {r item f} (line : s.judgeStart src = some (startRefused src r item f)) :
      ∃ d y l, exec (.serviceStart src) s = .next (s.respond ⟨src, 0x20, r, .serviceStart ⟨item, f, d, y, l⟩⟩) :=
    ⟨_, _, _, exec_serviceStart_refused hand line⟩
  refine ⟨fun service => refused (State.judgeStart_inService service),
    fun maintenance audit => refused (State.judgeStart_audit maintenance audit),
    fun maintenance idle => ⟨fun link => refused (State.judgeStart_linkClear maintenance idle link),
      fun link timing => refused (State.judgeStart_timingClear maintenance idle link timing),
      fun link timing journey => refused (State.judgeStart_journeyClear maintenance idle link timing journey),
      fun written => ⟨fun f fails => refused (State.judgeStart_liveFails maintenance idle written fails),
        fun passes unset => refused ?dayUnset, fun day passes set => exec_serviceStart_accepted hand ?accepted set⟩⟩⟩
  case dayUnset => rw [State.judgeStart_livePasses maintenance idle written passes, if_pos unset]
  case accepted => rw [State.judgeStart_livePasses maintenance idle written passes, if_neg (by simp [set])]

end Sys2Proof.Machine
end

section
/-! PROOFS. What a step runs (log 1), and that every command answers a next state (log 2): each unit's events by the
branches of their meanings, then the dispatch. -/

namespace Sys2Proof.Machine

variable {s : State}

/-! ### The step (log 1) -/

theorem step_of_pending_cons (c : Instr) (rest : List Instr) :
    step { s with pending := c :: rest } = exec c { s with pending := rest } := rfl

theorem step_of_pending_nil (none_waits : s.pending = []) : step s = .next s.sendCharacters := by
  rw [step, none_waits]

/-- Settles O1: the queue's two forms, one equation of the step for each. -/
theorem stepRunsFrontCommand : Obligations.StepRunsFrontCommand := by
  unfold Obligations.StepRunsFrontCommand
  exact ⟨fun c rest _ => step_of_pending_cons c rest, fun _ none_waits => step_of_pending_nil none_waits⟩

/-! ### Outcomes that answer a next state -/

/-- An outcome that is neither a fault nor a refusal. -/
def AnswersNext (o : Host.Outcome State Fault Refusal) : Prop := ∃ t, o = .next t

theorem AnswersNext.next (t : State) : AnswersNext (.next t) := ⟨t, rfl⟩

/-- A command whose occasion may be absent answers next whether it is there or not (log 2). -/
theorem AnswersNext.ite {c : Prop} [Decidable c] {o p : Host.Outcome State Fault Refusal} (ho : AnswersNext o)
    (hp : AnswersNext p) : AnswersNext (if c then o else p) := by
  split
  · exact ho
  · exact hp

/-! ### The Journey Unit -/

theorem execTapTake_answers (steps : Option Nat) : AnswersNext (execTapTake s steps) := by
  unfold execTapTake
  split
  · exact .next _
  · exact .ite (.next _) (.next _)
  · exact .next _

theorem execRecordAppend_answers : AnswersNext (execRecordAppend s) := by
  unfold execRecordAppend
  split
  · exact .ite (.next _) (.next _)
  · exact .next _

/-! ### The Sweep Unit -/

theorem execSweepTimerExpiry_answers : AnswersNext (execSweepTimerExpiry s) := by
  unfold execSweepTimerExpiry
  refine .ite ?due (.next _)
  dsimp only
  split
  · exact .next _
  · exact .ite (.next _) (.next _)

theorem execAgePassExamination_answers : AnswersNext (execAgePassExamination s) := by
  unfold execAgePassExamination
  split
  · exact .ite (.next _) (.next _)
  · exact .next _

theorem execForcedPassExamination_answers : AnswersNext (execForcedPassExamination s) := by
  unfold execForcedPassExamination
  split
  · exact .ite (.next _) (.next _)
  · exact .next _

theorem execDayChangeWalkExamination_answers : AnswersNext (execDayChangeWalkExamination s) := by
  unfold execDayChangeWalkExamination
  split
  · exact .ite (.next _) (.next _)
  · exact .next _

theorem execWalkRecordAppend_answers : AnswersNext (execWalkRecordAppend s) := by
  unfold execWalkRecordAppend
  refine .ite ?room (.next _)
  split
  · exact .next _
  · exact .next _
  · exact .next _

/-! ### The pool audit -/

theorem execAuditChainWalk_answers (slots : Option Nat) : AnswersNext (execAuditChainWalk s slots) := by
  unfold execAuditChainWalk
  split
  · exact .ite (.next _) (.next _)
  · exact .next _

theorem execAuditSlotExamination_answers : AnswersNext (execAuditSlotExamination s) := by
  unfold execAuditSlotExamination
  split
  · refine .ite ?mayExamine (.next _)
    split
    · exact .next _
    · exact .next _
  · exact .next _

theorem execAuditSlotTest_answers (passes : Bool) : AnswersNext (execAuditSlotTest passes s) := by
  unfold execAuditSlotTest
  split
  · refine .ite ?mayExamine (.next _)
    split
    · exact .next _
    · exact .next _
  · exact .next _

theorem execAuditOrderRebuild_answers (steps : Option Nat) : AnswersNext (execAuditOrderRebuild s steps) :=
  .ite (.next _) (.next _)

/-! ### The Service Clock -/

theorem execClockHold_answers : AnswersNext (execClockHold s) := .ite (.next _) (.next _)

theorem execBeaconWatchdogExpiry_answers : AnswersNext (execBeaconWatchdogExpiry s) := .ite (.next _) (.next _)

/-! ### Copies, completions and waiting responses -/

theorem execCopyEntry_answers : AnswersNext (execCopyEntry s) := by
  unfold execCopyEntry
  split
  · exact .ite (.next _) (.next _)
  · exact .next _

theorem execTariffCopyCompletion_answers : AnswersNext (execTariffCopyCompletion s) := by
  unfold execTariffCopyCompletion
  split
  · exact .ite (.ite (.next _) (.next _)) (.next _)
  · exact .next _

theorem execDayChangeCompletion_answers : AnswersNext (execDayChangeCompletion s) := by
  unfold execDayChangeCompletion
  split
  · exact .ite (.ite (.next _) (.next _)) (.next _)
  · exact .next _

theorem execPoolAuditCompletion_answers : AnswersNext (execPoolAuditCompletion s) := by
  unfold execPoolAuditCompletion
  split
  · exact .ite (.next _) (.next _)
  · exact .next _

theorem execResponseQueueJoin_answers (w : Waiter) : AnswersNext (execResponseQueueJoin w s) := by
  unfold execResponseQueueJoin
  split
  · exact .ite (.next _) (.next _)
  · exact .next _

/-! ### The ports -/

theorem execDataByte_answers (p : Port) (b : Byte) : AnswersNext (execDataByte p b s) := by
  unfold execDataByte
  split
  · exact .next _
  · exact .next _
  · exact .next _

theorem execFrameEnd_answers (p : Port) : AnswersNext (execFrameEnd p s) := by
  unfold execFrameEnd
  split
  · exact .next _
  · exact .next _
  · exact .next _

theorem execAbort_answers (p : Port) : AnswersNext (execAbort p s) := by
  unfold execAbort
  split
  · exact .next _
  · exact .next _

theorem execStatusEntryJoin_answers (p : Port) : AnswersNext (execStatusEntryJoin p s) := by
  unfold execStatusEntryJoin
  dsimp only
  split
  · exact .ite (.next _) (.next _)
  · exact .next _

theorem execPause_answers (p : Port) : AnswersNext (execPause p s) := .ite (.next _) (.next _)

theorem execResume_answers (p : Port) : AnswersNext (execResume p s) := .ite (.next _) (.next _)

theorem execPauseLimitExpiry_answers (p : Port) : AnswersNext (execPauseLimitExpiry p s) := .ite (.next _) (.next _)

theorem execSwitchEntry_answers (p : Port) : AnswersNext (execSwitchEntry p s) := by
  unfold execSwitchEntry
  split
  · exact .ite (.next _) (.next _)
  · exact .next _

theorem execFrameDelivery_answers (p : Port) (d : Destination) : AnswersNext (execFrameDelivery p d s) := by
  unfold execFrameDelivery
  split
  · exact .next _
  · exact .next _

theorem execEgressGrant_answers (p : Port) : AnswersNext (execEgressGrant p s) := by
  unfold execEgressGrant
  refine .ite (.next _) ?free
  split
  · exact .next _
  · exact .next _

theorem execEndSent_answers (p : Port) : AnswersNext (execEndSent p s) := by
  unfold execEndSent
  split
  · exact .next _
  · exact .next _

/-! ### The dispatch -/

/-- A request and an event that is always due are one next state by definition; each other command goes by its lemma. -/
theorem exec_answers (c : Instr) (s : State) : AnswersNext (exec c s) := by
  cases c with
  | powerOn | fullReset | warmReset | engineReset => exact .next _
  | settingWrite | settingRead | statusRead | malformedRequest => exact .next _
  | tableSeek | tableWrite | tableRead | tariffCheck | tariffCommit | tariffCopy | denyAdd | denyRemove => exact .next _
  | serviceStart | serviceStop | dayChange | journeyQuery | poolAudit => exact .next _
  | serviceTimeTick | beacon | frameStart | lineError => exact .next _
  | tapTake steps => exact execTapTake_answers steps
  | recordAppend => exact execRecordAppend_answers
  | sweepTimerExpiry => exact execSweepTimerExpiry_answers
  | agePassExamination => exact execAgePassExamination_answers
  | forcedPassExamination => exact execForcedPassExamination_answers
  | dayChangeWalkExamination => exact execDayChangeWalkExamination_answers
  | walkRecordAppend => exact execWalkRecordAppend_answers
  | auditChainWalk slots => exact execAuditChainWalk_answers slots
  | auditSlotExamination => exact execAuditSlotExamination_answers
  | auditSlotTest passes => exact execAuditSlotTest_answers passes
  | auditOrderRebuild steps => exact execAuditOrderRebuild_answers steps
  | clockHold => exact execClockHold_answers
  | beaconWatchdogExpiry => exact execBeaconWatchdogExpiry_answers
  | copyEntry => exact execCopyEntry_answers
  | tariffCopyCompletion => exact execTariffCopyCompletion_answers
  | dayChangeCompletion => exact execDayChangeCompletion_answers
  | poolAuditCompletion => exact execPoolAuditCompletion_answers
  | responseQueueJoin waiter => exact execResponseQueueJoin_answers waiter
  | dataByte port byte => exact execDataByte_answers port byte
  | frameEnd port => exact execFrameEnd_answers port
  | abort port => exact execAbort_answers port
  | statusEntryJoin port => exact execStatusEntryJoin_answers port
  | pause port => exact execPause_answers port
  | resume port => exact execResume_answers port
  | pauseLimitExpiry port => exact execPauseLimitExpiry_answers port
  | switchEntry port => exact execSwitchEntry_answers port
  | frameDelivery port destination => exact execFrameDelivery_answers port destination
  | egressGrant port => exact execEgressGrant_answers port
  | endSent port => exact execEndSent_answers port

/-- Settles O2: the dispatch, each command by its meaning's branches. -/
theorem everyCommandAnswersNext : Obligations.EveryCommandAnswersNext := by
  unfold Obligations.EveryCommandAnswersNext
  exact exec_answers

end Sys2Proof.Machine
end
